-- ==== Sys2Proof/Word.lean ====
section
/-! DEFINITION. The word types of the Zidel 9600 model. -/
namespace Sys2Proof

/-- One byte of memory (R1). -/
abbrev Byte := BitVec 8

/-- A general register, a special register, an address while it is computed (R252). -/
abbrev Word := BitVec 64

/-- A vector register (R252). -/
abbrev Vec := BitVec 512

/-- A table keyed by number: pairs in strictly rising key order; a key that is not listed holds the table's default. -/
abbrev Table (α : Type) := List (Nat × α)

/-- Bytes by address, the same form (Host.Cell). -/
abbrev Mem := Table Byte

end Sys2Proof
end

