-- ==== Sys2Proof/Machine/Table.lean ====
section
/-! DEFINITION. Operations on tables keyed by number. The form is kept canonical: keys rise strictly, and no entry equals what
an unlisted key holds. -/
namespace Sys2Proof

/-- What key `k` holds; `d` is the value of every unlisted key. -/
def tget {α : Type} (d : α) : Table α → Nat → α
  | [], _ => d
  | (k, v) :: t, n => if n = k then v else tget d t n

/-- Sets key `n`, keeping the keys in rising order. -/
def tins {α : Type} (n : Nat) (x : α) : Table α → Table α
  | [] => [(n, x)]
  | (k, v) :: t => if n < k then (n, x) :: (k, v) :: t else if n = k then (n, x) :: t else (k, v) :: tins n x t

/-- Removes every entry of key `n`. -/
def tdel {α : Type} (n : Nat) (t : Table α) : Table α := t.filter (fun e => e.1 != n)

/-- Sets key `n` to `x`; the default removes the entry. -/
def tset {α : Type} [DecidableEq α] (d : α) (t : Table α) (n : Nat) (x : α) : Table α :=
  if x = d then tdel n t else tins n x t

/-- Changes what key `n` holds. -/
def tmod {α : Type} [DecidableEq α] (d : α) (t : Table α) (n : Nat) (f : α → α) : Table α := tset d t n (f (tget d t n))

/-- Changes every listed entry. -/
def tmap {α : Type} (f : Nat → α → α) (t : Table α) : Table α := t.map (fun e => (e.1, f e.1 e.2))

/-- The keys rise strictly from `lo`, and no entry equals the default. -/
def twfFrom {α : Type} [DecidableEq α] (d : α) : Nat → Table α → Bool
  | _, [] => true
  | lo, (k, v) :: t => decide (lo ≤ k) && decide (v ≠ d) && twfFrom d (k + 1) t

/-- The canonical form of a table. -/
def twf {α : Type} [DecidableEq α] (d : α) (t : Table α) : Bool := twfFrom d 0 t

/-- `Memory.wf`: a byte memory whose unlisted bytes read `d` is in canonical form. -/
def Memory.wf (d : Byte) (m : Mem) : Bool := twf d m

/-- The `n` bytes from address `a`. -/
def mread (d : Byte) (m : Mem) (a : Nat) : Nat → List Byte
  | 0 => []
  | n + 1 => tget d m a :: mread d m (a + 1) n

/-- Writes a byte list from address `a`. -/
def mwrite (d : Byte) (m : Mem) (a : Nat) : List Byte → Mem
  | [] => m
  | b :: bs => mwrite d (tset d m a b) (a + 1) bs

/-- Writes the bytes of a list whose flag is set. -/
def mwriteMask (d : Byte) (m : Mem) (a : Nat) : List (Option Byte) → Mem
  | [] => m
  | none :: bs => mwriteMask d m (a + 1) bs
  | some b :: bs => mwriteMask d (tset d m a b) (a + 1) bs

/-- Little-endian value of bytes (R1). -/
def bytesToNat : List Byte → Nat
  | [] => 0
  | b :: bs => b.toNat + 256 * bytesToNat bs

/-- The `n` low bytes of a value, little-endian (R1). -/
def natToBytes : Nat → Nat → List Byte
  | 0, _ => []
  | n + 1, v => BitVec.ofNat 8 v :: natToBytes n (v / 256)

/-- Bits [hi:lo] of a value. -/
def bits (v hi lo : Nat) : Nat := v / 2 ^ lo % 2 ^ (hi + 1 - lo)

/-- Bit `i` of a value. -/
def bit (v i : Nat) : Bool := v / 2 ^ i % 2 == 1

/-- The number of a Boolean. -/
def b2n (b : Bool) : Nat := if b then 1 else 0

/-- The first `n` numbers that satisfy `p`, counted from 0, searching below `bound`. -/
def findNat (p : Nat → Bool) : Nat → Nat → Option Nat
  | 0, _ => none
  | k + 1, i => if p i then some i else findNat p k (i + 1)

/-- Replaces the element at an index. -/
def setAt {α : Type} : List α → Nat → α → List α
  | [], _, _ => []
  | _ :: t, 0, x => x :: t
  | h :: t, n + 1, x => h :: setAt t n x

/-- Removes the element at an index. -/
def delAt {α : Type} : List α → Nat → List α
  | [], _ => []
  | _ :: t, 0 => t
  | h :: t, n + 1 => h :: delAt t n

end Sys2Proof
end

