-- ==== Sys2Proof/Machine/Crypto.lean ====
section
/-! DEFINITION. The algorithms that the manual names by their standards: SHAKE256 (FIPS 202), AES-256 with key wrap (FIPS 197, SP 800-38F)
and XTS (IEEE 1619), ML-KEM-1024 (FIPS 203), SLH-DSA with SHAKE (FIPS 205), and the BCH code of a DRAM frame (R149). They are written from
the standards (log 93). Byte strings are lists of bytes. -/
namespace Sys2Proof.Machine

/-! ### FIPS 202 -/

/-- Round constants of Keccak-f[1600]. -/
def keccakRc : List (BitVec 64) :=
  [0x1, 0x8082, 0x800000000000808A, 0x8000000080008000, 0x808B, 0x80000001, 0x8000000080008081, 0x8000000000008009, 0x8A, 0x88,
   0x80008009, 0x8000000A, 0x8000808B, 0x800000000000008B, 0x8000000000008089, 0x8000000000008003, 0x8000000000008002,
   0x8000000000000080, 0x800A, 0x800000008000000A, 0x8000000080008081, 0x8000000000008080, 0x80000001, 0x8000000080008008]

/-- Rotations of lane x + 5y. -/
def keccakRot : List Nat := [0, 1, 62, 28, 27, 36, 44, 6, 55, 20, 3, 10, 43, 25, 39, 41, 45, 15, 21, 8, 18, 2, 61, 56, 14]

/-- Lane `i` of a state. -/
def lane (a : List (BitVec 64)) (i : Nat) : BitVec 64 := (a[i]?).getD 0

/-- One round of Keccak-f[1600] on its 25 lanes. -/
def keccakRound (a : List (BitVec 64)) (rc : BitVec 64) : List (BitVec 64) :=
  let c := (List.range 5).map (fun x => (List.range 5).foldl (fun v y => v ^^^ lane a (x + 5 * y)) 0)
  let d := (List.range 5).map (fun x => lane c ((x + 4) % 5) ^^^ (lane c ((x + 1) % 5)).rotateLeft 1)
  let t := (List.range 25).map (fun i => (lane a i ^^^ lane d (i % 5)).rotateLeft ((keccakRot[i]?).getD 0))
  let b := (List.range 25).map (fun i => lane t ((i % 5 + 3 * (i / 5)) % 5 + 5 * (i % 5)))
  let r := (List.range 25).map (fun i =>
    lane b i ^^^ (~~~ lane b ((i + 1) % 5 + i / 5 * 5) &&& lane b ((i + 2) % 5 + i / 5 * 5)))
  match r with
  | x :: l => (x ^^^ rc) :: l
  | [] => []

/-- Keccak-f[1600]. -/
def keccakF (a : List (BitVec 64)) : List (BitVec 64) := keccakRc.foldl keccakRound a

/-- The lanes of a block of bytes, zero above it. -/
def keccakLanes (b : List Byte) : List (BitVec 64) := (List.range 25).map (fun i => BitVec.ofNat 64 (bytesToNat ((b.drop (8 * i)).take 8)))

/-- Absorbs blocks of `rate` bytes. -/
def absorb (rate : Nat) : Nat → List Byte → List (BitVec 64) → List (BitVec 64)
  | 0, _, a => a
  | n + 1, m, a => absorb rate n (m.drop rate) (keccakF ((a.zip (keccakLanes (m.take rate))).map (fun (x, y) => x ^^^ y)))

/-- Squeezes blocks of `rate` bytes. -/
def squeeze (rate : Nat) : Nat → List (BitVec 64) → List Byte
  | 0, _ => []
  | n + 1, a => ((a.map (fun x => natToBytes 8 x.toNat)).flatten).take rate ++ squeeze rate n (keccakF a)

/-- The sponge with a suffix byte: `out` bytes. -/
def sponge (rate : Nat) (suffix : Byte) (m : List Byte) (out : Nat) : List Byte :=
  let n := m.length / rate + 1
  let z := n * rate - m.length
  let pad : List Byte := if z = 1 then [suffix ||| 0x80] else suffix :: (List.replicate (z - 2) 0 ++ [0x80])
  (squeeze rate ((out + rate - 1) / rate) (absorb rate n (m ++ pad) (List.replicate 25 0))).take out

/-- SHAKE256 with `out` bytes. -/
def shake256 (m : List Byte) (out : Nat) : List Byte := sponge 136 0x1F m out
/-- SHAKE128 with `out` bytes. -/
def shake128 (m : List Byte) (out : Nat) : List Byte := sponge 168 0x1F m out
/-- SHA3-256. -/
def sha3x256 (m : List Byte) : List Byte := sponge 136 0x06 m 32
/-- SHA3-512. -/
def sha3x512 (m : List Byte) : List Byte := sponge 72 0x06 m 64

/-! ### FIPS 197, SP 800-38F, IEEE 1619 -/

/-- The S-box of FIPS 197, entry x in bits [8x + 7:8x]. -/
def aesBox : Nat := 0x16bb54b00f2d99416842e6bf0d89a18cdf2855cee9871e9b948ed9691198f8e19e1dc186b95735610ef6034866b53e708a8bbd4b1f74dde8c6b4a61c2e2578ba08ae7a65eaf4566ca94ed58d6d37c8e779e4959162acd3c25c2406490a3a32e0db0b5ede14b8ee4688902a22dc4f816073195d643d7ea7c41744975fec130ccdd2f3ff1021dab6bcf5389d928f40a351a89f3c507f02f94585334d43fbaaefd0cf584c4a39becb6a5bb1fc20ed00d153842fe329b3d63b52a05a6e1b1a2c830975b227ebe28012079a059618c323c7041531d871f1e5a534ccf73f362693fdb7c072a49cafa2d4adf04759fa7dc982ca76abd7fe2b670130c56f6bf27b777c63
/-- The inverse S-box, laid out alike. -/
def aesInvBox : Nat := 0x7d0c2155631469e126d677ba7e042b17619953833cbbebc8b0f52aae4d3be0a0ef9cc9939f7ae52d0d4ab519a97f51605fec8027591012b131c7078833a8dd1ff45acd78fec0db9a2079d2c64b3e56fc1bbe18aa0e62b76f89c5291d711af1476edf751ce837f9e28535ade72274ac9673e6b4f0cecff297eadc674f4111913a6b8a130103bdafc1020f3fca8f1e2cd00645b3b80558e4f70ad3bc8c00abd890849d8da75746155edab9edfd5048706c92b6655dcc5ca4d41698688664f6f87225d18b6d49a25b76b224d92866a12e084ec3fa420b954cee3d23c2a632947b54cbe9dec444438e3487ff2f9b8239e37cfbd7f3819ea340bf38a53630d56a0952

/-- Looks a byte up in a box. -/
def boxByte (box : Nat) (b : Byte) : Byte := BitVec.ofNat 8 (box / 2 ^ (8 * b.toNat))

/-- Times x in GF(2^8) modulo x^8 + x^4 + x^3 + x + 1. -/
def xtime (b : Byte) : Byte := (b <<< 1) ^^^ (if b.getLsbD 7 then 0x1B else 0)

/-- Product in GF(2^8) with a small constant. -/
def gmul (c : Nat) (b : Byte) : Byte :=
  (if bit c 0 then b else 0) ^^^ (if bit c 1 then xtime b else 0) ^^^ (if bit c 2 then xtime (xtime b) else 0)
    ^^^ (if bit c 3 then xtime (xtime (xtime b)) else 0)

/-- Byte `i` of a list. -/
def byteAt (l : List Byte) (i : Nat) : Byte := (l[i]?).getD 0
/-- Sum of two byte strings in GF(2). -/
def xorBytes (a b : List Byte) : List Byte := (a.zip b).map (fun (x, y) => x ^^^ y)

/-- The next words of the AES-256 key schedule: `w` holds the words so far, newest first, `i` their number. -/
def aesExpand : Nat → Nat → Byte → List (List Byte) → List (List Byte)
  | 0, _, _, w => w
  | n + 1, i, rc, w =>
    let t := (w[0]?).getD []
    let sub := fun (l : List Byte) => l.map (boxByte aesBox)
    let t' := if i % 8 == 0 then
        (match sub (t.drop 1 ++ t.take 1) with | x :: l => (x ^^^ rc) :: l | [] => [])
      else if i % 8 == 4 then sub t else t
    aesExpand n (i + 1) (if i % 8 == 0 then xtime rc else rc) (xorBytes ((w[7]?).getD []) t' :: w)

/-- The fifteen round keys of an AES-256 key. -/
def aesKeys (key : List Byte) : List (List Byte) :=
  let w := (aesExpand 52 8 1 ((List.range 8).map (fun i => (key.drop (4 * (7 - i))).take 4))).reverse
  (List.range 15).map (fun r => ((w.drop (4 * r)).take 4).flatten)

/-- The column step of a round with a row of coefficients. -/
def aesMix (k : List Nat) (s : List Byte) : List Byte :=
  (List.range 16).map (fun i => (List.range 4).foldl (fun v j =>
    v ^^^ gmul ((k[(j + 4 - i % 4) % 4]?).getD 0) (byteAt s (i / 4 * 4 + j))) 0)

/-- AES-256 encryption of a block under round keys. -/
def aesEnc (ks : List (List Byte)) (x : List Byte) : List Byte :=
  let shift := fun (s : List Byte) => (List.range 16).map (fun i => byteAt s ((i + 4 * (i % 4)) % 16))
  let s := xorBytes x ((ks[0]?).getD [])
  let s := (List.range 13).foldl (fun s r => xorBytes (aesMix [2, 3, 1, 1] (shift (s.map (boxByte aesBox)))) ((ks[r + 1]?).getD [])) s
  xorBytes (shift (s.map (boxByte aesBox))) ((ks[14]?).getD [])

/-- AES-256 decryption of a block under round keys. -/
def aesDec (ks : List (List Byte)) (x : List Byte) : List Byte :=
  let unshift := fun (s : List Byte) => (List.range 16).map (fun i => byteAt s ((i + 16 - 4 * (i % 4)) % 16))
  let s := xorBytes x ((ks[14]?).getD [])
  let s := (List.range 13).foldl (fun s r => aesMix [14, 11, 13, 9] (xorBytes ((unshift s).map (boxByte aesInvBox)) ((ks[13 - r]?).getD []))) s
  xorBytes ((unshift s).map (boxByte aesInvBox)) ((ks[0]?).getD [])

/-- A number as `n` bytes, most significant first. -/
def beBytes (n v : Nat) : List Byte := (natToBytes n v).reverse
/-- The number of a byte string, most significant byte first. -/
def beNat (l : List Byte) : Nat := bytesToNat l.reverse

/-- AES key unwrap of SP 800-38F (KW) of 72 bytes: none when the integrity check fails (R45). -/
def kwUnwrap (kek : BitVec 256) (c : BitVec 576) : Option (BitVec 512) :=
  let ks := aesKeys (natToBytes 32 kek.toNat)
  let b := natToBytes 72 c.toNat
  let r0 := (List.range 8).map (fun i => (b.drop (8 + 8 * i)).take 8)
  let (a, r) := (List.range 48).foldl (fun (ar : List Byte × List (List Byte)) k =>
    let t := 48 - k
    let i := (t - 1) % 8
    let x := aesDec ks (xorBytes ar.1 (beBytes 8 t) ++ (ar.2[i]?).getD [])
    (x.take 8, setAt ar.2 i (x.drop 8))) (b.take 8, r0)
  if a.all (· == 0xA6) then some (BitVec.ofNat 512 (bytesToNat r.flatten)) else none

/-- Times x in GF(2^128) as XTS takes it: little-endian, modulo x^128 + x^7 + x^2 + x + 1. -/
def xtsDouble (t : BitVec 128) : BitVec 128 := (t <<< 1) ^^^ (if t.getLsbD 127 then 0x87 else 0)

/-- XTS-AES-256 over whole blocks, encryption or decryption: the key's halves, the tweak, the data (R44, R150). -/
def xts (enc : Bool) (key : BitVec 512) (tweak : Nat) (d : List Byte) : List Byte :=
  let k1 := aesKeys (natToBytes 32 (key.toNat % 2 ^ 256))
  let k2 := aesKeys (natToBytes 32 (key.toNat / 2 ^ 256))
  let t0 := BitVec.ofNat 128 (bytesToNat (aesEnc k2 (natToBytes 16 tweak)))
  ((List.range (d.length / 16)).foldl (fun (acc : BitVec 128 × List (List Byte)) j =>
    let t := natToBytes 16 acc.1.toNat
    let x := xorBytes ((d.drop (16 * j)).take 16) t
    (xtsDouble acc.1, xorBytes (if enc then aesEnc k1 x else aesDec k1 x) t :: acc.2)) (t0, [])).2.reverse.flatten

/-! ### FIPS 203: ML-KEM-1024 -/

/-- The modulus of ML-KEM. -/
def kemQ : Nat := 3329
/-- Reverses 7 bits. -/
def bitRev7 (i : Nat) : Nat := (List.range 7).foldl (fun a k => a * 2 + i / 2 ^ k % 2) 0
/-- 17 to the power `e` modulo 3329. -/
def zetaPow (e : Nat) : Nat := (List.range e).foldl (fun a _ => a * 17 % kemQ) 1
/-- A coefficient. -/
def coef (f : List Nat) (i : Nat) : Nat := (f[i]?).getD 0

/-- One layer of the number-theoretic transform with blocks of `2 * len`. -/
def nttLayer (f : List Nat) (len : Nat) : List Nat :=
  let zs := (List.range (128 / len)).map (fun b => zetaPow (bitRev7 (128 / len + b)))
  (List.range 256).map (fun i =>
    let z := (zs[i / (2 * len)]?).getD 0
    if i % (2 * len) < len then (coef f i + z * coef f (i + len)) % kemQ
    else (coef f (i - len) + (kemQ - z) * coef f i) % kemQ)

/-- NTT. -/
def ntt (f : List Nat) : List Nat := [128, 64, 32, 16, 8, 4, 2].foldl nttLayer f

/-- One layer of the inverse transform. -/
def inttLayer (f : List Nat) (len : Nat) : List Nat :=
  let zs := (List.range (128 / len)).map (fun b => zetaPow (bitRev7 (256 / len - 1 - b)))
  (List.range 256).map (fun i =>
    let z := (zs[i / (2 * len)]?).getD 0
    if i % (2 * len) < len then (coef f i + coef f (i + len)) % kemQ
    else z * (coef f i + kemQ - coef f (i - len)) % kemQ)

/-- Inverse NTT. -/
def intt (f : List Nat) : List Nat := ([2, 4, 8, 16, 32, 64, 128].foldl inttLayer f).map (fun x => x * 3303 % kemQ)

/-- Product of two transforms. -/
def nttMul (f g : List Nat) : List Nat :=
  (List.range 256).map (fun i =>
    let j := i / 2 * 2
    if i % 2 == 0 then (coef f j * coef g j + coef f (j + 1) * coef g (j + 1) % kemQ * zetaPow (2 * bitRev7 (i / 2) + 1)) % kemQ
    else (coef f j * coef g (j + 1) + coef f (j + 1) * coef g j) % kemQ)

/-- Sum and difference of polynomials. -/
def polyAdd (f g : List Nat) : List Nat := (f.zip g).map (fun (x, y) => (x + y) % kemQ)
/-- Difference. -/
def polySub (f g : List Nat) : List Nat := (f.zip g).map (fun (x, y) => (x + kemQ - y) % kemQ)
/-- Dot product of vectors of transforms. -/
def polyDot (a b : List (List Nat)) : List Nat := (a.zip b).foldl (fun s (f, g) => polyAdd s (nttMul f g)) (List.replicate 256 0)

/-- ByteEncode of `d`-bit coefficients. -/
def kemEncode (d : Nat) (f : List Nat) : List Byte := natToBytes (32 * d) (f.foldr (fun x v => v * 2 ^ d + x % 2 ^ d) 0)
/-- ByteDecode of `d`-bit coefficients. -/
def kemDecode (d : Nat) (b : List Byte) : List Nat :=
  let v := bytesToNat b
  (List.range 256).map (fun i => let x := v / 2 ^ (d * i) % 2 ^ d; if d == 12 then x % kemQ else x)
/-- Compress to `d` bits. -/
def kemCompress (d x : Nat) : Nat := (x * 2 ^ d * 2 + kemQ) / (2 * kemQ) % 2 ^ d
/-- Decompress from `d` bits. -/
def kemDecompress (d y : Nat) : Nat := (y * kemQ * 2 + 2 ^ d) / 2 ^ (d + 1)

/-- The candidates that SampleNTT accepts from a stream. -/
def kemReject : Nat → List Byte → List Nat
  | 0, _ => []
  | n + 1, a :: b :: c :: l =>
    let d1 := a.toNat + 256 * (b.toNat % 16)
    let d2 := b.toNat / 16 + 16 * c.toNat
    (if d1 < kemQ then [d1] else []) ++ (if d2 < kemQ then [d2] else []) ++ kemReject n l
  | _, _ => []

/-- SampleNTT, from as much of the stream as 16 blocks. -/
def sampleNtt (seed : List Byte) : List Nat := (kemReject 896 (shake128 seed 2688)).take 256

/-- SamplePolyCBD with eta 2. -/
def kemCbd (b : List Byte) : List Nat :=
  let v := bytesToNat b
  (List.range 256).map (fun i => let x := v / 16 ^ i % 16; (x % 2 + x / 2 % 2 + kemQ - x / 4 % 2 - x / 8) % kemQ)

/-- PRF and CBD of a seed and a counter. -/
def kemNoise (seed : List Byte) (n : Nat) : List Nat := kemCbd (shake256 (seed ++ [BitVec.ofNat 8 n]) 128)

/-- The matrix A of a seed, rows of transforms. -/
def kemMatrix (rho : List Byte) : List (List (List Nat)) :=
  (List.range 4).map (fun i => (List.range 4).map (fun j => sampleNtt (rho ++ [BitVec.ofNat 8 j, BitVec.ofNat 8 i])))

/-- Column `j` of a matrix. -/
def column (m : List (List (List Nat))) (j : Nat) : List (List Nat) := m.map (fun r => (r[j]?).getD [])

/-- K-PKE.KeyGen: encryption and decryption key. -/
def pkeKeyGen (d : List Byte) : List Byte × List Byte :=
  let g := sha3x512 (d ++ [4])
  let rho := g.take 32
  let sg := g.drop 32
  let a := kemMatrix rho
  let s := (List.range 4).map (fun i => ntt (kemNoise sg i))
  let e := (List.range 4).map (fun i => ntt (kemNoise sg (4 + i)))
  let t := (a.zip e).map (fun (r, x) => polyAdd (polyDot r s) x)
  ((t.map (kemEncode 12)).flatten ++ rho, (s.map (kemEncode 12)).flatten)

/-- K-PKE.Encrypt. -/
def pkeEncrypt (ek m r : List Byte) : List Byte :=
  let t := (List.range 4).map (fun i => kemDecode 12 ((ek.drop (384 * i)).take 384))
  let a := kemMatrix (ek.drop 1536)
  let y := (List.range 4).map (fun i => ntt (kemNoise r i))
  let u := (List.range 4).map (fun j => polyAdd (intt (polyDot (column a j) y)) (kemNoise r (4 + j)))
  let mu := (kemDecode 1 m).map (kemDecompress 1)
  let v := polyAdd (polyAdd (intt (polyDot t y)) (kemNoise r 8)) mu
  (u.map (fun f => kemEncode 11 (f.map (kemCompress 11)))).flatten ++ kemEncode 5 (v.map (kemCompress 5))

/-- K-PKE.Decrypt. -/
def pkeDecrypt (dk c : List Byte) : List Byte :=
  let u := (List.range 4).map (fun i => (kemDecode 11 ((c.drop (352 * i)).take 352)).map (kemDecompress 11))
  let v := (kemDecode 5 (c.drop 1408)).map (kemDecompress 5)
  let s := (List.range 4).map (fun i => kemDecode 12 ((dk.drop (384 * i)).take 384))
  kemEncode 1 ((polySub v (intt (polyDot s (u.map ntt)))).map (kemCompress 1))

/-- The encapsulation key of the ML-KEM-1024 pair made from a seed d ‖ z (R41). -/
def mlkemPublic (seed : BitVec 512) : List Byte := (pkeKeyGen (natToBytes 32 (seed.toNat % 2 ^ 256))).1

/-- ML-KEM-1024 decapsulation with the pair of a seed d ‖ z (R45). -/
def mlkemDecap (seed : BitVec 512) (c : List Byte) : BitVec 256 :=
  let (ek, dk) := pkeKeyGen (natToBytes 32 (seed.toNat % 2 ^ 256))
  let m := pkeDecrypt dk c
  let g := sha3x512 (m ++ sha3x256 ek)
  let k := if pkeEncrypt ek m (g.drop 32) == c then g.take 32 else shake256 (natToBytes 32 (seed.toNat / 2 ^ 256) ++ c) 32
  BitVec.ofNat 256 (bytesToNat k)

/-! ### FIPS 205: SLH-DSA with SHAKE, n = 32, w = 16 -/

/-- The parameters that set the two instances apart: layers, height of a layer's tree, FORS height and trees. -/
structure SlhSet where
  d  : Nat
  hh : Nat
  a  : Nat
  k  : Nat
  deriving DecidableEq, Repr

/-- SLH-DSA-SHAKE-256s. -/
def slh256s : SlhSet := { d := 8, hh := 8, a := 14, k := 22 }
/-- SLH-DSA-SHAKE-256f. -/
def slh256f : SlhSet := { d := 17, hh := 4, a := 9, k := 35 }

/-- An address: layer, tree, type and its three last words. -/
structure Adrs where
  layer : Nat := 0
  tree  : Nat := 0
  type  : Nat := 0
  w1    : Nat := 0
  w2    : Nat := 0
  w3    : Nat := 0
  deriving DecidableEq, Repr

/-- The 32 bytes of an address. -/
def Adrs.bytes (a : Adrs) : List Byte :=
  beBytes 4 a.layer ++ beBytes 12 a.tree ++ beBytes 4 a.type ++ beBytes 4 a.w1 ++ beBytes 4 a.w2 ++ beBytes 4 a.w3

/-- F, H and T_l: the tweakable hash under a public seed. -/
def slhHash (pk : List Byte) (a : Adrs) (m : List Byte) : List Byte := shake256 (pk ++ a.bytes ++ m) 32

/-- base_2^b of a byte string: `n` digits. -/
def slhDigits (x : List Byte) (b n : Nat) : List Nat :=
  let v := beNat x
  (List.range n).map (fun i => v / 2 ^ (8 * x.length - b * (i + 1)) % 2 ^ b)

/-- The 67 digits of a WOTS message with its checksum. -/
def wotsDigits (m : List Byte) : List Nat :=
  let d := slhDigits m 4 64
  d ++ slhDigits (beBytes 2 ((d.foldl (fun s x => s + (15 - x)) 0) * 16)) 4 3

/-- A WOTS chain of `s` steps from step `i`. -/
def wotsChain (pk : List Byte) (a : Adrs) (x : List Byte) (i s : Nat) : List Byte :=
  (List.range s).foldl (fun x j => slhHash pk { a with w3 := i + j } x) x

/-- A secret value of a WOTS or FORS address. -/
def slhPrf (pk sk : List Byte) (a : Adrs) : List Byte := shake256 (pk ++ a.bytes ++ sk) 32

/-- WOTS public key of chain ends. -/
def wotsCompress (pk : List Byte) (a : Adrs) (ends : List (List Byte)) : List Byte :=
  slhHash pk { a with type := 1, w2 := 0, w3 := 0 } ends.flatten

/-- wots_pkFromSig. -/
def wotsFromSig (pk : List Byte) (a : Adrs) (sig m : List Byte) : List Byte :=
  wotsCompress pk a ((wotsDigits m).zipIdx.map (fun (d, i) =>
    wotsChain pk { a with w2 := i } ((sig.drop (32 * i)).take 32) d (15 - d)))

/-- Climbs an authentication path from a leaf; `a` has its type and w1 set. -/
def slhClimb (pk : List Byte) (a : Adrs) (idx off : Nat) (auth : List Byte) (h : Nat) (node : List Byte) : List Byte :=
  (List.range h).foldl (fun node k =>
    let sib := (auth.drop (32 * k)).take 32
    slhHash pk { a with w2 := k + 1, w3 := (off + idx) / 2 ^ (k + 1) } (if idx / 2 ^ k % 2 == 0 then node ++ sib else sib ++ node)) node

/-- xmss_pkFromSig at layer and tree of `a`. -/
def xmssFromSig (p : SlhSet) (pk : List Byte) (a : Adrs) (idx : Nat) (sig m : List Byte) : List Byte :=
  slhClimb pk { a with type := 2, w1 := 0 } idx 0 (sig.drop (67 * 32)) p.hh (wotsFromSig pk { a with type := 0, w1 := idx } (sig.take (67 * 32)) m)

/-- The root that a hypertree signature gives for a message. -/
def htFromSig (p : SlhSet) (pk : List Byte) (tree leaf : Nat) (sig m : List Byte) : List Byte :=
  let len := (67 + p.hh) * 32
  ((List.range p.d).foldl (fun (acc : List Byte × Nat × Nat) j =>
    let (node, tree, leaf) := acc
    (xmssFromSig p pk { layer := j, tree := tree } leaf ((sig.drop (len * j)).take len) node, tree / 2 ^ p.hh, tree % 2 ^ p.hh)) (m, tree, leaf)).1

/-- fors_pkFromSig; `a` holds tree and key pair. -/
def forsFromSig (p : SlhSet) (pk : List Byte) (a : Adrs) (sig md : List Byte) : List Byte :=
  let roots := (slhDigits md p.a p.k).zipIdx.map (fun (x, i) =>
    let s := (sig.drop (32 * (p.a + 1) * i)).take (32 * (p.a + 1))
    slhClimb pk a x (i * 2 ^ p.a) (s.drop 32) p.a (slhHash pk { a with w2 := 0, w3 := i * 2 ^ p.a + x } (s.take 32)))
  slhHash pk { a with type := 4, w2 := 0, w3 := 0 } roots.flatten

/-- The parts of a message digest: FORS digits, tree and leaf. -/
def slhParts (p : SlhSet) (r pkSeed pkRoot m : List Byte) : List Byte × Nat × Nat :=
  let n1 := (p.k * p.a + 7) / 8
  let n2 := ((p.d - 1) * p.hh + 7) / 8
  let n3 := (p.hh + 7) / 8
  let g := shake256 (r ++ pkSeed ++ pkRoot ++ m) (n1 + n2 + n3)
  (g.take n1, beNat ((g.drop n1).take n2) % 2 ^ ((p.d - 1) * p.hh), beNat (g.drop (n1 + n2)) % 2 ^ p.hh)

/-- The message with an empty context string in front (FIPS 205, pure form). -/
def slhPure (m : List Byte) : List Byte := 0 :: 0 :: m

/-- Length of a signature. -/
def slhLen (p : SlhSet) : Nat := 32 * (1 + p.k * (p.a + 1) + p.d * (67 + p.hh))

/-- slh_verify: a 64-byte public key, message and signature. -/
def slhVerify (p : SlhSet) (key : BitVec 512) (m sig : List Byte) : Bool :=
  let k := natToBytes 64 key.toNat
  let pk := k.take 32
  let (md, tree, leaf) := slhParts p (sig.take 32) pk (k.drop 32) (slhPure m)
  let f := 32 * (p.k * (p.a + 1))
  sig.length == slhLen p
    && htFromSig p pk tree leaf (sig.drop (32 + f))
        (forsFromSig p pk { tree := tree, type := 3, w1 := leaf } ((sig.drop 32).take f) md) == k.drop 32

/-- WOTS public key of a leaf. -/
def wotsPk (pk sk : List Byte) (a : Adrs) : List Byte :=
  wotsCompress pk a ((List.range 67).map (fun i => wotsChain pk { a with w2 := i } (slhPrf pk sk { a with type := 5, w2 := i, w3 := 0 }) 0 15))

/-- Node `i` at height `z` of the tree of `a`. -/
def xmssNode (pk sk : List Byte) (a : Adrs) : Nat → Nat → List Byte
  | 0, i => wotsPk pk sk { a with type := 0, w1 := i }
  | z + 1, i => slhHash pk { a with type := 2, w1 := 0, w2 := z + 1, w3 := i } (xmssNode pk sk a z (2 * i) ++ xmssNode pk sk a z (2 * i + 1))

/-- xmss_sign. -/
def xmssSign (p : SlhSet) (pk sk : List Byte) (a : Adrs) (idx : Nat) (m : List Byte) : List Byte :=
  let w := { a with type := 0, w1 := idx }
  ((wotsDigits m).zipIdx.map (fun (d, i) => wotsChain pk { w with w2 := i } (slhPrf pk sk { w with type := 5, w2 := i, w3 := 0 }) 0 d)).flatten
    ++ ((List.range p.hh).map (fun j => xmssNode pk sk a j ((idx / 2 ^ j) ^^^ 1))).flatten

/-- Node `i` at height `z` of the FORS trees of `a`. -/
def forsNode (pk sk : List Byte) (a : Adrs) : Nat → Nat → List Byte
  | 0, i => slhHash pk { a with w2 := 0, w3 := i } (slhPrf pk sk { a with type := 6, w2 := 0, w3 := i })
  | z + 1, i => slhHash pk { a with w2 := z + 1, w3 := i } (forsNode pk sk a z (2 * i) ++ forsNode pk sk a z (2 * i + 1))

/-- fors_sign. -/
def forsSign (p : SlhSet) (pk sk : List Byte) (a : Adrs) (md : List Byte) : List Byte :=
  ((slhDigits md p.a p.k).zipIdx.map (fun (x, i) =>
    slhPrf pk sk { a with type := 6, w2 := 0, w3 := i * 2 ^ p.a + x }
      ++ ((List.range p.a).map (fun j => forsNode pk sk a j (i * 2 ^ (p.a - j) + ((x / 2 ^ j) ^^^ 1)))).flatten)).flatten

/-- ht_sign. -/
def htSign (p : SlhSet) (pk sk : List Byte) (tree leaf : Nat) (m : List Byte) : List Byte :=
  ((List.range p.d).foldl (fun (acc : List Byte × List Byte × Nat × Nat) j =>
    let (out, node, tree, leaf) := acc
    let a : Adrs := { layer := j, tree := tree }
    let s := xmssSign p pk sk a leaf node
    (out ++ s, xmssFromSig p pk a leaf s node, tree / 2 ^ p.hh, tree % 2 ^ p.hh)) ([], m, tree, leaf)).1

/-- A secret key of SLH-DSA: SK.seed, SK.prf and PK.seed. -/
structure SlhKey where
  seed   : BitVec 256
  prf    : BitVec 256
  pkSeed : BitVec 256
  deriving DecidableEq, Repr

/-- PK.root of a secret key. -/
def SlhKey.root (p : SlhSet) (k : SlhKey) : List Byte :=
  xmssNode (natToBytes 32 k.pkSeed.toNat) (natToBytes 32 k.seed.toNat) { layer := p.d - 1 } p.hh 0

/-- The 64-byte public key of a secret key. -/
def SlhKey.public (p : SlhSet) (k : SlhKey) : BitVec 512 :=
  BitVec.ofNat 512 (bytesToNat (natToBytes 32 k.pkSeed.toNat ++ k.root p))

/-- slh_sign with the randomness that the signer adds. -/
def slhSign (p : SlhSet) (k : SlhKey) (rnd : BitVec 256) (m : List Byte) : List Byte :=
  let pk := natToBytes 32 k.pkSeed.toNat
  let sk := natToBytes 32 k.seed.toNat
  let r := shake256 (natToBytes 32 k.prf.toNat ++ natToBytes 32 rnd.toNat ++ slhPure m) 32
  let (md, tree, leaf) := slhParts p r pk (k.root p) (slhPure m)
  let a : Adrs := { tree := tree, type := 3, w1 := leaf }
  let f := forsSign p pk sk a md
  r ++ f ++ htSign p pk sk tree leaf (forsFromSig p pk a f md)

/-! ### The BCH code of a frame (R149) -/

/-- Product in GF(2^13) modulo x^13 + x^4 + x^3 + x + 1. -/
def gf13Mul (a b : Nat) : Nat :=
  (List.range 13).foldl (fun v i =>
    let v := 2 * v
    let v := if v ≥ 8192 then v ^^^ 0x201B else v
    if bit b (12 - i) then v ^^^ a else v) 0

/-- α to a power. -/
def gf13Pow (e : Nat) : Nat := (List.range e).foldl (fun a _ => gf13Mul 2 a) 1

/-- The minimal polynomial of an element, its coefficients from the constant one on: the product over its 13 conjugates. -/
def minPoly (x : Nat) : List Nat :=
  ((List.range 13).foldl (fun (acc : List Nat × Nat) _ =>
    let (f, c) := acc
    (((f ++ [0]).zip (0 :: f)).map (fun (u, v) => gf13Mul c u ^^^ v), gf13Mul c c)) ([1], x)).1

/-- Product of two polynomials over GF(2), as numbers. -/
def polyMul2 (f g : Nat) : Nat := (List.range 300).foldl (fun v i => if bit g i then v ^^^ (f * 2 ^ i) else v) 0

/-- The generator of R149: the minimal polynomials of the odd powers of α up to 35, which are those of α^1 to α^36. -/
def bchGen : Nat :=
  (List.range 18).foldl (fun g k =>
    polyMul2 g ((minPoly (gf13Pow (2 * k + 1))).foldr (fun c v => 2 * v + c % 2) 0)) 1

/-- The 234 check bits of a frame's data and metadata (R149). -/
def bchCheck (data : BitVec 4096) (meta_ : BitVec 22) : BitVec 234 :=
  let g := bchGen
  let v := data.toNat * 2 ^ 234 + meta_.toNat * 2 ^ 4330
  BitVec.ofNat 234 ((List.range 4118).foldl (fun v i => if bit v (4351 - i) then v ^^^ (g * 2 ^ (4117 - i)) else v) v)

end Sys2Proof.Machine
end

