-- ==== Sys2Proof/Syntax.lean ====
section
/-! DEFINITION. The steps of the machine as syntax: operand fields of the five instruction formats (R244 to R250), the flit of
a Broene link (R22), and the one inductive of all steps. -/
namespace Sys2Proof

/-- Type codes (R217). -/
inductive Ty where
  | i8 | i16 | i32 | i64 | n8 | n16 | n32 | n64 | i4 | n4
  | f16 | bf16 | f32 | f36 | i36 | e4m3 | e5m2 | e2m1 | e8m0
  deriving DecidableEq, Repr

/-- Request types (R251). -/
inductive Rq where
  | own | wt | si | nc | loc
  deriving DecidableEq, Repr

/-- Scopes (R187, R251). -/
inductive Scope where
  | thread | core | cluster | die | device | system
  deriving DecidableEq, Repr

/-- Orders (R251). -/
inductive MemOrd where
  | relaxed | acquire | release | acqRel
  deriving DecidableEq, Repr

/-- The guard fields PG and PGN (R241). -/
structure Guard where
  pg  : BitVec 3
  pgn : Bool
  deriving DecidableEq, Repr

/-- F64-R fields (R245); `x` is IMM32B of the 96-bit form (R249). -/
structure OpR where
  rd : BitVec 5
  ra : BitVec 5
  rb : BitVec 5
  rc : BitVec 5
  ty : Ty
  fn : BitVec 8
  md : BitVec 8
  x  : Option (BitVec 32)
  deriving DecidableEq, Repr

/-- F64-I fields (R246). -/
structure OpI where
  rd  : BitVec 5
  ra  : BitVec 5
  fn  : BitVec 8
  imm : BitVec 32
  deriving DecidableEq, Repr

/-- F64-M fields (R247); `x` is IMM32B of the 96-bit form (R249). -/
structure OpM where
  rd    : BitVec 5
  ra    : BitVec 5
  rb    : BitVec 5
  rq    : Rq
  scope : Scope
  ord   : MemOrd
  ty    : Ty
  span  : BitVec 5
  off   : BitVec 13
  x     : Option (BitVec 32)
  deriving DecidableEq, Repr

/-- F64-B fields (R248). -/
structure OpB where
  ra   : BitVec 5
  rb   : BitVec 5
  cond : BitVec 4
  hint : Bool
  off  : BitVec 35
  deriving DecidableEq, Repr

/-- F128-J fields (R250). -/
structure OpJ where
  rd   : BitVec 5
  ra   : BitVec 5
  fn   : BitVec 8
  imm  : BitVec 32
  aux0 : BitVec 32
  aux1 : BitVec 32
  deriving DecidableEq, Repr

/-- A flit (R21, R22): the header's fields and the three payload beats. -/
structure Flit where
  addr    : BitVec 64
  aux     : BitVec 64
  route   : BitVec 30
  hops    : BitVec 3
  hopix   : BitVec 3
  dst     : BitVec 21
  src     : BitVec 21
  ctx     : BitVec 8
  op      : BitVec 6
  tc      : BitVec 2
  beats   : BitVec 2
  last    : Bool
  seq     : BitVec 12
  ack     : BitVec 12
  credit  : BitVec 24
  kind    : BitVec 2
  opx     : BitVec 128
  payload : BitVec 1536
  deriving DecidableEq, Repr

/-- A received idle or acknowledging flit (R23) with the count of codewords that the FEC has corrected since the last one (R20). -/
structure AckFlit where
  flit : Flit
  fec  : Nat
  deriving DecidableEq, Repr

/-- A register as the debugger names it (R407). -/
inductive DbgReg where
  | g (n : Nat) | v (n : Nat) | p (n : Nat) | h (n : Nat) | sr (index : Nat)
  deriving DecidableEq, Repr


/-- The steps of the part (spec/opcode_table.json), one constructor a row: the thread instructions with the guard and the
fields of their format (R241 to R250), and the steps the other components take, with the data that reaches them. -/
inductive Instr where
  /-- LOFTSPLIT_WRITE (R105). -/
  | loftsplitWrite (g : Guard) (o : OpI)
  /-- VICGROUP_WRITE (R106). -/
  | vicgroupWrite (g : Guard) (o : OpI)
  /-- RX_RING_REG_WRITE (R116). -/
  | rxRingRegWrite (g : Guard) (o : OpI)
  /-- RXHEAD_WRITE (R116). -/
  | rxheadWrite (g : Guard) (o : OpI)
  /-- WIRE_REG_WRITE (R121). -/
  | wireRegWrite (g : Guard) (o : OpI)
  /-- STATUS_WRITE (R254). -/
  | statusWrite (g : Guard) (o : OpI)
  /-- WALLOW_WRITE (R160). -/
  | wallowWrite (g : Guard) (o : OpI)
  /-- FQCFG_WRITE (R178). -/
  | fqcfgWrite (g : Guard) (o : OpI)
  /-- NOP (R269). -/
  | nop (g : Guard) (o : OpR)
  /-- ADD (R265). -/
  | add (g : Guard) (o : OpR)
  /-- ADDI (R270). -/
  | addi (g : Guard) (o : OpI)
  /-- SUB (R265). -/
  | sub (g : Guard) (o : OpR)
  /-- MUL (R265). -/
  | mul (g : Guard) (o : OpR)
  /-- MULH (R265). -/
  | mulh (g : Guard) (o : OpR)
  /-- DIV (R266). -/
  | div (g : Guard) (o : OpR)
  /-- REM (R266). -/
  | rem (g : Guard) (o : OpR)
  /-- AND (R265). -/
  | and (g : Guard) (o : OpR)
  /-- ANDI (R270). -/
  | andi (g : Guard) (o : OpI)
  /-- OR (R265). -/
  | or (g : Guard) (o : OpR)
  /-- ORI (R270). -/
  | ori (g : Guard) (o : OpI)
  /-- XOR (R265). -/
  | xor (g : Guard) (o : OpR)
  /-- XORI (R270). -/
  | xori (g : Guard) (o : OpI)
  /-- SHL (R265). -/
  | shl (g : Guard) (o : OpR)
  /-- SHR (R265). -/
  | shr (g : Guard) (o : OpR)
  /-- SRA (R265). -/
  | sra (g : Guard) (o : OpR)
  /-- SHI (R270). -/
  | shi (g : Guard) (o : OpI)
  /-- ROT (R265). -/
  | rot (g : Guard) (o : OpR)
  /-- CLZ (R265). -/
  | clz (g : Guard) (o : OpR)
  /-- CTZ (R265). -/
  | ctz (g : Guard) (o : OpR)
  /-- POPC (R265). -/
  | popc (g : Guard) (o : OpR)
  /-- MIN (R265). -/
  | min (g : Guard) (o : OpR)
  /-- MAX (R265). -/
  | max (g : Guard) (o : OpR)
  /-- CMP (R267). -/
  | cmp (g : Guard) (o : OpR)
  /-- CMPI (R268). -/
  | cmpi (g : Guard) (o : OpI)
  /-- SEL (R269). -/
  | sel (g : Guard) (o : OpR)
  /-- MOVI (R269). -/
  | movi (g : Guard) (o : OpI)
  /-- MOVK (R269). -/
  | movk (g : Guard) (o : OpI)
  /-- MOV (R269). -/
  | mov (g : Guard) (o : OpR)
  /-- EXT (R271). -/
  | ext (g : Guard) (o : OpR)
  /-- INS (R271). -/
  | ins (g : Guard) (o : OpR)
  /-- LEA (R272). -/
  | lea (g : Guard) (o : OpM)
  /-- MADD (R265). -/
  | madd (g : Guard) (o : OpR)
  /-- DIGIT (R273). -/
  | digit (g : Guard) (o : OpR)
  /-- PLOG (R274). -/
  | plog (g : Guard) (o : OpR)
  /-- PMOV (R275). -/
  | pmov (g : Guard) (o : OpR)
  /-- FADD (R277). -/
  | fadd (g : Guard) (o : OpR)
  /-- FMUL (R277). -/
  | fmul (g : Guard) (o : OpR)
  /-- FFMA (R277). -/
  | ffma (g : Guard) (o : OpR)
  /-- FMINMAX (R278). -/
  | fminmax (g : Guard) (o : OpR)
  /-- FCMP (R279). -/
  | fcmp (g : Guard) (o : OpR)
  /-- FCVT (R280). -/
  | fcvt (g : Guard) (o : OpR)
  /-- FDIV (R277). -/
  | fdiv (g : Guard) (o : OpR)
  /-- FSQRT (R277). -/
  | fsqrt (g : Guard) (o : OpR)
  /-- BR (R282). -/
  | br (g : Guard) (o : OpB)
  /-- BRI (R282). -/
  | bri (g : Guard) (o : OpB)
  /-- BRP (R282). -/
  | brp (g : Guard) (o : OpB)
  /-- JMP (R282). -/
  | jmp (g : Guard) (o : OpB)
  /-- CALL (R282). -/
  | call (g : Guard) (o : OpB)
  /-- JR (R283). -/
  | jr (g : Guard) (o : OpR)
  /-- RET (R283). -/
  | ret (g : Guard) (o : OpR)
  /-- LOOP (R284). -/
  | loop (g : Guard) (o : OpB)
  /-- LNEST (R285). -/
  | lnest (g : Guard) (o : OpI)
  /-- LNEXT (R286). -/
  | lnext (g : Guard) (o : OpB)
  /-- REGROUP (R100). -/
  | regroup (g : Guard) (o : OpR)
  /-- YIELD (R288). -/
  | yield (g : Guard) (o : OpR)
  /-- EXIT (R289). -/
  | exit (g : Guard) (o : OpR)
  /-- TRAP (R290). -/
  | trap (g : Guard) (o : OpI)
  /-- BRK (R290). -/
  | brk (g : Guard) (o : OpI)
  /-- LD (R294). -/
  | ld (g : Guard) (o : OpM)
  /-- ST (R294). -/
  | st (g : Guard) (o : OpM)
  /-- VLD (R295). -/
  | vld (g : Guard) (o : OpM)
  /-- VST (R295). -/
  | vst (g : Guard) (o : OpM)
  /-- VLDX (R296). -/
  | vldx (g : Guard) (o : OpM)
  /-- VSTX (R296). -/
  | vstx (g : Guard) (o : OpM)
  /-- LSLD (R297). -/
  | lsld (g : Guard) (o : OpM)
  /-- LSST (R297). -/
  | lsst (g : Guard) (o : OpM)
  /-- GET (R307). -/
  | get (g : Guard) (o : OpJ)
  /-- PUT (R307). -/
  | put (g : Guard) (o : OpJ)
  /-- CCWAIT (R310). -/
  | ccwait (g : Guard) (o : OpI)
  /-- CCOP_RD (R311). -/
  | ccopRd (g : Guard) (o : OpR)
  /-- CCOP_SET (R311). -/
  | ccopSet (g : Guard) (o : OpR)
  /-- CCOP_ADD (R311). -/
  | ccopAdd (g : Guard) (o : OpR)
  /-- CCOP_CLR (R311). -/
  | ccopClr (g : Guard) (o : OpR)
  /-- TILEDEF (R312). -/
  | tiledef (g : Guard) (o : OpR)
  /-- TILEST (R313). -/
  | tilest (g : Guard) (o : OpR)
  /-- PREF (R298). -/
  | pref (g : Guard) (o : OpM)
  /-- FLUSHR_FLUSH (R299). -/
  | flushrFlush (g : Guard) (o : OpR)
  /-- FLUSHR_INV (R299). -/
  | flushrInv (g : Guard) (o : OpR)
  /-- AMO (R301). -/
  | amo (g : Guard) (o : OpM)
  /-- AMON (R304). -/
  | amon (g : Guard) (o : OpM)
  /-- CAS (R303). -/
  | cas (g : Guard) (o : OpM)
  /-- FENCE (R305). -/
  | fence (g : Guard) (o : OpM)
  /-- PHASE (R306). -/
  | phase (g : Guard) (o : OpI)
  /-- WFENCE (R192). -/
  | wfence (g : Guard) (o : OpR)
  /-- NMFENCE (R192). -/
  | nmfence (g : Guard) (o : OpR)
  /-- SEND_OPEN (R314). -/
  | sendOpen (g : Guard) (o : OpR)
  /-- SEND_MORE (R314). -/
  | sendMore (g : Guard) (o : OpR)
  /-- SEND_CLOSE (R314). -/
  | sendClose (g : Guard) (o : OpR)
  /-- SEND_ONE (R314). -/
  | sendOne (g : Guard) (o : OpR)
  /-- RECV (R315). -/
  | recv (g : Guard) (o : OpR)
  /-- RPOLL (R315). -/
  | rpoll (g : Guard) (o : OpR)
  /-- BARCFG (R316). -/
  | barcfg (g : Guard) (o : OpM)
  /-- BARARR (R316). -/
  | bararr (g : Guard) (o : OpM)
  /-- BARWAIT (R316). -/
  | barwait (g : Guard) (o : OpM)
  /-- BARSYNC (R316). -/
  | barsync (g : Guard) (o : OpM)
  /-- WIREBAR (R317). -/
  | wirebar (g : Guard) (o : OpR)
  /-- WAITCLK (R318). -/
  | waitclk (g : Guard) (o : OpR)
  /-- RDCLK (R318). -/
  | rdclk (g : Guard) (o : OpR)
  /-- VADD (R321). -/
  | vadd (g : Guard) (o : OpR)
  /-- VSUB (R321). -/
  | vsub (g : Guard) (o : OpR)
  /-- VMUL (R321). -/
  | vmul (g : Guard) (o : OpR)
  /-- VFMA (R321). -/
  | vfma (g : Guard) (o : OpR)
  /-- VMIN (R321). -/
  | vmin (g : Guard) (o : OpR)
  /-- VMAX (R321). -/
  | vmax (g : Guard) (o : OpR)
  /-- VUN (R321). -/
  | vun (g : Guard) (o : OpR)
  /-- VAND (R321). -/
  | vand (g : Guard) (o : OpR)
  /-- VOR (R321). -/
  | vor (g : Guard) (o : OpR)
  /-- VXOR (R321). -/
  | vxor (g : Guard) (o : OpR)
  /-- VSH (R321). -/
  | vsh (g : Guard) (o : OpR)
  /-- VCMP (R322). -/
  | vcmp (g : Guard) (o : OpR)
  /-- VSEL (R322). -/
  | vsel (g : Guard) (o : OpR)
  /-- VBCAST (R322). -/
  | vbcast (g : Guard) (o : OpR)
  /-- VEXT (R322). -/
  | vext (g : Guard) (o : OpR)
  /-- VCVT (R323). -/
  | vcvt (g : Guard) (o : OpR)
  /-- VDOT (R324). -/
  | vdot (g : Guard) (o : OpR)
  /-- VRED (R325). -/
  | vred (g : Guard) (o : OpR)
  /-- VSCAN (R326). -/
  | vscan (g : Guard) (o : OpR)
  /-- VPERM (R327). -/
  | vperm (g : Guard) (o : OpR)
  /-- VSHUF (R327). -/
  | vshuf (g : Guard) (o : OpR)
  /-- VSORT (R328). -/
  | vsort (g : Guard) (o : OpR)
  /-- VQUANT (R329). -/
  | vquant (g : Guard) (o : OpR)
  /-- VDEQ (R330). -/
  | vdeq (g : Guard) (o : OpR)
  /-- XOP (R334). -/
  | xop (g : Guard) (o : OpJ)
  /-- XRED (R335). -/
  | xred (g : Guard) (o : OpJ)
  /-- XSCAN (R336). -/
  | xscan (g : Guard) (o : OpJ)
  /-- SFU (R338). -/
  | sfu (g : Guard) (o : OpR)
  /-- RNG (R340). -/
  | rng (g : Guard) (o : OpR)
  /-- SAMPLE (R342). -/
  | sample (g : Guard) (o : OpR)
  /-- MASKLD (R344). -/
  | maskld (g : Guard) (o : OpM)
  /-- PDSTEP (R345). -/
  | pdstep (g : Guard) (o : OpR)
  /-- MXCLAIM (R350). -/
  | mxclaim (g : Guard) (o : OpI)
  /-- MXREL (R350). -/
  | mxrel (g : Guard) (o : OpI)
  /-- MXJOB (R355). -/
  | mxjob (g : Guard) (o : OpJ)
  /-- MXCURVE (R365). -/
  | mxcurve (g : Guard) (o : OpJ)
  /-- MXDRAIN (R368). -/
  | mxdrain (g : Guard) (o : OpJ)
  /-- MXZERO (R366). -/
  | mxzero (g : Guard) (o : OpI)
  /-- CPJOB (R370). -/
  | cpjob (g : Guard) (o : OpJ)
  /-- CHLD (R378). -/
  | chld (g : Guard) (o : OpJ)
  /-- CHST_ACC (R380). -/
  | chstAcc (g : Guard) (o : OpJ)
  /-- CHST_APPLY (R380). -/
  | chstApply (g : Guard) (o : OpJ)
  /-- GPOOL (R381). -/
  | gpool (g : Guard) (o : OpJ)
  /-- TBLSWAP (R382). -/
  | tblswap (g : Guard) (o : OpR)
  /-- OPTJOB (R384). -/
  | optjob (g : Guard) (o : OpJ)
  /-- HWAIT (R392). -/
  | hwait (g : Guard) (o : OpR)
  /-- HTEST (R392). -/
  | htest (g : Guard) (o : OpR)
  /-- HCANCEL (R394). -/
  | hcancel (g : Guard) (o : OpR)
  /-- HMOV_TOK (R391). -/
  | hmovTok (g : Guard) (o : OpR)
  /-- HMOV_H (R393). -/
  | hmovH (g : Guard) (o : OpR)
  /-- HMOV_CLR (R391). -/
  | hmovClr (g : Guard) (o : OpR)
  /-- HSTAT (R391). -/
  | hstat (g : Guard) (o : OpR)
  /-- SPAWN (R395). -/
  | spawn (g : Guard) (o : OpJ)
  /-- PRIO (R396). -/
  | prio (g : Guard) (o : OpR)
  /-- RDSR (R398). -/
  | rdsr (g : Guard) (o : OpI)
  /-- WRSR (R398). -/
  | wrsr (g : Guard) (o : OpI)
  /-- ERET (R205). -/
  | eret (g : Guard) (o : OpR)
  /-- SCALL (R399). -/
  | scall (g : Guard) (o : OpI)
  /-- TLBINV_CTX (R400). -/
  | tlbinvCtx (g : Guard) (o : OpR)
  /-- TLBINV_PAGE (R400). -/
  | tlbinvPage (g : Guard) (o : OpR)
  /-- TLBINV_ALL (R400). -/
  | tlbinvAll (g : Guard) (o : OpR)
  /-- KEYOP_LOAD (R401). -/
  | keyopLoad (g : Guard) (o : OpJ)
  /-- KEYOP_KILL (R401). -/
  | keyopKill (g : Guard) (o : OpJ)
  /-- TDESC_RD (R402). -/
  | tdescRd (g : Guard) (o : OpJ)
  /-- TDESC_WR (R402). -/
  | tdescWr (g : Guard) (o : OpJ)
  /-- TDESC_WR2 (R402). -/
  | tdescWr2 (g : Guard) (o : OpJ)
  /-- SCALESET (R403). -/
  | scaleset (g : Guard) (o : OpR)
  /-- MSCPIN_PIN (R404). -/
  | mscpinPin (g : Guard) (o : OpJ)
  /-- MSCPIN_REL (R404). -/
  | mscpinRel (g : Guard) (o : OpJ)
  /-- MSCPIN_RD (R404). -/
  | mscpinRd (g : Guard) (o : OpJ)
  /-- CAPR (R405). -/
  | capr (g : Guard) (o : OpI)
  /-- KEY_KILL_STEP_COMPLETE (R171). -/
  | keyKillStepComplete (slot : Nat)
  /-- ATTEST_REPORT_SIGNED (R42). -/
  | attestReportSigned
  /-- TX_FLIT_SLOT (R24). -/
  | txFlitSlot (p : Nat)
  /-- NODE_READY (R73). -/
  | nodeReady (node : Nat)
  /-- EP_UPDATE (R84). -/
  | epUpdate (node : Nat)
  /-- DISPATCH_DECISION (R77). -/
  | dispatchDecision (die : Nat)
  /-- START_CLUSTER_MOVE (R81). -/
  | startClusterMove (node : Nat)
  /-- THREAD_STOP (R87). -/
  | threadStop (th : Nat)
  /-- SPILL_WRITE (R87). -/
  | spillWrite (node q : Nat)
  /-- CREW_START (R83). -/
  | crewStart (node : Nat)
  /-- CREW_REFILL_RESTORE (R90). -/
  | crewRefillRestore (node : Nat)
  /-- NODE_END (R60). -/
  | nodeEnd (node : Nat)
  /-- REGROUP_TIMEOUT (R100). -/
  | regroupTimeout (th : Nat)
  /-- YIELD_EXPIRE (R288). -/
  | yieldExpire (th : Nat)
  /-- LOFTSPLIT_APPLY (R105). -/
  | loftsplitApply (q : Nat)
  /-- GETPUT_ENTRY_START (R113). -/
  | getputEntryStart (q n : Nat)
  /-- TIMED_LAUNCH (R125). -/
  | timedLaunch (q n : Nat)
  /-- GETPUT_ENTRY_COMPLETE (R114). -/
  | getputEntryComplete (q n : Nat)
  /-- FAR_COUNTER_BUMP (R114). -/
  | farCounterBump (q n : Nat)
  /-- PACKET_BEAT_RECEIVE (R117). -/
  | packetBeatReceive (n : Nat)
  /-- PACKET_PLACE (R117). -/
  | packetPlace (q n : Nat)
  /-- HELD_PACKET_RETRY (R117). -/
  | heldPacketRetry (q n : Nat)
  /-- BARRIER_ARRIVAL_AT_HOME (R120). -/
  | barrierArrivalAtHome (th : Nat)
  /-- WIRE_CORNER_COMPLETION (R122). -/
  | wireCornerCompletion (q : Nat)
  /-- WIRE_TIMEOUT (R123). -/
  | wireTimeout (th : Nat)
  /-- SFU_RESULT (R213). -/
  | sfuResult (cl : Nat)
  /-- SLICE_REQUEST (R139). -/
  | sliceRequest (th n : Nat)
  /-- FILL_DATA_ARRIVE (R136). -/
  | fillDataArrive (die n : Nat)
  /-- RECALL_RETURN (R141). -/
  | recallReturn (die n : Nat)
  /-- SHEAF_MERGE (R133). -/
  | sheafMerge (die slice set : Nat)
  /-- PHASE_BOUNDARY (R199). -/
  | phaseBoundary (node lev inst : Nat)
  /-- RANGE_WALK_VISIT (R147). -/
  | rangeWalkVisit (die n slice set : Nat)
  /-- RANGE_WALK_COMPLETE (R147). -/
  | rangeWalkComplete (die n : Nat)
  /-- WRITE_LANE_SLOT (R14). -/
  | writeLaneSlot (st : Nat)
  /-- MSC_FADE_PERIOD (R158). -/
  | mscFadePeriod (st : Nat)
  /-- BUDGET_WINDOW_START (R161). -/
  | budgetWindowStart (st : Nat)
  /-- GRANT_REQUEST (R161). -/
  | grantRequest (q ctx st : Nat)
  /-- GRANT_ANSWER (R162). -/
  | grantAnswer (q ctx st : Nat)
  /-- CHUTE_WRITE_PERFORM (R163). -/
  | chuteWritePerform (q st : Nat)
  /-- CREDIT_RETURN (R160). -/
  | creditReturn (q st : Nat)
  /-- ROUND_CLOSE_QUERY (R165). -/
  | roundCloseQuery (q st : Nat)
  /-- ROUND_CLOSE_REPLY (R165). -/
  | roundCloseReply (q : Nat)
  /-- FORWARD_TABLE_REPORT (R186). -/
  | forwardTableReport (die n : Nat)
  /-- NMU_OPERATION (R167). -/
  | nmuOperation (st : Nat)
  /-- ENGINE_JOB_ACCEPT (R356). -/
  | engineJobAccept (cl unit : Nat)
  /-- MXJOB_PREPARE (R358). -/
  | mxjobPrepare (cl n : Nat)
  /-- MXJOB_RUN (R360). -/
  | mxjobRun (cl n : Nat)
  /-- MXCURVE_APPLY (R365). -/
  | mxcurveApply (cl n : Nat)
  /-- MXZERO_APPLY (R366). -/
  | mxzeroApply (cl n : Nat)
  /-- MXDRAIN_RUN (R368). -/
  | mxdrainRun (cl n : Nat)
  /-- CPJOB_RUN (R371). -/
  | cpjobRun (cl n : Nat)
  /-- CHAIN_JOB_START (R377). -/
  | chainJobStart (cl n : Nat)
  /-- CHST_FACTOR_COUNTED (R380). -/
  | chstFactorCounted (cl n : Nat)
  /-- OPTJOB_RUN (R385). -/
  | optjobRun (cl n : Nat)
  /-- JOB_COMPLETE (R195). -/
  | jobComplete (cl unit n : Nat)
  /-- MXCLAIM_GRANT (R350). -/
  | mxclaimGrant (cl : Nat)
  /-- MXREL_RELEASE (R350). -/
  | mxrelRelease (cl : Nat)
  /-- KEY_OPERATION_ARRIVE (R46). -/
  | keyOperationArrive
  /-- CLOCK_WAIT_END (R318). -/
  | clockWaitEnd (th : Nat)
  /-- ILLEGAL_INSTRUCTION (R240). -/
  | illegalInstruction (w : BitVec 32)
  /-- POWER_ON_RESET (R40). -/
  | powerOnReset
  /-- TFTP_LOADER_PUSH (R36). -/
  | tftpLoaderPush (img : List Byte)
  /-- LOADER_RUN (R37). -/
  | loaderRun (addrOk : Bool)
  /-- LOADER_ADDRESS_TIMEOUT (R37). -/
  | loaderAddressTimeout
  /-- LOADER_FETCH_COMPLETE (R37). -/
  | loaderFetchComplete (ok : Bool) (img : List Byte) (rangeLen : Nat)
  /-- LOADER_RETRY_TIMER (R37). -/
  | loaderRetryTimer
  /-- RUNTIME_BRING_UP (R39). -/
  | runtimeBringUp (trainOk : Bool) (rnd seed : BitVec 512)
  /-- FUSE_BLOW (R39). -/
  | fuseBlow (n : Nat)
  /-- OWNER_STRING_MEASURE (R35). -/
  | ownerStringMeasure (k : Nat) (str : List Byte)
  /-- KEK_DECAPSULATE (R45). -/
  | kekDecapsulate (reg : Nat) (ct : List Byte)
  /-- MGMT_KEY_LOAD (R46). -/
  | mgmtKeyLoad (slot reg : Nat) (wrapped : BitVec 576)
  /-- MGMT_KEY_KILL (R46). -/
  | mgmtKeyKill (slot : Nat)
  /-- ATTEST_REQUEST_MGMT (R43). -/
  | attestRequestMgmt (nonce : BitVec 256)
  /-- ATTEST_GO (R43). -/
  | attestGo (v : BitVec 64)
  /-- TEMP_SAMPLE (R47). -/
  | tempSample (n : Nat) (temp : BitVec 16)
  /-- WEAR_HOURLY_UPDATE (R49). -/
  | wearHourlyUpdate (w : List Int)
  /-- HOST_REGISTER_WRITE (R4). -/
  | hostRegisterWrite (bar off size : Nat) (v : BitVec 64)
  /-- PORT_RETRAIN (R20). -/
  | portRetrain (p : Nat)
  /-- PORT_ENABLE_WRITE (R20). -/
  | portEnableWrite (p : Nat) (en : Bool)
  /-- PORT_TRAINING_DONE (R18): `lanes` are those that pass at both ends, none where no partner answers. -/
  | portTrainingDone (p : Nat) (lanes : Option (BitVec 8))
  /-- PORT_LINK_LOSS (R19). -/
  | portLinkLoss (p : Nat)
  /-- RX_REPLAY_REQUEST (R23). -/
  | rxReplayRequest (p : Nat) (f : Flit)
  /-- RX_ACK_CREDIT (R23). -/
  | rxAckCredit (p : Nat) (f : AckFlit)
  /-- RX_PUTDATA (R25). -/
  | rxPutdata (p : Nat) (f : Flit)
  /-- RX_GETREQ (R25). -/
  | rxGetreq (p : Nat) (f : Flit)
  /-- RX_GETDATA (R25). -/
  | rxGetdata (p : Nat) (f : Flit)
  /-- RX_SEND (R27). -/
  | rxSend (p : Nat) (f : Flit)
  /-- RX_AMO (R304). -/
  | rxAmo (p : Nat) (f : Flit)
  /-- RX_COUNT (R25). -/
  | rxCount (p : Nat) (f : Flit)
  /-- RX_RELQUERY (R166). -/
  | rxRelquery (p : Nat) (f : Flit)
  /-- RX_RELREPLY (R166). -/
  | rxRelreply (p : Nat) (f : Flit)
  /-- RX_MGMT (R25). -/
  | rxMgmt (p : Nat) (f : Flit)
  /-- RX_REFUSE (R27). -/
  | rxRefuse (p : Nat) (f : Flit)
  /-- INTAKE_RECORD_WRITE (R55). -/
  | intakeRecordWrite (c off : Nat) (data : List Byte)
  /-- SEAL_ATTEMPT (R56). -/
  | sealAttempt (c off : Nat) (data : List Byte)
  /-- CONTEXT_DISABLE (R66). -/
  | contextDisable (c : Nat)
  /-- BAR2_HOST_READ (R54). -/
  | bar2HostRead (x n : Nat)
  /-- BAR2_HOST_WRITE (R54). -/
  | bar2HostWrite (x : Nat) (data : List Byte)
  /-- FQCMD_REPLAY (R178). -/
  | fqcmdReplay (die : Nat) (token : BitVec 32)
  /-- FQCMD_ABORT (R178). -/
  | fqcmdAbort (die : Nat) (token : BitVec 32)
  /-- MSC_LOOKUP (R154). -/
  | mscLookup (pa ctx key cls : Nat) (wr : Bool)
  /-- DRAM_FRAME_READ (R151). -/
  | dramFrameRead (frame errs : Nat)
  /-- ZDB_BREAKPOINT_HOLD (R406). -/
  | zdbBreakpointHold (th : Nat)
  /-- ZDB_BREAK (R407). -/
  | zdbBreak (addr : BitVec 64) (core : Option Nat)
  /-- ZDB_RUN (R407). -/
  | zdbRun
  /-- ZDB_CONT (R407). -/
  | zdbCont
  /-- ZDB_STEP (R407). -/
  | zdbStep (n : Nat)
  /-- ZDB_PRINT (R407). -/
  | zdbPrint (r : DbgReg) (q : Option Nat)
  /-- ZDB_X (R407). -/
  | zdbX (addr : BitVec 64) (count : Nat) (ty : Ty)
  /-- ZDB_INFO_TILES (R407). -/
  | zdbInfoTiles
  /-- ZDB_INFO_CC (R407). -/
  | zdbInfoCc (q : Option Nat)
  /-- ZDB_INFO_H (R407). -/
  | zdbInfoH
  /-- ZDB_INFO_SHEAF (R407). -/
  | zdbInfoSheaf (addr : BitVec 64)
  /-- ZDB_INFO_CHUTE (R407). -/
  | zdbInfoChute
  /-- ZDB_INFO_PHASE (R407). -/
  | zdbInfoPhase
  /-- ZDB_INFO_CREW (R407). -/
  | zdbInfoCrew
  /-- RX_FLIT_CRC_FAILURE (R23). -/
  | rxFlitCrcFailure (p : Nat) (f : Flit) (crc : BitVec 64) (fecBad : Bool)
  /-- RX_UNKNOWN_OR_FOREIGN_FLIT (R27). -/
  | rxUnknownOrForeignFlit (p : Nat) (f : Flit)
  /-- ZDB_STEP_TIMEOUT (R407). -/
  | zdbStepTimeout
  /-- HOST_REGISTER_READ (R53). -/
  | hostRegisterRead (bar off size : Nat)
  /-- BAR2_RESIZE (R54). -/
  | bar2Resize (log : Nat)
  deriving DecidableEq, Repr

end Sys2Proof
end

