-- ==== Sys2Proof/WellFormed.lean ====
section
/-! DEFINITION. Which field values an instruction admits: the ILLEGAL conditions of R240 that the words alone decide, as each
instruction's own rule lists them. Decode refuses every term this check refuses. -/
namespace Sys2Proof

/-- The width of a type in bits (R217). -/
def Ty.width : Ty → Nat
  | .i8 | .n8 | .e4m3 | .e5m2 | .e8m0 => 8
  | .i16 | .n16 | .f16 | .bf16 => 16
  | .i32 | .n32 | .f32 => 32
  | .i64 | .n64 => 64
  | .i4 | .n4 | .e2m1 => 4
  | .f36 | .i36 => 36

/-- i types are signed (R217, R218). -/
def Ty.signed : Ty → Bool
  | .i8 | .i16 | .i32 | .i64 | .i4 | .i36 => true
  | _ => false

/-- The integer types of scalar instructions, TY 0x00 to 0x07 (R264). -/
def Ty.isInt : Ty → Bool
  | .i8 | .i16 | .i32 | .i64 | .n8 | .n16 | .n32 | .n64 => true
  | _ => false

/-- The integer types of vector elements, widths 8 to 32 (R321). -/
def Ty.isVInt : Ty → Bool
  | .i8 | .i16 | .i32 | .n8 | .n16 | .n32 => true
  | _ => false

/-- Integers of widths 4 to 32 (R321). -/
def Ty.isVInt4 (t : Ty) : Bool := t.isVInt || t == .i4 || t == .n4

/-- f16, bf16 and f32 (R276). -/
def Ty.isFloat : Ty → Bool
  | .f16 | .bf16 | .f32 => true
  | _ => false

/-- e4m3, e5m2 and e2m1 (R229). -/
def Ty.isNarrow : Ty → Bool
  | .e4m3 | .e5m2 | .e2m1 => true
  | _ => false

/-- The conversion set of R280. -/
def Ty.inCvt (t : Ty) : Bool := t.isInt || t.isFloat || t.isNarrow

/-- Type codes (R217). -/
def Ty.code : Ty → Nat
  | .i8 => 0x00 | .i16 => 0x01 | .i32 => 0x02 | .i64 => 0x03
  | .n8 => 0x04 | .n16 => 0x05 | .n32 => 0x06 | .n64 => 0x07
  | .i4 => 0x08 | .n4 => 0x09
  | .f16 => 0x10 | .bf16 => 0x11 | .f32 => 0x12 | .f36 => 0x14 | .i36 => 0x15
  | .e4m3 => 0x18 | .e5m2 => 0x19 | .e2m1 => 0x1A | .e8m0 => 0x1B

/-- The type of a code; the reserved codes of R217 name none. -/
def Ty.ofCode : Nat → Option Ty
  | 0x00 => some .i8 | 0x01 => some .i16 | 0x02 => some .i32 | 0x03 => some .i64
  | 0x04 => some .n8 | 0x05 => some .n16 | 0x06 => some .n32 | 0x07 => some .n64
  | 0x08 => some .i4 | 0x09 => some .n4
  | 0x10 => some .f16 | 0x11 => some .bf16 | 0x12 => some .f32 | 0x14 => some .f36 | 0x15 => some .i36
  | 0x18 => some .e4m3 | 0x19 => some .e5m2 | 0x1A => some .e2m1 | 0x1B => some .e8m0
  | _ => none

/-- The vadd types of R321. -/
def Ty.isArith (t : Ty) : Bool := t.isVInt || t.isFloat

/-- Element types of widths 8 to 32 that R320 leaves (e8m0 is excluded there). -/
def Ty.isMove8 (t : Ty) : Bool := t.isVInt || t.isFloat || t == .e4m3 || t == .e5m2

/-- Element types of widths 4 to 32 that R320 leaves. -/
def Ty.isMove4 (t : Ty) : Bool := t.isMove8 || t.isVInt4 || t == .e2m1

/-- The rounding field of R276: an explicit mode 0 to 5, or all zero. -/
def roundOk (f : BitVec 4) : Bool := if f[3] then (f.extractLsb' 0 3).toNat ≤ 5 else f == 0

/-- A p register number (R252). -/
def isP (r : BitVec 5) : Bool := r.toNat < 8

/-- An h register number (R252). -/
def isH (r : BitVec 5) : Bool := r.toNat < 16

/-- MOD, FN, TY and the immediate word all zero. -/
def OpR.bare (o : OpR) : Bool := o.ty == .i8 && o.fn == 0 && o.md == 0 && o.x.isNone

/-- No register is named. -/
def OpR.noRegs (o : OpR) : Bool := o.rd == 0 && o.ra == 0 && o.rb == 0 && o.rc == 0

/-- Two-source integer instructions of R265 without `.sat`. -/
def OpR.int2 (o : OpR) : Bool := o.ty.isInt && o.rc == 0 && o.fn == 0 && o.md == 0 && o.x.isNone

/-- Two-source integer instructions of R265 with `.sat`. -/
def OpR.int2s (o : OpR) : Bool := o.ty.isInt && o.rc == 0 && o.fn == 0 && o.md.toNat ≤ 1 && o.x.isNone

/-- One-source integer instructions of R265. -/
def OpR.int1 (o : OpR) : Bool := o.int2 && o.rb == 0

/-- The scalar float fields of R276. -/
def OpR.flt (o : OpR) (fnMax : Nat) : Bool :=
  o.ty.isFloat && o.fn.toNat ≤ fnMax && o.md.extractLsb' 4 4 == 0#4 && roundOk (o.md.extractLsb' 0 4) && o.x.isNone

/-- MOD bits of a vector instruction: rounding [3:0], SAT [4], Z [5], S [6], [7] zero (R320); `b` says whether the
instruction has an operand b. -/
def OpR.vmd (o : OpR) (b : Bool) (fl : Bool) : Bool :=
  o.md[7] == false
    && (if fl then roundOk (o.md.extractLsb' 0 4) && o.md[4] == false else o.md.extractLsb' 0 4 == 0#4)
    && (if b then (o.x.isNone || (o.rb == 0 && o.md[6] == false)) else (o.x.isNone && o.md[6] == false))

/-- Only Z may be set in MOD, and there is no operand b. -/
def OpR.onlyZ (o : OpR) : Bool := (o.md &&& 0xDF#8) == 0 && o.x.isNone

/-- SPAN of a request: 0 to 16 (R129, R247). -/
def OpM.spanOk (o : OpM) : Bool := o.span.toNat ≤ 16

/-- RQ, ORD and SCOPE zero. -/
def OpM.plain (o : OpM) : Bool := o.rq == .own && o.ord == .relaxed && o.scope == .thread

/-- The scalar widths of ld and st (R292). -/
def Ty.isScalarMem (t : Ty) : Bool := t.width == 8 || t.width == 16 || t.width == 32 || t.width == 64

/-- AOP and TY of an atomic (R300). -/
def aopOk (aop : Nat) (t : Ty) : Bool :=
  let i := t == .i32 || t == .i64 || t == .n32 || t == .n64
  if aop ≤ 5 then i else if aop == 6 then i || t == .f32
  else if aop ≤ 9 then t == .f32 else aop == 10 && t == .bf16

/-- Special-register indices of R398. -/
def srKnown (i : Nat) : Bool :=
  i ≤ 0x00B || (0x010 ≤ i && i ≤ 0x013) || (0x020 ≤ i && i ≤ 0x026) || (0x040 ≤ i && i ≤ 0x046) || i == 0x060
    || (0x080 ≤ i && i ≤ 0x086)

/-- Special registers with an RW or WO field (R398). -/
def srWritable (i : Nat) : Bool :=
  i == 0x000 || (0x008 ≤ i && i ≤ 0x00B) || (0x010 ≤ i && i ≤ 0x012) || (0x020 ≤ i && i ≤ 0x026) || i == 0x040
    || i == 0x043 || i == 0x044 || i == 0x046 || i == 0x060 || i == 0x080 || i == 0x081 || (0x083 ≤ i && i ≤ 0x086)

/-- Indices whose write has a step of its own in the table of steps. -/
def srOwnRow (i : Nat) : Bool :=
  i == 0x000 || i == 0x010 || i == 0x011 || i == 0x012 || i == 0x040 || i == 0x043 || i == 0x044 || i == 0x046
    || i == 0x060 || i == 0x084

/-- A wrsr whose index is in `l` (R398). -/
def OpI.wr (o : OpI) (l : List Nat) : Bool := o.rd == 0 && o.fn == 0 && l.contains o.imm.toNat

/-- The part of R308's ILLEGAL conditions that AUX0 and AUX1 decide; `put` tells put from get. -/
def OpJ.xfer (o : OpJ) (put : Bool) : Bool :=
  let linc := (o.aux0.extractLsb' 6 16).toNat
  let fen := o.aux0[28]
  let fcc := (o.aux0.extractLsb' 22 6).toNat
  let finc := (o.aux1.extractLsb' 0 16).toNat
  let kind := (o.aux1.extractLsb' 18 2).toNat
  let tile := o.aux1[17]
  let keep := o.aux1[20]
  o.rd == 0 && o.fn == 0 && o.aux0.extractLsb' 29 3 == 0#3 && o.aux1.extractLsb' 21 11 == 0#11
    && linc != 0 && kind != 3 && (if fen then finc != 0 else finc == 0 && fcc == 0)
    && (!keep || (put && tile)) && (!fen || (put && kind != 0))

/-- An F128-J instruction that names a handle and no other field than its record. -/
def OpJ.job (o : OpJ) (fn : Nat) : Bool := isH o.rd && o.fn.toNat == fn && o.aux0 == 0 && o.aux1 == 0

/-- Vector operations that xop accepts, with the FN values each allows (R321, R323, R334). -/
def xopFnOk (vopc vfn : Nat) : Bool :=
  match vopc with
  | 0x70 | 0x71 | 0x74 | 0x75 | 0x77 | 0x78 | 0x79 => vfn == 0
  | 0x72 => vfn ≤ 1
  | 0x73 | 0x7A => vfn ≤ 3
  | 0x76 => vfn ≤ 5
  | 0x7F => (match Ty.ofCode vfn with | some t => t.inCvt && t.width ≤ 32 | none => false)
  | _ => false

/-- An unguarded instruction: PG and PGN zero (R329, R342). -/
def Guard.none (g : Guard) : Bool := g.pg == 0 && g.pgn == false

/-- The field rules of every thread instruction (R240, R265 to R405). -/
def Instr.wf : Instr → Bool
  | .nop _ o | .wfence _ o | .nmfence _ o | .regroup _ o | .yield _ o | .exit _ o | .eret _ o | .ret _ o => o.noRegs && o.bare
  | .add _ o | .sub _ o | .mul _ o => o.int2s
  | .mulh _ o | .and _ o | .or _ o | .xor _ o | .shl _ o | .shr _ o | .sra _ o | .rot _ o | .min _ o | .max _ o => o.int2
  | .clz _ o | .ctz _ o | .popc _ o => o.int1
  | .madd _ o => o.ty.isInt && o.fn == 0 && o.md.toNat ≤ 1 && o.x.isNone
  | .div _ o => o.ty.isInt && o.rc == 0 && o.fn.toNat ≤ 1 && o.md.toNat ≤ 1 && o.x.isNone
  | .rem _ o => o.ty.isInt && o.rc == 0 && o.fn.toNat ≤ 1 && o.md == 0 && o.x.isNone
  | .addi _ o | .andi _ o | .ori _ o | .xori _ o => o.fn == 0
  | .shi _ o => o.fn.toNat ≤ 3 && o.imm.toNat < 64
  | .cmp _ o => o.ty.isInt && o.rc == 0 && o.fn.toNat ≤ 5 && o.md.toNat ≤ 1 && (o.md == 1 || isP o.rd) && o.x.isNone
  | .cmpi _ o => (o.fn.extractLsb' 0 3).toNat ≤ 5 && o.fn.extractLsb' 5 3 == 0#3 && (o.fn[4] || isP o.rd)
  | .sel _ o => o.bare && isP o.rc
  | .movi _ o | .movk _ o => o.ra == 0 && o.fn.toNat ≤ 1
  | .mov _ o => o.bare && o.rb == 0 && o.rc == 0
  | .ext _ o =>
    let n := (o.fn.extractLsb' 0 7).toNat
    let p := (o.md.extractLsb' 0 6).toNat
    o.md.extractLsb' 6 2 == 0#2 && o.fn[7] == false && 1 ≤ n && p + n ≤ 64 && (o.ty == .i64 || o.ty == .n64)
      && o.rb == 0 && o.rc == 0 && o.x.isNone
  | .ins _ o =>
    let n := (o.fn.extractLsb' 0 7).toNat
    let p := (o.md.extractLsb' 0 6).toNat
    o.md.extractLsb' 6 2 == 0#2 && o.fn[7] == false && 1 ≤ n && p + n ≤ 64 && o.ty == .i8
      && o.rb == 0 && o.rc == 0 && o.x.isNone
  | .lea _ o => o.plain && o.span == 0
  | .digit _ o => o.bare
  | .plog _ o => isP o.rd && isP o.ra && isP o.rb && o.rc == 0 && o.md == 0 && o.ty == .i8 && o.fn.toNat ≤ 7 && o.x.isNone
  | .pmov _ o => o.rb == 0 && o.rc == 0 && o.ty == .i8 && o.md == 0 && o.fn.toNat ≤ 2 && o.x.isNone
      && (if o.fn == 0 then isP o.ra else isP o.rd)
  | .fadd _ o => o.flt 1 && o.rc == 0
  | .fmul _ o | .fdiv _ o => o.flt 0 && o.rc == 0
  | .ffma _ o => o.flt 3
  | .fsqrt _ o => o.flt 0 && o.rb == 0 && o.rc == 0
  | .fminmax _ o => o.ty.isFloat && o.md == 0 && o.fn.toNat ≤ 1 && o.rc == 0 && o.x.isNone
  | .fcmp _ o => o.ty.isFloat && o.fn.toNat ≤ 7 && o.md.toNat ≤ 1 && o.rc == 0 && (o.md == 1 || isP o.rd) && o.x.isNone
  | .fcvt _ o => o.fn.extractLsb' 6 2 == 0#2 && o.ty.inCvt && o.rb == 0 && o.rc == 0 && o.x.isNone
      && o.md.extractLsb' 4 4 == 0#4 && roundOk (o.md.extractLsb' 0 4)
      && (match Ty.ofCode (o.fn.extractLsb' 0 6).toNat with
          | some s => s.inCvt && !(s.isInt && o.ty.isInt)
          | none => false)
  | .br _ o | .bri _ o => o.cond.toNat ≤ 7
  | .brp _ o => isP o.ra && o.cond.toNat ≤ 5 && o.rb == 0
  | .jmp _ o | .call _ o => o.ra == 0 && o.rb == 0 && o.cond == 0
  | .loop _ o => o.rb == 0 && o.cond == 0
  | .lnext _ o => o.cond == 0
  | .jr _ o => o.rb == 0 && o.rc == 0 && o.md == 0 && o.ty == .i8 && o.fn.toNat ≤ 1 && (o.fn == 1 || o.rd == 0) && o.x.isNone
  | .lnest _ o => o.fn == 0
  | .trap _ o | .brk _ o | .scall _ o => o.rd == 0 && o.ra == 0 && o.fn == 0
  | .ld _ o => o.ty.isScalarMem && o.spanOk && (o.ord == .acquire || (o.ord == .relaxed && o.scope == .thread))
  | .st _ o => o.ty.isScalarMem && o.spanOk && o.rq != .si && (o.ord == .release || (o.ord == .relaxed && o.scope == .thread))
  | .vld _ o => o.ty != .f36 && o.ty != .i36 && o.spanOk && o.ord == .relaxed && o.scope == .thread
  | .vst _ o => o.ty != .f36 && o.ty != .i36 && o.spanOk && o.rq != .si && o.ord == .relaxed && o.scope == .thread
  | .vldx _ o => (o.ty.width == 16 || o.ty.width == 32) && o.spanOk && o.ord == .relaxed && o.scope == .thread
  | .vstx _ o => (o.ty.width == 16 || o.ty.width == 32) && o.spanOk && o.rq != .si && o.ord == .relaxed && o.scope == .thread
  | .lsld _ o | .lsst _ o => o.plain && (o.ty == .i32 || o.ty == .n32 || o.ty == .f32) && o.span == 0 && o.ra == 0
  | .get _ o => o.xfer false
  | .put _ o => o.xfer true
  | .ccwait _ _ => true
  | .ccopRd _ o => o.fn == 0 && o.md.extractLsb' 6 2 == 0#2 && o.rb == 0 && o.rc == 0 && o.ty == .i8 && o.ra == 0 && o.x.isNone
  | .ccopSet _ o => o.fn == 1 && o.md.extractLsb' 6 2 == 0#2 && o.rb == 0 && o.rc == 0 && o.ty == .i8 && o.rd == 0 && o.x.isNone
  | .ccopAdd _ o => o.fn == 2 && o.md.extractLsb' 6 2 == 0#2 && o.rb == 0 && o.rc == 0 && o.ty == .i8 && o.rd == 0 && o.x.isNone
  | .ccopClr _ o => o.fn == 3 && o.md.extractLsb' 6 2 == 0#2 && o.noRegs && o.ty == .i8 && o.x.isNone
  | .tiledef _ o => o.rd == 0 && o.rc == 0 && o.fn == 0 && o.ty == .i8 && o.x.isNone
  | .tilest _ o => o.rb == 0 && o.rc == 0 && o.bare
  | .pref _ o => o.rd == 0 && (o.rq == .own || o.rq == .si) && o.ord == .relaxed && o.scope == .thread && o.spanOk
      && o.ty != .f36 && o.ty != .i36
  | .flushrFlush _ o => isH o.rd && o.rc == 0 && o.ty == .i8 && o.md == 0 && o.fn == 0 && o.x.isNone
  | .flushrInv _ o => isH o.rd && o.rc == 0 && o.ty == .i8 && o.md == 0 && o.fn == 1 && o.x.isNone
  | .amo _ o => (o.rq == .nc || o.rq == .loc) && aopOk o.span.toNat o.ty
  | .amon _ o => (o.rq == .nc || o.rq == .loc) && aopOk o.span.toNat o.ty && (o.ord == .relaxed || o.ord == .release)
  | .cas _ o => (o.rq == .nc || o.rq == .loc) && (o.ty == .i64 || o.ty == .n64) && o.span.toNat ≤ 1
      && (o.span == 0 || (o.rd.toNat % 2 == 0 && o.rb.toNat % 2 == 0))
  | .fence _ o => o.rd == 0 && o.ra == 0 && o.rb == 0 && o.rq == .own && o.ty == .i8 && o.span == 0 && o.off == 0 && o.x.isNone
  | .phase _ o => o.ra == 0 && o.imm == 0 && o.fn.extractLsb' 4 4 == 0#4
  | .sendOpen _ o => o.fn == 0 && o.rd == 0 && o.ty == .i8 && o.md.extractLsb' 4 4 == 0#4
      && (o.md.extractLsb' 0 3).toNat ≤ 5 && (o.md[3] || o.rc == 0) && o.x.isNone
  | .sendOne _ o => o.fn == 3 && o.rd == 0 && o.ty == .i8 && o.md.extractLsb' 4 4 == 0#4
      && (o.md.extractLsb' 0 3).toNat ≤ 5 && (o.md[3] || o.rc == 0) && o.x.isNone
  | .sendMore _ o => o.fn == 1 && o.rd == 0 && o.ra == 0 && o.rc == 0 && o.ty == .i8 && o.md == 0 && o.x.isNone
  | .sendClose _ o => o.fn == 2 && o.rd == 0 && o.ra == 0 && o.rc == 0 && o.ty == .i8 && o.md == 0 && o.x.isNone
  | .recv _ o | .rpoll _ o => o.ra == 0 && o.rb == 0 && o.rc == 0 && o.fn == 0 && o.ty == .i8 && o.md.toNat ≤ 5 && o.x.isNone
  | .barcfg _ o => o.plain && o.ty == .i8 && o.span == 0 && o.x.isNone
  | .bararr _ o => o.rq == .own && o.ord == .release && o.ty == .i8 && o.span == 0 && o.x.isNone
  | .barwait _ o => o.rq == .own && o.ord == .acquire && o.ty == .i8 && o.span == 0 && o.x.isNone
  | .barsync _ o => o.rq == .own && o.ord == .acqRel && o.ty == .i8 && o.span == 0 && o.x.isNone
  | .wirebar _ o | .rdclk _ o => o.ra == 0 && o.rb == 0 && o.rc == 0 && o.bare
  | .waitclk _ o => o.rd == 0 && o.rb == 0 && o.rc == 0 && o.bare
  | .vadd _ o | .vsub _ o => o.ty.isArith && o.fn == 0 && o.rc == 0 && o.vmd true o.ty.isFloat
  | .vmul _ o => o.ty.isArith && (o.fn == 0 || (o.fn == 1 && o.ty.isVInt)) && o.rc == 0 && o.vmd true o.ty.isFloat
  | .vfma _ o => o.ty.isArith && o.fn.toNat ≤ 3 && o.vmd true o.ty.isFloat
  | .vmin _ o | .vmax _ o => o.ty.isArith && o.fn == 0 && o.rc == 0 && o.vmd true o.ty.isFloat
  | .vun _ o => o.rb == 0 && o.rc == 0
      && (if o.fn.toNat ≤ 1 then o.ty.isArith else if o.fn.toNat ≤ 4 then o.ty.isVInt4 else o.fn == 5 && o.ty.isFloat)
      && o.vmd false o.ty.isFloat
  | .vand _ o | .vor _ o | .vxor _ o => o.ty.isVInt4 && o.fn == 0 && o.rc == 0 && o.vmd true false
  | .vsh _ o => o.ty.isVInt && o.fn.toNat ≤ 3 && o.rc == 0 && o.vmd true false
  | .vcmp _ o => isP o.rd && o.rc == 0 && (o.md &&& 0x3F#8) == 0 && o.vmd true false
      && (if o.ty.isFloat then o.fn.toNat ≤ 7 else o.ty.isVInt && o.fn.toNat ≤ 5)
  | .vsel _ o => o.ty.isMove4 && o.fn == 0 && o.rc == 0 && (o.md &&& 0x3F#8) == 0 && o.vmd true false
  | .vbcast _ o => o.ty.isMove8 && o.rc == 0 && (o.md &&& 0xDF#8) == 0
      && (if o.fn == 0 then o.rb == 0 && (o.x.isNone || o.ra == 0) else o.fn == 1 && o.x.isNone)
  | .vext _ o => o.ty.isMove8 && o.rc == 0 && o.onlyZ && o.fn.toNat ≤ 1
  | .vcvt _ o => o.fn.extractLsb' 6 2 == 0#2 && o.rb == 0 && o.ty.inCvt && o.ty.width ≤ 32 && o.x.isNone
      && o.md.extractLsb' 6 2 == 0#2
      && (match Ty.ofCode (o.fn.extractLsb' 0 6).toNat with
          | some s => s.inCvt && s.width ≤ 32
              && o.rc.toNat < Nat.max s.width o.ty.width / Nat.min s.width o.ty.width
              && (if s.isInt && o.ty.isInt then o.md.extractLsb' 0 4 == 0#4 else roundOk (o.md.extractLsb' 0 4))
              && (o.ty.isInt || o.md[4] == false)
          | none => false)
  | .vdot _ o =>
      let i := o.ty == .i8 || o.ty == .n8 || o.ty == .i4 || o.ty == .n4
      let f := o.ty == .bf16 || o.ty == .f16
      (i || f) && (o.fn == 0 || (o.fn == 1 && i)) && o.rc == 0 && o.vmd true f
  | .vred _ o => o.ty.isArith && (o.fn.toNat ≤ 2 || (o.fn.toNat ≤ 5 && o.ty.isVInt)) && o.rb == 0 && o.rc == 0
      && o.md[5] == false && o.vmd false o.ty.isFloat && !(o.fn == 0 && o.md[4])
  | .vscan _ o => o.ty.isArith && o.fn.extractLsb' 3 5 == 0#5 && (o.fn.extractLsb' 0 2).toNat ≤ 2 && isP o.rc && o.rb == 0
      && o.vmd false o.ty.isFloat
  | .vperm _ o => o.ty.isMove8 && o.onlyZ && (o.fn == 1 || (o.fn == 0 && o.rc == 0))
  | .vshuf _ o => o.ty.isMove8 && o.onlyZ && o.fn.toNat ≤ 5 && o.rc == 0 && (o.fn != 4 || o.rb == 0)
  | .vsort _ o => o.rd.toNat % 2 == 0 && o.ra == 0 && o.rb == 0 && o.rc == 0 && o.md == 0 && o.fn.toNat ≤ 1 && o.x.isNone
      && (o.ty == .i32 || o.ty == .n32 || o.ty == .f32)
  | .vquant g o => g.none && o.rb == 0 && o.x.isNone && o.md.extractLsb' 6 2 == 0#2 && roundOk (o.md.extractLsb' 0 4)
      && o.fn.extractLsb' 6 2 == 0#2
      && (match o.ty with
          | .e4m3 | .e5m2 => (o.md.extractLsb' 4 2).toNat ≤ 1
          | .e2m1 => true
          | _ => false)
      && (match Ty.ofCode (o.fn.extractLsb' 0 6).toNat with
          | some .f32 => o.ra.toNat % 2 == 0
          | some .bf16 | some .f16 => true
          | _ => false)
  | .vdeq g o => g.none && o.rc == 0 && o.x.isNone && o.md.extractLsb' 6 2 == 0#2 && roundOk (o.md.extractLsb' 0 4)
      && o.fn.extractLsb' 6 2 == 0#2 && o.ty.isFloat && (o.ty != .f32 || o.rd.toNat % 2 == 0)
      && (match Ty.ofCode (o.fn.extractLsb' 0 6).toNat with
          | some .e4m3 | some .e5m2 => (o.md.extractLsb' 4 2).toNat ≤ 1
          | some .e2m1 => true
          | _ => false)
  | .xop _ o =>
      let vopc := (o.aux0.extractLsb' 0 8).toNat
      let vfn := (o.aux0.extractLsb' 8 8).toNat
      o.rd == 0 && o.fn.toNat ≤ 1 && o.aux0.extractLsb' 24 8 == 0#8 && o.aux0.extractLsb' 21 3 == 0#3
        && xopFnOk vopc vfn && roundOk (o.aux0.extractLsb' 16 4)
        && (!((0x77 ≤ vopc && vopc ≤ 0x7A) || (vopc == 0x76 && 2 ≤ vfn && vfn ≤ 4)) || o.aux0.extractLsb' 16 4 == 0#4)
        && (!(vopc == 0x76 && vfn == 5) || o.aux0[20] == false)
        && (if o.fn == 1 then vopc != 0x76 && vopc != 0x7F else o.aux1 == 0)
  | .xred _ o => o.fn.extractLsb' 4 4 == 0#4 && (o.fn.extractLsb' 0 3).toNat ≤ 5 && o.aux0.extractLsb' 5 27 == 0#27
      && roundOk (o.aux0.extractLsb' 0 4) && o.aux1 == 0 && (o.fn[3] == false || o.rd == 0)
  | .xscan _ o => o.fn.extractLsb' 3 5 == 0#5 && (o.fn.extractLsb' 0 2).toNat ≤ 2 && o.aux0.extractLsb' 5 27 == 0#27
      && roundOk (o.aux0.extractLsb' 0 4) && o.aux1 == 0 && o.rd == 0
  | .sfu _ o => (o.ty == .f32 || o.ty == .bf16) && o.onlyZ && o.rb == 0 && o.rc == 0 && o.fn.toNat ≤ 9
  | .rng _ o => o.onlyZ && o.ra == 0 && o.rb == 0 && o.rc == 0 && ((o.fn == 0 && o.ty == .n32) || (o.fn == 1 && o.ty == .f32))
  | .sample g o => g.none && o.ty == .f32 && o.fn.toNat ≤ 7 && o.md == 0 && o.x.isNone
  | .maskld _ o => o.ty == .n64 && (o.rq == .si || o.rq == .nc || o.rq == .loc) && o.ord == .relaxed && o.scope == .thread
      && o.spanOk && o.x.isNone
  | .pdstep _ o => o.ty == .i8 && o.fn.toNat ≤ 7 && 2 ≤ o.md.toNat && o.md.toNat ≤ 4 && o.x.isNone
  | .mxclaim _ o => o.fn.toNat ≤ 3
  | .mxrel _ o => o.fn.toNat ≤ 1 && o.rd == 0
  | .mxzero _ o => o.fn == 0 && o.rd == 0
  | .mxjob _ o | .mxdrain _ o | .cpjob _ o | .chld _ o | .chstAcc _ o | .gpool _ o | .optjob _ o | .spawn _ o => o.job 0
  | .chstApply _ o => o.job 1
  | .mxcurve _ o => o.rd == 0 && o.fn == 0 && o.aux0.toNat < 16 && o.aux1 == 0
  | .tblswap _ o => o.fn.toNat ≤ 1 && o.ty == .i8 && o.md == 0 && o.x.isNone
  | .hwait _ o => o.fn.toNat ≤ 1 && isH o.ra && o.rb == 0 && o.rc == 0 && o.ty == .i8 && o.md == 0 && o.x.isNone
  | .htest _ o => isP o.rd && isH o.ra && o.rb == 0 && o.rc == 0 && o.bare
  | .hcancel _ o | .hstat _ o => isH o.ra && o.rb == 0 && o.rc == 0 && o.bare
  | .hmovTok _ o => o.fn == 0 && isH o.ra && o.rb == 0 && o.rc == 0 && o.bare
  | .hmovH _ o => o.fn == 1 && isH o.rd && o.rb == 0 && o.rc == 0 && o.ty == .i8 && o.md == 0 && o.x.isNone
  | .hmovClr _ o => o.fn == 2 && isH o.rd && o.ra == 0 && o.rb == 0 && o.rc == 0 && o.ty == .i8 && o.md == 0 && o.x.isNone
  | .prio _ o => o.rc == 0 && o.ty == .i8 && o.md == 0 && o.x.isNone && (if o.fn == 0 then o.rb == 0 else o.fn == 1 && isH o.rb)
  | .rdsr _ o => o.ra == 0 && o.fn == 0 && srKnown o.imm.toNat
  | .wrsr _ o => o.rd == 0 && o.fn == 0 && srWritable o.imm.toNat && !srOwnRow o.imm.toNat
  | .statusWrite _ o => o.wr [0x000]
  | .rxRingRegWrite _ o => o.wr [0x010, 0x011]
  | .rxheadWrite _ o => o.wr [0x012]
  | .loftsplitWrite _ o => o.wr [0x040]
  | .wireRegWrite _ o => o.wr [0x043, 0x044]
  | .wallowWrite _ o => o.wr [0x046]
  | .vicgroupWrite _ o => o.wr [0x060]
  | .fqcfgWrite _ o => o.wr [0x084]
  | .tlbinvCtx _ o => o.fn == 0 && o.rd == 0 && o.rb == 0 && o.rc == 0 && o.bare
  | .tlbinvPage _ o => o.fn == 1 && o.rd == 0 && o.rc == 0 && o.ty == .i8 && o.md == 0 && o.x.isNone
  | .tlbinvAll _ o => o.fn == 2 && o.noRegs && o.ty == .i8 && o.md == 0 && o.x.isNone
  | .keyopLoad _ o => o.job 0
  | .keyopKill _ o => isH o.rd && o.fn == 1 && o.ra == 0 && o.imm == 0 && o.aux0.toNat < 1024 && o.aux1 == 0
  | .tdescRd _ o => o.fn == 0 && o.aux0.toNat < 65536 && o.aux1 == 0
  | .tdescWr _ o => o.fn == 1 && o.aux0.toNat < 65536 && o.aux1 == 0
  | .tdescWr2 _ o => o.fn == 2 && o.aux0.toNat < 65536 && o.aux1 == 0
  | .scaleset _ o => o.fn.toNat ≤ 1 && o.ty == .i8 && o.md == 0 && o.x.isNone
  | .mscpinPin _ o => o.fn == 0 && o.ra == 0 && o.imm == 0 && o.aux0.toNat < 2 ^ 27 && o.aux1.toNat < 2 ^ 20
  | .mscpinRel _ o => o.fn == 1 && o.ra == 0 && o.imm == 0 && o.aux0.toNat < 2 ^ 27 && o.aux1 == 0
  | .mscpinRd _ o => o.fn == 2 && o.ra == 0 && o.imm == 0 && o.aux0.toNat < 2 ^ 27 && o.aux1 == 0
  | .capr _ o => o.fn == 0
  | _ => true

end Sys2Proof
end

