-- ==== Sys2Proof/Machine/Num.lean ====
section
/-! DEFINITION. Numbers: integer reading and writing (R218, R264), the floating-point formats, exact values, Round, and the
arithmetic that rounds once (R220 to R236). A real value is held exactly as a dyadic rational; quotients and roots keep more
than 80 bits and a sticky bit, which no rounding mode can tell from the exact value. -/
namespace Sys2Proof.Machine

/-- val_T (R264): the low `w` bits of a value, signed for i types. -/
def valT (t : Ty) (x : Nat) : Int :=
  let w := t.width
  let u := x % 2 ^ w
  if t.signed && u ≥ 2 ^ (w - 1) then (u : Int) - 2 ^ w else u

/-- The least value of an integer type (R218). -/
def minT (t : Ty) : Int := if t.signed then -(2 ^ (t.width - 1) : Int) else 0
/-- The greatest value of an integer type (R218). -/
def maxT (t : Ty) : Int := if t.signed then 2 ^ (t.width - 1) - 1 else 2 ^ t.width - 1
/-- Sat_T (R264). -/
def satT (t : Ty) (x : Int) : Int := if x < minT t then minT t else if maxT t < x then maxT t else x
/-- The `w`-bit pattern of an integer. -/
def patT (t : Ty) (x : Int) : Nat := (x % (2 ^ t.width : Int)).toNat
/-- Ext_T (R264): a `w`-bit result as 64 bits, sign-extended for i types. -/
def extT (t : Ty) (x : Int) : Word := BitVec.ofInt 64 (valT t (patT t x))

/-- The exact value of a floating-point operand: a NaN (signalling or quiet), an infinity, or ±m × 2^e. -/
inductive FVal where
  | nan (sig : Bool)
  | inf (neg : Bool)
  | fin (neg : Bool) (m : Nat) (e : Int)
  deriving DecidableEq, Repr

/-- A floating-point format (R220): exponent and fraction bits, bias, the pattern of the largest finite magnitude, the patterns
of infinity and of the canonical NaN (R223) where it has them, and whether its NaNs may signal. -/
structure Fmt where
  eb   : Nat
  fb   : Nat
  bias : Nat
  top  : Nat
  inf  : Option Nat
  nan  : Option Nat
  sig  : Bool
  deriving DecidableEq, Repr

/-- The formats of R220; `nf` selects the e4m3 reading (R221). -/
def fmtOf (t : Ty) (nf : Bool) : Fmt :=
  match t with
  | .f16 => { eb := 5, fb := 10, bias := 15, top := 0x7BFF, inf := some 0x7C00, nan := some 0x7E00, sig := true }
  | .bf16 => { eb := 8, fb := 7, bias := 127, top := 0x7F7F, inf := some 0x7F80, nan := some 0x7FC0, sig := true }
  | .f36 => { eb := 8, fb := 27, bias := 127, top := 0x7F7FFFFFF, inf := some 0x7F8000000, nan := some 0x7FC000000, sig := true }
  | .e4m3 => if nf then { eb := 4, fb := 3, bias := 7, top := 0x77, inf := some 0x78, nan := some 0x7F, sig := false }
             else { eb := 4, fb := 3, bias := 7, top := 0x7E, inf := none, nan := some 0x7F, sig := false }
  | .e5m2 => { eb := 5, fb := 2, bias := 15, top := 0x7B, inf := some 0x7C, nan := some 0x7E, sig := false }
  | .e2m1 => { eb := 2, fb := 1, bias := 1, top := 0x7, inf := none, nan := none, sig := false }
  | _ => { eb := 8, fb := 23, bias := 127, top := 0x7F7FFFFF, inf := some 0x7F800000, nan := some 0x7FC00000, sig := true }

/-- The value of a pattern (R220). -/
def Fmt.dec (f : Fmt) (x : Nat) : FVal :=
  let neg := bit x (f.eb + f.fb)
  let a := x % 2 ^ (f.eb + f.fb)
  let ex := a / 2 ^ f.fb
  let fr := a % 2 ^ f.fb
  if f.inf.isSome && ex == 2 ^ f.eb - 1 then (if fr == 0 then .inf neg else .nan (f.sig && !bit fr (f.fb - 1)))
  else if f.inf.isNone && f.nan == some a then .nan false
  else if ex == 0 then .fin neg fr (1 - (f.bias : Int) - f.fb)
  else .fin neg (fr + 2 ^ f.fb) ((ex : Int) - f.bias - f.fb)

/-- A subnormal value of a format. -/
def Fmt.subnormal (f : Fmt) (x : Nat) : Bool := let a := x % 2 ^ (f.eb + f.fb); a != 0 && a < 2 ^ f.fb

/-- STATUS fields that number reading depends on (R254): NF, FZ, FZN. -/
structure NumMode where
  nf  : Bool
  fz  : Bool
  fzn : Bool
  deriving DecidableEq, Repr

/-- The engines' arithmetic: NF 0, no flushing. -/
def plainMode : NumMode := { nf := false, fz := false, fzn := false }

/-- Whether a type flushes its subnormals (R228, R229). -/
def NumMode.flush (n : NumMode) (t : Ty) : Bool := if t.isNarrow then n.fzn else if t.isFloat then n.fz else false

/-- An operand read under R221, R228 and R229. -/
def decF (n : NumMode) (t : Ty) (x : Nat) : FVal :=
  let f := fmtOf t n.nf
  if n.flush t && f.subnormal x then .fin (bit x (f.eb + f.fb)) 0 0 else f.dec x

/-- NX, UF, OF, DZ, INV and SAT as bits 0 to 5, the order of STATUS[21:16] (R227). -/
abbrev Flags := Nat
def flNX : Flags := 1
def flUF : Flags := 2
def flOF : Flags := 4
def flDZ : Flags := 8
def flINV : Flags := 16
def flSAT : Flags := 32

/-- Whether the rounded magnitude moves up from `q`, with remainder `r` of `2^d` (R224, R226). -/
def roundUp (mode : Nat) (rand : Nat) (neg : Bool) (q r d : Nat) : Bool :=
  match mode with
  | 0 => 2 * r > 2 ^ d || (2 * r == 2 ^ d && q % 2 == 1)
  | 1 => false
  | 2 => neg && r != 0
  | 3 => !neg && r != 0
  | 4 => 2 * r ≥ 2 ^ d && r != 0
  | _ => r * 2 ^ 16 / 2 ^ d + rand ≥ 2 ^ 16

/-- |m × 2^e| > |m' × 2^e'|. -/
def magGt (m : Nat) (e : Int) (m' : Nat) (e' : Int) : Bool :=
  if e' ≤ e then m * 2 ^ (e - e').toNat > m' else m > m' * 2 ^ (e' - e).toNat

/-- Round of R224 to R226 with the flags of R227: the pattern and the flags. `flush` is the output flush of R228 and R229. -/
def Fmt.round (f : Fmt) (mode rand : Nat) (flush : Bool) (x : FVal) : Nat × Flags :=
  let sgn := fun (neg : Bool) (p : Nat) => if neg then p + 2 ^ (f.eb + f.fb) else p
  match x with
  | .nan _ => (match f.nan with | some p => (p, 0) | none => (0, flINV))
  | .inf neg =>
    (match f.inf, f.nan with
     | some p, _ => (sgn neg p, 0)
     | none, some p => (p, flINV)
     | none, none => (sgn neg f.top, flINV))
  | .fin neg m e =>
    if m == 0 then (sgn neg 0, 0)
    else
      let emin : Int := 1 - (f.bias : Int)
      let l : Int := (Nat.log2 m : Int) + e
      let ue := (if l < emin then emin else l) - f.fb
      let (q, r, d) := if e ≥ ue then (m * 2 ^ (e - ue).toNat, 0, 0) else
        (m / 2 ^ (ue - e).toNat, m % 2 ^ (ue - e).toNat, (ue - e).toNat)
      let up := roundUp mode rand neg q r d
      let p := ((ue + f.fb - emin) * 2 ^ f.fb).toNat + (if up then q + 1 else q)
      match f.dec f.top with
      | .fin _ tm te =>
        if magGt m e tm te then
          match f.inf with
          | none => (sgn neg f.top, flOF ||| flNX ||| flSAT)
          | some pi =>
            let toInf := match mode with
              | 1 => false | 2 => neg | 3 => !neg | _ => p > f.top
            (sgn neg (if toInf then pi else f.top), flOF ||| flNX)
        else
          let sub := p != 0 && p < 2 ^ f.fb
          if flush && sub then (sgn neg 0, flUF ||| flNX)
          else (sgn neg p, (if r != 0 then flNX else 0) ||| (if r != 0 && sub then flUF else 0))
      | _ => (sgn neg p, 0)

/-- Round into type T under a mode, with the thread's NF, FZ and FZN. -/
def rndF (n : NumMode) (t : Ty) (mode rand : Nat) (x : FVal) : Nat × Flags := (fmtOf t n.nf).round mode rand (n.flush t) x

/-- Round to an integer (R224, R280): the integer, and whether it differs from the value. -/
def roundInt (mode rand : Nat) (neg : Bool) (m : Nat) (e : Int) : Int × Bool :=
  let (q, r, d) := if e ≥ 0 then (m * 2 ^ e.toNat, 0, 0) else (m / 2 ^ (-e).toNat, m % 2 ^ (-e).toNat, (-e).toNat)
  let q' := if roundUp mode rand neg q r d then q + 1 else q
  (if neg then -(q' : Int) else q', r != 0)

/-- An integer as a value. -/
def FVal.ofInt (x : Int) : FVal := .fin (x < 0) x.natAbs 0

def FVal.isNan : FVal → Bool
  | .nan _ => true
  | _ => false
def FVal.isSig : FVal → Bool
  | .nan s => s
  | _ => false
def FVal.isFin : FVal → Bool
  | .fin _ _ _ => true
  | _ => false
def FVal.isZero : FVal → Bool
  | .fin _ m _ => m == 0
  | _ => false
def FVal.neg : FVal → FVal
  | .nan s => .nan s
  | .inf n => .inf (!n)
  | .fin n m e => .fin (!n) m e
def FVal.abs : FVal → FVal
  | .nan s => .nan s
  | .inf _ => .inf false
  | .fin _ m e => .fin false m e

/-- The invalid flag of a signalling operand (R227). -/
def sigFl (l : List FVal) : Flags := if l.any FVal.isSig then flINV else 0

/-- The exact sum (R224: an exact zero sum of operands of opposite sign is +0, or −0 under RDN). -/
def fadd (rdn : Bool) : FVal → FVal → FVal × Flags
  | .nan _, _ => (.nan false, 0)
  | _, .nan _ => (.nan false, 0)
  | .inf a, .inf b => if a == b then (.inf a, 0) else (.nan false, flINV)
  | .inf a, _ => (.inf a, 0)
  | _, .inf b => (.inf b, 0)
  | .fin a m e, .fin b n f =>
    let g := if e ≤ f then e else f
    let x : Int := (m * 2 ^ (e - g).toNat : Nat)
    let y : Int := (n * 2 ^ (f - g).toNat : Nat)
    let z := (if a then -x else x) + (if b then -y else y)
    if z == 0 then (.fin (if a == b then a else rdn) 0 0, 0) else (.fin (z < 0) z.natAbs g, 0)

/-- The exact product. -/
def fmul : FVal → FVal → FVal × Flags
  | .nan _, _ => (.nan false, 0)
  | _, .nan _ => (.nan false, 0)
  | .inf a, .inf b => (.inf (a != b), 0)
  | .inf a, .fin b n _ => if n == 0 then (.nan false, flINV) else (.inf (a != b), 0)
  | .fin a m _, .inf b => if m == 0 then (.nan false, flINV) else (.inf (a != b), 0)
  | .fin a m e, .fin b n f => (.fin (a != b) (m * n) (e + f), 0)

/-- a × b + c, exact (R277). -/
def ffma (rdn : Bool) (a b c : FVal) : FVal × Flags :=
  let (p, f1) := fmul a b
  let (s, f2) := fadd rdn p c
  (s, f1 ||| f2)

/-- The quotient with a sticky bit below 80 bits (R277). -/
def fdiv : FVal → FVal → FVal × Flags
  | .nan _, _ => (.nan false, 0)
  | _, .nan _ => (.nan false, 0)
  | .inf _, .inf _ => (.nan false, flINV)
  | .inf a, .fin b _ _ => (.inf (a != b), 0)
  | .fin a _ _, .inf b => (.fin (a != b) 0 0, 0)
  | .fin a m e, .fin b n f =>
    if n == 0 then (if m == 0 then (.nan false, flINV) else (.inf (a != b), flDZ))
    else if m == 0 then (.fin (a != b) 0 0, 0)
    else
      let k := 100 + Nat.log2 n
      let q := m * 2 ^ k / n
      let r := m * 2 ^ k % n
      (.fin (a != b) (2 * q + (if r == 0 then 0 else 1)) (e - f - k - 1), 0)

/-- floor(√x), one bit a turn. -/
def isqrtLoop (x : Nat) : Nat → Nat → Nat
  | 0, r => r
  | k + 1, r => let c := r + 2 ^ k; isqrtLoop x k (if c * c ≤ x then c else r)

/-- The square root with a sticky bit below 80 bits (R277). -/
def fsqrt : FVal → FVal × Flags
  | .nan _ => (.nan false, 0)
  | .inf false => (.inf false, 0)
  | .inf true => (.nan false, flINV)
  | .fin neg m e =>
    if m == 0 then (.fin neg 0 0, 0)
    else if neg then (.nan false, flINV)
    else
      let (m, e) := if e % 2 == 0 then (m, e) else (2 * m, e - 1)
      let x := m * 2 ^ 200
      let r := isqrtLoop x (Nat.log2 x / 2 + 1) 0
      (.fin false (2 * r + (if r * r == x then 0 else 1)) (e / 2 - 101), 0)

/-- The order of two values; none when either is a NaN. −0 equals +0. -/
def fcmpv : FVal → FVal → Option Ordering
  | .nan _, _ => none
  | _, .nan _ => none
  | .inf a, .inf b => some (if a == b then .eq else if a then .lt else .gt)
  | .inf a, .fin _ _ _ => some (if a then .lt else .gt)
  | .fin _ _ _, .inf b => some (if b then .gt else .lt)
  | .fin a m e, .fin b n f =>
    let g := if e ≤ f then e else f
    let x : Int := (m * 2 ^ (e - g).toNat : Nat)
    let y : Int := (n * 2 ^ (f - g).toNat : Nat)
    some (compare (if a then -x else x) (if b then -y else y))

/-- Sign of a value. -/
def FVal.isNeg : FVal → Bool
  | .nan _ => false
  | .inf n => n
  | .fin n _ _ => n

/-- The total order of R236 on numbers: −0 below +0. -/
def fltOrd (a b : FVal) : Bool :=
  match fcmpv a b with
  | some .lt => true
  | some .eq => a.isNeg && !b.isNeg
  | _ => false

/-- The exact sum of a list (R232); +0 when it is empty. Invalid when infinities of both signs stand in it, whatever the order. -/
def fsum (rdn : Bool) : List FVal → FVal × Flags
  | [] => (.fin false 0 0, 0)
  | a :: l =>
    (l.foldl (fun s x => (fadd rdn s x).1) a,
     if (a :: l).any (· == .inf false) && (a :: l).any (· == .inf true) then flINV else 0)

/-- RNE_f32 (R7). -/
def rne32 (x : FVal) : Nat := ((fmtOf .f32 false).round 0 0 false x).1
/-- RNE_f36 (R7). -/
def rne36 (x : FVal) : Nat := ((fmtOf .f36 false).round 0 0 false x).1
/-- The value of an f32 pattern. -/
def f32v (x : Nat) : FVal := (fmtOf .f32 false).dec x
/-- The value of an f36 pattern. -/
def f36v (x : Nat) : FVal := (fmtOf .f36 false).dec x
/-- RNE_f32(a + b) on patterns. -/
def add32 (a b : Nat) : Nat := rne32 (fadd false (f32v a) (f32v b)).1
/-- RNE_f32(a × b) on patterns. -/
def mul32 (a b : Nat) : Nat := rne32 (fmul (f32v a) (f32v b)).1
/-- RNE_f32(a × b + c) on patterns. -/
def fma32 (a b c : Nat) : Nat := rne32 (ffma false (f32v a) (f32v b) (f32v c)).1
/-- RNE_f36(a + b) on patterns. -/
def add36 (a b : Nat) : Nat := rne36 (fadd false (f36v a) (f36v b)).1

/-- fmin and fmax of an atomic (R236): memory `m`, operand `x`. -/
def atomMinMax (isMax : Bool) (m x : Nat) : Nat :=
  let a := f32v m
  let b := f32v x
  if a.isNan && b.isNan then 0x7FC00000
  else if a.isNan then x
  else if b.isNan then m
  else if isMax then (if fltOrd a b then x else m) else (if fltOrd b a then x else m)

/-- The new value of an atomic (R167, R300): AOP, type, old value, operand. -/
def aopVal (aop : Nat) (t : Ty) (m x : Nat) : Nat :=
  let w := t.width
  match aop with
  | 0 => (m + x) % 2 ^ w
  | 1 => m &&& (x % 2 ^ w)
  | 2 => m ||| (x % 2 ^ w)
  | 3 => m ^^^ (x % 2 ^ w)
  | 4 => if valT t x < valT t m then x % 2 ^ w else m
  | 5 => if valT t m < valT t x then x % 2 ^ w else m
  | 6 => x % 2 ^ w
  | 7 => add32 m (x % 2 ^ 32)
  | 8 => atomMinMax false m (x % 2 ^ 32)
  | 9 => atomMinMax true m (x % 2 ^ 32)
  | _ =>
    let h := fun (a b : Nat) => ((fmtOf .bf16 false).round 0 0 false
      (fadd false ((fmtOf .bf16 false).dec a) ((fmtOf .bf16 false).dec b)).1).1
    h (m % 65536) (x % 65536) + 65536 * h (m / 65536 % 65536) (x / 65536 % 65536)

/-- Bytes an atomic reaches (R293). -/
def aopSize (aop : Nat) (t : Ty) : Nat := if aop == 10 then 4 else t.width / 8

/-- One Philox4x32-10 block (R340): key and counter to four words, as 128 bits with c0 lowest. -/
def philox (key : BitVec 64) (ctr : BitVec 128) : BitVec 128 :=
  let rec go : Nat → Nat → Nat → Nat → Nat → Nat → Nat → (Nat × Nat × Nat × Nat)
    | 0, c0, c1, c2, c3, _, _ => (c0, c1, c2, c3)
    | n + 1, c0, c1, c2, c3, k0, k1 =>
      let p := 0xD2511F53 * c0
      let r := 0xCD9E8D57 * c2
      go n ((r / 2 ^ 32) ^^^ c1 ^^^ k0) (r % 2 ^ 32) ((p / 2 ^ 32) ^^^ c3 ^^^ k1) (p % 2 ^ 32)
        ((k0 + 0x9E3779B9) % 2 ^ 32) ((k1 + 0xBB67AE85) % 2 ^ 32)
  let k := key.toNat
  let c := ctr.toNat
  let (a, b, d, e) := go 10 (c % 2 ^ 32) (c / 2 ^ 32 % 2 ^ 32) (c / 2 ^ 64 % 2 ^ 32) (c / 2 ^ 96) (k % 2 ^ 32) (k / 2 ^ 32)
  BitVec.ofNat 128 (a + 2 ^ 32 * b + 2 ^ 64 * d + 2 ^ 96 * e)

/-- fcvt of one element (R280): source pattern and type, destination type, mode, draw; the pattern and the flags. -/
def cvt (n : NumMode) (src dst : Ty) (mode rand : Nat) (x : Nat) : Nat × Flags :=
  if dst.isInt || dst == .i4 || dst == .n4 then
    if src.isInt || src == .i4 || src == .n4 then
      let v := valT src x
      let r := satT dst v
      (patT dst r, if r == v then 0 else flSAT)
    else
      match decF n src x with
      | .nan _ => (0, flINV)
      | .inf neg => (patT dst (if neg then minT dst else maxT dst), flINV ||| flSAT ||| flNX)
      | .fin neg m e =>
        let (y, nx) := roundInt mode rand neg m e
        let r := satT dst y
        if r == y then (patT dst r, if nx then flNX else 0) else (patT dst r, flINV ||| flSAT ||| flNX)
  else if src.isInt || src == .i4 || src == .n4 then rndF n dst mode rand (.ofInt (valT src x))
  else
    let v := decF n src x
    let (p, f) := rndF n dst mode rand v
    (p, f ||| sigFl [v])

/-- floor(log2 of a positive value) (R231). -/
def log2v : FVal → Int
  | .fin _ m e => (Nat.log2 m : Int) + e
  | _ => 0

end Sys2Proof.Machine
end

