-- ==== Sys2Proof/Config.lean ====
section
/-! DEFINITION. What the manual leaves to the implementation or to other standards, as constants with no body: no proof can
see their values. Each is named in the assumption log. -/
namespace Sys2Proof.Config

/-- Prirok's fused public key (R36). -/
opaque fusedKey : BitVec 512

/-- SK.seed of the hub die's SLH-DSA-SHAKE-256f identity key (R41). -/
opaque idSeed : BitVec 256

/-- SK.prf of the identity key (R41). -/
opaque idPrf : BitVec 256

/-- PK.seed of the identity key (R41). -/
opaque idPkSeed : BitVec 256

/-- The randomness that the signer of a report adds (R42), one for each count of State.freeCount. -/
opaque signRandom : Nat → BitVec 256

/-- The 64 KiB of the identity certificate region of flash, written at manufacture (R34, R41). -/
opaque certByte : Nat → Byte

/-- The 1 MiB of the wear-sample region of flash (R34, R49) for the samples that the complex keeps; its form is not given. -/
opaque wearByte : Table (List Nat) → Table (List Nat) → Nat → Byte

/-- The byte that decryption under a key other than the one that encrypted it gives (R153): the encrypting key, the slot's key,
the byte's address and the ciphertext byte. -/
opaque wrongKeyByte : BitVec 512 → BitVec 512 → Nat → Byte → Byte

/-- The pattern the special-function unit returns where R339 publishes a bound only: function number and f32 input. -/
opaque sfuPattern : Nat → BitVec 32 → BitVec 32

/-- The module serial number of an attestation report (R42). -/
opaque serial : BitVec 128

/-- The stepping field of the Device capability (R419). -/
opaque stepping : BitVec 8

/-- The device id that a boot configuration region names (R34, R37); its form is not given. -/
opaque bootDevId : List Byte → BitVec 21

/-- The route entries of a boot configuration region (R34, R37). -/
opaque bootRoutes : List Byte → List (Nat × BitVec 64)

/-- The Broene ports that a boot configuration region enables, bit p for port p (R34, R37). -/
opaque bootPorts : List Byte → BitVec 16

/-- A 64-bit value that the manual leaves open, one for each count of State.freeCount. -/
opaque freeValue : Nat → BitVec 64

/-- How far the clock copy of a die stands ahead of the least copy (R124). -/
opaque clockSkew : Nat → Fin 3

end Sys2Proof.Config
end

