-- ==== Sys2Proof/Decode.lean ====
section
/-! DEFINITION. Instruction words to instructions and back (R237 to R256). Decoding is total: it answers an instruction that
satisfies its field rules, or says by name why the words are none. -/
namespace Sys2Proof

/-- Why words are no instruction. `short`: fewer bytes than LEN names. `pad`: the word is PAD (R238), which is skipped and is
no instruction. `badPad`: LEN 0b11 on any other word (R237). `reservedOpcode`: OPC 0x00 or reserved (R255). `badLength`: a LEN
the opcode map does not allow (R256). `badField`: a field rule fails (R240). -/
inductive DecodeError where
  | short | pad | badPad | reservedOpcode | badLength | badField
  deriving DecidableEq, Repr

/-- LEN (R241). -/
def lenField (w : BitVec 128) : BitVec 2 := w.extractLsb' 0 2
/-- OPC (R241). -/
def opcField (w : BitVec 128) : BitVec 8 := w.extractLsb' 2 8
/-- PG and PGN (R241). -/
def guardField (w : BitVec 128) : Guard := { pg := w.extractLsb' 10 3, pgn := w[13] }
/-- FN of F64-R (R245). -/
def fnR (w : BitVec 128) : BitVec 8 := w.extractLsb' 40 8
/-- FN of F128-J (R250). -/
def fnJ (w : BitVec 128) : BitVec 8 := w.extractLsb' 24 8

/-- Request type codes (R251); 5 to 7 name none. -/
def rqOf (c : BitVec 3) : Option Rq :=
  match c.toNat with
  | 0 => some .own | 1 => some .wt | 2 => some .si | 3 => some .nc | 4 => some .loc | _ => none
/-- The code of a request type (R251). -/
def rqCode : Rq → BitVec 3
  | .own => 0 | .wt => 1 | .si => 2 | .nc => 3 | .loc => 4
/-- Scope codes (R251); 6 and 7 name none. -/
def scopeOf (c : BitVec 3) : Option Scope :=
  match c.toNat with
  | 0 => some .thread | 1 => some .core | 2 => some .cluster | 3 => some .die | 4 => some .device | 5 => some .system
  | _ => none
/-- The code of a scope (R251). -/
def scopeCode : Scope → BitVec 3
  | .thread => 0 | .core => 1 | .cluster => 2 | .die => 3 | .device => 4 | .system => 5
/-- Order codes (R251). -/
def ordOf (c : BitVec 2) : MemOrd :=
  match c.toNat with
  | 0 => .relaxed | 1 => .acquire | 2 => .release | _ => .acqRel
/-- The code of an order (R251). -/
def ordCode : MemOrd → BitVec 2
  | .relaxed => 0 | .acquire => 1 | .release => 2 | .acqRel => 3

/-- IMM32B when LEN is 0b01 (R249). -/
def immB (w : BitVec 128) : Option (BitVec 32) := if lenField w == 1 then some (w.extractLsb' 64 32) else none

/-- Reads F64-R fields (R245): none when [63:56] is not zero or TY is reserved. -/
def getR (w : BitVec 128) : Option OpR :=
  if w.extractLsb' 56 8 == 0#8 then
    match Ty.ofCode (w.extractLsb' 34 6).toNat with
    | some ty => some { rd := w.extractLsb' 14 5, ra := w.extractLsb' 19 5, rb := w.extractLsb' 24 5, rc := w.extractLsb' 29 5,
                        ty := ty, fn := fnR w, md := w.extractLsb' 48 8, x := immB w }
    | none => none
  else none

/-- Reads F64-I fields (R246). -/
def getI (w : BitVec 128) : OpI :=
  { rd := w.extractLsb' 14 5, ra := w.extractLsb' 19 5, fn := w.extractLsb' 24 8, imm := w.extractLsb' 32 32 }

/-- Reads F64-M fields (R247): none when [39:37] is not zero or TY, RQ or SCOPE is reserved. -/
def getM (w : BitVec 128) : Option OpM :=
  if w.extractLsb' 37 3 == 0#3 then
    match Ty.ofCode (w.extractLsb' 40 6).toNat, rqOf (w.extractLsb' 29 3), scopeOf (w.extractLsb' 32 3) with
    | some ty, some rq, some sc =>
      some { rd := w.extractLsb' 14 5, ra := w.extractLsb' 19 5, rb := w.extractLsb' 24 5, rq := rq, scope := sc,
             ord := ordOf (w.extractLsb' 35 2), ty := ty, span := w.extractLsb' 46 5, off := w.extractLsb' 51 13, x := immB w }
    | _, _, _ => none
  else none

/-- Reads F64-B fields (R248). -/
def getB (w : BitVec 128) : OpB :=
  { ra := w.extractLsb' 14 5, rb := w.extractLsb' 19 5, cond := w.extractLsb' 24 4, hint := w[28], off := w.extractLsb' 29 35 }

/-- Reads F128-J fields (R250). -/
def getJ (w : BitVec 128) : OpJ :=
  { rd := w.extractLsb' 14 5, ra := w.extractLsb' 19 5, fn := fnJ w, imm := w.extractLsb' 32 32, aux0 := w.extractLsb' 64 32,
    aux1 := w.extractLsb' 96 32 }

/-- An instruction that passes its field rules, or the refusal. -/
def admit1 (i : Instr) : Except DecodeError Instr := if i.wf then .ok i else .error .badField

/-- An F64-R instruction; `long` says whether LEN 0b01 is allowed too (R256). -/
def mkR (long : Bool) (w : BitVec 128) (c : Guard → OpR → Instr) : Except DecodeError Instr :=
  if lenField w == 0 || (long && lenField w == 1) then
    match getR w with
    | some o => admit1 (c (guardField w) o)
    | none => .error .badField
  else .error .badLength

/-- An F64-M instruction; `long` says whether LEN 0b01 is allowed too (R256). -/
def mkM (long : Bool) (w : BitVec 128) (c : Guard → OpM → Instr) : Except DecodeError Instr :=
  if lenField w == 0 || (long && lenField w == 1) then
    match getM w with
    | some o => admit1 (c (guardField w) o)
    | none => .error .badField
  else .error .badLength

/-- An F64-I instruction. -/
def mkI (w : BitVec 128) (c : Guard → OpI → Instr) : Except DecodeError Instr :=
  if lenField w == 0 then admit1 (c (guardField w) (getI w)) else .error .badLength

/-- An F64-B instruction. -/
def mkB (w : BitVec 128) (c : Guard → OpB → Instr) : Except DecodeError Instr :=
  if lenField w == 0 then admit1 (c (guardField w) (getB w)) else .error .badLength

/-- An F128-J instruction. -/
def mkJ (w : BitVec 128) (c : Guard → OpJ → Instr) : Except DecodeError Instr :=
  if lenField w == 2 then admit1 (c (guardField w) (getJ w)) else .error .badLength


/-- The opcode map (R255, R256): opcode to constructor, with the lengths each opcode allows. -/
def decodeOpc (w : BitVec 128) : Except DecodeError Instr :=
  match (opcField w).toNat with
  | 0x01 => mkR false w .nop
  | 0x02 => mkR false w .add
  | 0x03 => mkI w .addi
  | 0x04 => mkR false w .sub
  | 0x05 => mkR false w .mul
  | 0x06 => mkR false w .mulh
  | 0x07 => mkR false w .div
  | 0x08 => mkR false w .rem
  | 0x09 => mkR false w .and
  | 0x0A => mkI w .andi
  | 0x0B => mkR false w .or
  | 0x0C => mkI w .ori
  | 0x0D => mkR false w .xor
  | 0x0E => mkI w .xori
  | 0x0F => mkR false w .shl
  | 0x10 => mkR false w .shr
  | 0x11 => mkR false w .sra
  | 0x12 => mkI w .shi
  | 0x13 => mkR false w .rot
  | 0x14 => mkR false w .clz
  | 0x15 => mkR false w .ctz
  | 0x16 => mkR false w .popc
  | 0x17 => mkR false w .min
  | 0x18 => mkR false w .max
  | 0x19 => mkR false w .cmp
  | 0x1A => mkI w .cmpi
  | 0x1B => mkR false w .sel
  | 0x1C => mkI w .movi
  | 0x1D => mkI w .movk
  | 0x1E => mkR false w .mov
  | 0x1F => mkR false w .ext
  | 0x20 => mkR false w .ins
  | 0x21 => mkM true w .lea
  | 0x22 => mkR false w .madd
  | 0x23 => mkR false w .digit
  | 0x24 => mkR false w .plog
  | 0x25 => mkR false w .pmov
  | 0x26 => mkR false w .fadd
  | 0x27 => mkR false w .fmul
  | 0x28 => mkR false w .ffma
  | 0x29 => mkR false w .fminmax
  | 0x2A => mkR false w .fcmp
  | 0x2B => mkR false w .fcvt
  | 0x2C => mkR false w .fdiv
  | 0x2D => mkR false w .fsqrt
  | 0x30 => mkB w .br
  | 0x31 => mkB w .bri
  | 0x32 => mkB w .brp
  | 0x33 => mkB w .jmp
  | 0x34 => mkB w .call
  | 0x35 => mkR false w .jr
  | 0x36 => mkR false w .ret
  | 0x37 => mkB w .loop
  | 0x38 => mkI w .lnest
  | 0x39 => mkB w .lnext
  | 0x3A => mkR false w .regroup
  | 0x3B => mkR false w .yield
  | 0x3C => mkR false w .exit
  | 0x3D => mkI w .trap
  | 0x3E => mkI w .brk
  | 0x40 => mkM true w .ld
  | 0x41 => mkM true w .st
  | 0x42 => mkM true w .vld
  | 0x43 => mkM true w .vst
  | 0x44 => mkM true w .vldx
  | 0x45 => mkM true w .vstx
  | 0x46 => mkM true w .lsld
  | 0x47 => mkM true w .lsst
  | 0x48 => mkJ w .get
  | 0x49 => mkJ w .put
  | 0x4A => mkI w .ccwait
  | 0x4B => (match (fnR w).toNat with
    | 0 => mkR false w .ccopRd
    | 1 => mkR false w .ccopSet
    | 2 => mkR false w .ccopAdd
    | 3 => mkR false w .ccopClr
    | _ => .error .badField)
  | 0x4C => mkR false w .tiledef
  | 0x4D => mkR false w .tilest
  | 0x4E => mkM true w .pref
  | 0x4F => (match (fnR w).toNat with
    | 0 => mkR false w .flushrFlush
    | 1 => mkR false w .flushrInv
    | _ => .error .badField)
  | 0x50 => mkM true w .amo
  | 0x51 => mkM true w .amon
  | 0x52 => mkM true w .cas
  | 0x53 => mkM false w .fence
  | 0x54 => mkI w .phase
  | 0x55 => mkR false w .wfence
  | 0x56 => mkR false w .nmfence
  | 0x60 => (match (fnR w).toNat with
    | 0 => mkR false w .sendOpen
    | 1 => mkR false w .sendMore
    | 2 => mkR false w .sendClose
    | 3 => mkR false w .sendOne
    | _ => .error .badField)
  | 0x61 => mkR false w .recv
  | 0x62 => mkR false w .rpoll
  | 0x63 => mkM false w .barcfg
  | 0x64 => mkM false w .bararr
  | 0x65 => mkM false w .barwait
  | 0x66 => mkM false w .barsync
  | 0x67 => mkR false w .wirebar
  | 0x68 => mkR false w .waitclk
  | 0x69 => mkR false w .rdclk
  | 0x70 => mkR true w .vadd
  | 0x71 => mkR true w .vsub
  | 0x72 => mkR true w .vmul
  | 0x73 => mkR true w .vfma
  | 0x74 => mkR true w .vmin
  | 0x75 => mkR true w .vmax
  | 0x76 => mkR true w .vun
  | 0x77 => mkR true w .vand
  | 0x78 => mkR true w .vor
  | 0x79 => mkR true w .vxor
  | 0x7A => mkR true w .vsh
  | 0x7B => mkR true w .vcmp
  | 0x7C => mkR true w .vsel
  | 0x7D => mkR true w .vbcast
  | 0x7E => mkR true w .vext
  | 0x7F => mkR true w .vcvt
  | 0x80 => mkR true w .vdot
  | 0x81 => mkR true w .vred
  | 0x82 => mkR true w .vscan
  | 0x83 => mkR true w .vperm
  | 0x84 => mkR true w .vshuf
  | 0x85 => mkR true w .vsort
  | 0x86 => mkR true w .vquant
  | 0x87 => mkR true w .vdeq
  | 0x88 => mkJ w .xop
  | 0x89 => mkJ w .xred
  | 0x8A => mkJ w .xscan
  | 0x90 => mkR false w .sfu
  | 0x91 => mkR false w .rng
  | 0x92 => mkR false w .sample
  | 0x93 => mkM false w .maskld
  | 0x94 => mkR false w .pdstep
  | 0xA0 => mkI w .mxclaim
  | 0xA1 => mkI w .mxrel
  | 0xA2 => mkJ w .mxjob
  | 0xA3 => mkJ w .mxcurve
  | 0xA4 => mkJ w .mxdrain
  | 0xA5 => mkI w .mxzero
  | 0xA6 => mkJ w .cpjob
  | 0xB0 => mkJ w .chld
  | 0xB1 => (match (fnJ w).toNat with
    | 0 => mkJ w .chstAcc
    | 1 => mkJ w .chstApply
    | _ => .error .badField)
  | 0xB2 => mkJ w .gpool
  | 0xB3 => mkR false w .tblswap
  | 0xB4 => mkJ w .optjob
  | 0xC0 => mkR false w .hwait
  | 0xC1 => mkR false w .htest
  | 0xC2 => mkR false w .hcancel
  | 0xC3 => (match (fnR w).toNat with
    | 0 => mkR false w .hmovTok
    | 1 => mkR false w .hmovH
    | 2 => mkR false w .hmovClr
    | _ => .error .badField)
  | 0xC4 => mkR false w .hstat
  | 0xC5 => mkJ w .spawn
  | 0xC6 => mkR false w .prio
  | 0xE0 => mkI w .rdsr
  | 0xE1 => (match (w.extractLsb' 32 32).toNat with
    | 0x000 => mkI w .statusWrite
    | 0x010 | 0x011 => mkI w .rxRingRegWrite
    | 0x012 => mkI w .rxheadWrite
    | 0x040 => mkI w .loftsplitWrite
    | 0x043 | 0x044 => mkI w .wireRegWrite
    | 0x046 => mkI w .wallowWrite
    | 0x060 => mkI w .vicgroupWrite
    | 0x084 => mkI w .fqcfgWrite
    | _ => mkI w .wrsr)
  | 0xE2 => mkR false w .eret
  | 0xE3 => mkI w .scall
  | 0xE4 => (match (fnR w).toNat with
    | 0 => mkR false w .tlbinvCtx
    | 1 => mkR false w .tlbinvPage
    | 2 => mkR false w .tlbinvAll
    | _ => .error .badField)
  | 0xE5 => (match (fnJ w).toNat with
    | 0 => mkJ w .keyopLoad
    | 1 => mkJ w .keyopKill
    | _ => .error .badField)
  | 0xE6 => (match (fnJ w).toNat with
    | 0 => mkJ w .tdescRd
    | 1 => mkJ w .tdescWr
    | 2 => mkJ w .tdescWr2
    | _ => .error .badField)
  | 0xE7 => mkR false w .scaleset
  | 0xE8 => (match (fnJ w).toNat with
    | 0 => mkJ w .mscpinPin
    | 1 => mkJ w .mscpinRel
    | 2 => mkJ w .mscpinRd
    | _ => .error .badField)
  | 0xE9 => mkI w .capr
  | _ => .error .reservedOpcode

/-- The instruction in 128 bits read from its address; the bits past its length are ignored. -/
def decodeBits (w : BitVec 128) : Except DecodeError Instr :=
  if lenField w == 3 then (if w.extractLsb' 0 32 == 3#32 then .error .pad else .error .badPad) else decodeOpc w

/-- Bytes that a first word's LEN names (R237). -/
def lenBytes (w0 : BitVec 32) : Nat :=
  match (w0.extractLsb' 0 2).toNat with
  | 0 => 8 | 1 => 12 | 2 => 16 | _ => 4

/-- Little-endian value of a byte list (R1). -/
def leNat : List Byte → Nat
  | [] => 0
  | b :: bs => b.toNat + 256 * leNat bs

/-- The `n` bytes of a value, little-endian (R1). -/
def leBytes : Nat → Nat → List Byte
  | 0, _ => []
  | n + 1, v => BitVec.ofNat 8 v :: leBytes n (v / 256)

/-- The instruction at the head of a byte list, and the bytes after it (R237). -/
def decode (bs : List Byte) : Except DecodeError (Instr × List Byte) :=
  if bs.length < 4 then .error .short
  else
    let n := lenBytes (BitVec.ofNat 32 (leNat (bs.take 4)))
    if bs.length < n then .error .short
    else
      match decodeBits (BitVec.ofNat 128 (leNat (bs.take n))) with
      | .ok i => .ok (i, bs.drop n)
      | .error e => .error e

/-- The common fields (R241). -/
def encCommon (len : BitVec 2) (opc : Nat) (g : Guard) : BitVec 14 :=
  BitVec.ofBool g.pgn ++ g.pg ++ BitVec.ofNat 8 opc ++ len

/-- LEN of an instruction that may carry IMM32B (R249). -/
def lenOfX (x : Option (BitVec 32)) : BitVec 2 := if x.isSome then 1 else 0

/-- Words of F64-R and F96-X over it (R245, R249). -/
def encR (opc : Nat) (g : Guard) (o : OpR) : BitVec 128 :=
  0#32 ++ o.x.getD 0 ++ 0#8 ++ o.md ++ o.fn ++ BitVec.ofNat 6 o.ty.code ++ o.rc ++ o.rb ++ o.ra ++ o.rd
    ++ encCommon (lenOfX o.x) opc g

/-- Words of F64-I (R246). -/
def encI (opc : Nat) (g : Guard) (o : OpI) : BitVec 128 :=
  0#64 ++ o.imm ++ o.fn ++ o.ra ++ o.rd ++ encCommon 0 opc g

/-- Words of F64-M and F96-X over it (R247, R249). -/
def encM (opc : Nat) (g : Guard) (o : OpM) : BitVec 128 :=
  0#32 ++ o.x.getD 0 ++ o.off ++ o.span ++ BitVec.ofNat 6 o.ty.code ++ 0#3 ++ ordCode o.ord ++ scopeCode o.scope ++ rqCode o.rq
    ++ o.rb ++ o.ra ++ o.rd ++ encCommon (lenOfX o.x) opc g

/-- Words of F64-B (R248). -/
def encB (opc : Nat) (g : Guard) (o : OpB) : BitVec 128 :=
  0#64 ++ o.off ++ BitVec.ofBool o.hint ++ o.cond ++ o.rb ++ o.ra ++ encCommon 0 opc g

/-- Words of F128-J (R250). -/
def encJ (opc : Nat) (g : Guard) (o : OpJ) : BitVec 128 :=
  o.aux1 ++ o.aux0 ++ o.imm ++ o.fn ++ o.ra ++ o.rd ++ encCommon 2 opc g


/-- The words of a thread instruction; a step of another component has none. -/
def encode : Instr → Option (BitVec 128)
  | .nop g o => some (encR 0x01 g o)
  | .add g o => some (encR 0x02 g o)
  | .addi g o => some (encI 0x03 g o)
  | .sub g o => some (encR 0x04 g o)
  | .mul g o => some (encR 0x05 g o)
  | .mulh g o => some (encR 0x06 g o)
  | .div g o => some (encR 0x07 g o)
  | .rem g o => some (encR 0x08 g o)
  | .and g o => some (encR 0x09 g o)
  | .andi g o => some (encI 0x0A g o)
  | .or g o => some (encR 0x0B g o)
  | .ori g o => some (encI 0x0C g o)
  | .xor g o => some (encR 0x0D g o)
  | .xori g o => some (encI 0x0E g o)
  | .shl g o => some (encR 0x0F g o)
  | .shr g o => some (encR 0x10 g o)
  | .sra g o => some (encR 0x11 g o)
  | .shi g o => some (encI 0x12 g o)
  | .rot g o => some (encR 0x13 g o)
  | .clz g o => some (encR 0x14 g o)
  | .ctz g o => some (encR 0x15 g o)
  | .popc g o => some (encR 0x16 g o)
  | .min g o => some (encR 0x17 g o)
  | .max g o => some (encR 0x18 g o)
  | .cmp g o => some (encR 0x19 g o)
  | .cmpi g o => some (encI 0x1A g o)
  | .sel g o => some (encR 0x1B g o)
  | .movi g o => some (encI 0x1C g o)
  | .movk g o => some (encI 0x1D g o)
  | .mov g o => some (encR 0x1E g o)
  | .ext g o => some (encR 0x1F g o)
  | .ins g o => some (encR 0x20 g o)
  | .lea g o => some (encM 0x21 g o)
  | .madd g o => some (encR 0x22 g o)
  | .digit g o => some (encR 0x23 g o)
  | .plog g o => some (encR 0x24 g o)
  | .pmov g o => some (encR 0x25 g o)
  | .fadd g o => some (encR 0x26 g o)
  | .fmul g o => some (encR 0x27 g o)
  | .ffma g o => some (encR 0x28 g o)
  | .fminmax g o => some (encR 0x29 g o)
  | .fcmp g o => some (encR 0x2A g o)
  | .fcvt g o => some (encR 0x2B g o)
  | .fdiv g o => some (encR 0x2C g o)
  | .fsqrt g o => some (encR 0x2D g o)
  | .br g o => some (encB 0x30 g o)
  | .bri g o => some (encB 0x31 g o)
  | .brp g o => some (encB 0x32 g o)
  | .jmp g o => some (encB 0x33 g o)
  | .call g o => some (encB 0x34 g o)
  | .jr g o => some (encR 0x35 g o)
  | .ret g o => some (encR 0x36 g o)
  | .loop g o => some (encB 0x37 g o)
  | .lnest g o => some (encI 0x38 g o)
  | .lnext g o => some (encB 0x39 g o)
  | .regroup g o => some (encR 0x3A g o)
  | .yield g o => some (encR 0x3B g o)
  | .exit g o => some (encR 0x3C g o)
  | .trap g o => some (encI 0x3D g o)
  | .brk g o => some (encI 0x3E g o)
  | .ld g o => some (encM 0x40 g o)
  | .st g o => some (encM 0x41 g o)
  | .vld g o => some (encM 0x42 g o)
  | .vst g o => some (encM 0x43 g o)
  | .vldx g o => some (encM 0x44 g o)
  | .vstx g o => some (encM 0x45 g o)
  | .lsld g o => some (encM 0x46 g o)
  | .lsst g o => some (encM 0x47 g o)
  | .get g o => some (encJ 0x48 g o)
  | .put g o => some (encJ 0x49 g o)
  | .ccwait g o => some (encI 0x4A g o)
  | .ccopRd g o => some (encR 0x4B g o)
  | .ccopSet g o => some (encR 0x4B g o)
  | .ccopAdd g o => some (encR 0x4B g o)
  | .ccopClr g o => some (encR 0x4B g o)
  | .tiledef g o => some (encR 0x4C g o)
  | .tilest g o => some (encR 0x4D g o)
  | .pref g o => some (encM 0x4E g o)
  | .flushrFlush g o => some (encR 0x4F g o)
  | .flushrInv g o => some (encR 0x4F g o)
  | .amo g o => some (encM 0x50 g o)
  | .amon g o => some (encM 0x51 g o)
  | .cas g o => some (encM 0x52 g o)
  | .fence g o => some (encM 0x53 g o)
  | .phase g o => some (encI 0x54 g o)
  | .wfence g o => some (encR 0x55 g o)
  | .nmfence g o => some (encR 0x56 g o)
  | .sendOpen g o => some (encR 0x60 g o)
  | .sendMore g o => some (encR 0x60 g o)
  | .sendClose g o => some (encR 0x60 g o)
  | .sendOne g o => some (encR 0x60 g o)
  | .recv g o => some (encR 0x61 g o)
  | .rpoll g o => some (encR 0x62 g o)
  | .barcfg g o => some (encM 0x63 g o)
  | .bararr g o => some (encM 0x64 g o)
  | .barwait g o => some (encM 0x65 g o)
  | .barsync g o => some (encM 0x66 g o)
  | .wirebar g o => some (encR 0x67 g o)
  | .waitclk g o => some (encR 0x68 g o)
  | .rdclk g o => some (encR 0x69 g o)
  | .vadd g o => some (encR 0x70 g o)
  | .vsub g o => some (encR 0x71 g o)
  | .vmul g o => some (encR 0x72 g o)
  | .vfma g o => some (encR 0x73 g o)
  | .vmin g o => some (encR 0x74 g o)
  | .vmax g o => some (encR 0x75 g o)
  | .vun g o => some (encR 0x76 g o)
  | .vand g o => some (encR 0x77 g o)
  | .vor g o => some (encR 0x78 g o)
  | .vxor g o => some (encR 0x79 g o)
  | .vsh g o => some (encR 0x7A g o)
  | .vcmp g o => some (encR 0x7B g o)
  | .vsel g o => some (encR 0x7C g o)
  | .vbcast g o => some (encR 0x7D g o)
  | .vext g o => some (encR 0x7E g o)
  | .vcvt g o => some (encR 0x7F g o)
  | .vdot g o => some (encR 0x80 g o)
  | .vred g o => some (encR 0x81 g o)
  | .vscan g o => some (encR 0x82 g o)
  | .vperm g o => some (encR 0x83 g o)
  | .vshuf g o => some (encR 0x84 g o)
  | .vsort g o => some (encR 0x85 g o)
  | .vquant g o => some (encR 0x86 g o)
  | .vdeq g o => some (encR 0x87 g o)
  | .xop g o => some (encJ 0x88 g o)
  | .xred g o => some (encJ 0x89 g o)
  | .xscan g o => some (encJ 0x8A g o)
  | .sfu g o => some (encR 0x90 g o)
  | .rng g o => some (encR 0x91 g o)
  | .sample g o => some (encR 0x92 g o)
  | .maskld g o => some (encM 0x93 g o)
  | .pdstep g o => some (encR 0x94 g o)
  | .mxclaim g o => some (encI 0xA0 g o)
  | .mxrel g o => some (encI 0xA1 g o)
  | .mxjob g o => some (encJ 0xA2 g o)
  | .mxcurve g o => some (encJ 0xA3 g o)
  | .mxdrain g o => some (encJ 0xA4 g o)
  | .mxzero g o => some (encI 0xA5 g o)
  | .cpjob g o => some (encJ 0xA6 g o)
  | .chld g o => some (encJ 0xB0 g o)
  | .chstAcc g o => some (encJ 0xB1 g o)
  | .chstApply g o => some (encJ 0xB1 g o)
  | .gpool g o => some (encJ 0xB2 g o)
  | .tblswap g o => some (encR 0xB3 g o)
  | .optjob g o => some (encJ 0xB4 g o)
  | .hwait g o => some (encR 0xC0 g o)
  | .htest g o => some (encR 0xC1 g o)
  | .hcancel g o => some (encR 0xC2 g o)
  | .hmovTok g o => some (encR 0xC3 g o)
  | .hmovH g o => some (encR 0xC3 g o)
  | .hmovClr g o => some (encR 0xC3 g o)
  | .hstat g o => some (encR 0xC4 g o)
  | .spawn g o => some (encJ 0xC5 g o)
  | .prio g o => some (encR 0xC6 g o)
  | .rdsr g o => some (encI 0xE0 g o)
  | .wrsr g o => some (encI 0xE1 g o)
  | .statusWrite g o => some (encI 0xE1 g o)
  | .rxRingRegWrite g o => some (encI 0xE1 g o)
  | .rxheadWrite g o => some (encI 0xE1 g o)
  | .loftsplitWrite g o => some (encI 0xE1 g o)
  | .wireRegWrite g o => some (encI 0xE1 g o)
  | .wallowWrite g o => some (encI 0xE1 g o)
  | .vicgroupWrite g o => some (encI 0xE1 g o)
  | .fqcfgWrite g o => some (encI 0xE1 g o)
  | .eret g o => some (encR 0xE2 g o)
  | .scall g o => some (encI 0xE3 g o)
  | .tlbinvCtx g o => some (encR 0xE4 g o)
  | .tlbinvPage g o => some (encR 0xE4 g o)
  | .tlbinvAll g o => some (encR 0xE4 g o)
  | .keyopLoad g o => some (encJ 0xE5 g o)
  | .keyopKill g o => some (encJ 0xE5 g o)
  | .tdescRd g o => some (encJ 0xE6 g o)
  | .tdescWr g o => some (encJ 0xE6 g o)
  | .tdescWr2 g o => some (encJ 0xE6 g o)
  | .scaleset g o => some (encR 0xE7 g o)
  | .mscpinPin g o => some (encJ 0xE8 g o)
  | .mscpinRel g o => some (encJ 0xE8 g o)
  | .mscpinRd g o => some (encJ 0xE8 g o)
  | .capr g o => some (encI 0xE9 g o)
  | _ => none

/-- The first word of an instruction, which ILLEGAL reports (R207, R240). -/
def firstWord (i : Instr) : BitVec 32 :=
  match i with
  | .illegalInstruction w => w
  | i => ((encode i).getD 0).extractLsb' 0 32

/-- An instruction's length in bytes (R237). -/
def Instr.bytes (i : Instr) : Nat :=
  match i with
  | .illegalInstruction _ => 4
  | i => lenBytes (firstWord i)

/-- OPC of an instruction (R241). -/
def Instr.opc (i : Instr) : BitVec 8 := (firstWord i).extractLsb' 2 8

/-- What the decoder reads from an instruction whose bits are `w`, bit 0 the least significant of the first word; the bits
above `nbits` are zero. -/
def decodeTableWord (nbits w : Nat) : Option Instr :=
  match decode (leBytes 16 (w % 2 ^ nbits)) with
  | .ok (i, _) => some i
  | .error _ => none

end Sys2Proof
end

