-- ==== Sys2Proof/Machine/State.lean ====
section
/-! DEFINITION. The state of the module as plain data: everything the manual gives the machine, under the names of the manual.
Numbers: core q = die × 256 + cluster × 8 + c (R96); thread th = q × 4 + slot; cluster cl = die × 32 + k; node = ctx × 2^40 + k
(R58). A table entry that is not listed holds the default value of its type, which is its value at reset. -/
namespace Sys2Proof.Machine

/-- Why the machine stops. `poweredOff`: raised by nothing, since no step of the manual stops the machine; a module whose dies a trip
temperature has switched off goes on with its other parts (R16). -/
inductive Fault where
  | poweredOff
  deriving DecidableEq, Repr

/-- Why the model has no meaning. `notModelled`: raised by exec for an instruction that has no meaning yet; safe, since no
claim about a next state follows. -/
inductive Refusal where
  | notModelled (mnemonic : String)
  deriving DecidableEq, Repr

/-- Where the next instruction stands: in sequence, or in the delay slot of an untaken or a taken branch (R208). -/
inductive SlotPos where
  | plain | untaken | taken (tgt : Word)
  deriving DecidableEq, Repr

/-- The units of R390: 0 MXE, 1 copy unit, 2 chain unit, 3 range walker, 4 key operation. -/
structure JobRef where
  ctx  : Nat := 0
  unit : Nat := 0
  cl   : Nat := 0
  core : Nat := 0
  seq  : Nat := 0
  deriving DecidableEq, Repr

/-- STATE 1 done, 2 faulted, 3 cancelled, with CAUSE and INFO (R389); `node` tells the end of a spawned node (R396). -/
structure Settled where
  state : Nat := 1
  cause : Nat := 0
  info  : Nat := 0
  node  : Bool := false
  deriving DecidableEq, Repr

/-- A future handle register (R388). -/
inductive Handle where
  | empty | job (j : JobRef) | node (id : Nat) | settled (s : Settled)
  deriving DecidableEq, Repr

/-- What an atomic does to its word (R167, R302, R303): an operation of R300 with its type and operand, or a compare and swap of `n`
bytes. -/
inductive Rmw where
  | amo (aop : Nat) (ty : Ty) (x : Nat)
  | cas (n e x : Nat)
  deriving DecidableEq, Repr

/-- Where the old value of an atomic goes: to a general register, or a pair of them, extended as a type says; to g0 it is discarded. -/
structure RetReg where
  rd   : Nat := 0
  pair : Bool := false
  ty   : Option Ty := none
  deriving DecidableEq, Repr

/-- An entry of a store buffer (R180): a write, the 32 masked bytes of one word at a local home or at a physical address, or an atomic `op`
of `size` bytes at byte `at_` of the word; its request type, order and scope, what the translation found, and the words `lo` to `hi` of its
request in the frame, with the Gleaner's span. `fence` is a release without a write (R192), `nm` nmfence's. `seq` is its place among the
thread's accesses. -/
structure SbEntry where
  seq     : Nat := 0
  fence   : Bool := false
  nm      : Bool := false
  ord     : MemOrd := .relaxed
  scope   : Scope := .thread
  loc     : Bool := false
  pa      : Nat := 0
  bytes   : List (Option Byte) := []
  op      : Option Rmw := none
  at_     : Nat := 0
  size    : Nat := 0
  ret     : Option RetReg := none
  rq      : Rq := .own
  key     : Nat := 0
  cls     : Nat := 0
  ms      : Bool := false
  fnc     : Bool := false
  span    : Nat := 0
  lo      : Nat := 0
  hi      : Nat := 0
  gl      : Option Nat := none
  ctx     : Nat := 0
  deriving DecidableEq, Repr

/-- A part of a read within one word: its place, and the byte of the destination where it goes. -/
structure RdPart where
  loc  : Bool
  pa   : Nat
  size : Nat
  dst   : Nat
  deriving DecidableEq, Repr

/-- An issued read that is not performed yet (R180): one word's part of an access of thread `th`; its
destination is a general register, or the bytes of a vector register that its parts name. `seq` is its place among the thread's
accesses. -/
structure ReadReq where
  th    : Nat
  seq   : Nat
  vec   : Bool
  rd    : Nat
  sgn   : Bool := false
  parts : List RdPart
  rq    : Rq
  ctx   : Nat
  key   : Nat
  cls   : Nat
  ms    : Bool
  fnc   : Bool
  span  : Nat
  lo    : Nat
  hi    : Nat
  gl    : Option Nat
  deriving DecidableEq, Repr

/-- An open packet (R211, R212): destination thread address, beats sent, instruction count, exchange scope; `data` holds the
beats of a packet to a peer until it is closed. -/
structure OpenPkt where
  dst   : Word
  beats : Nat
  count : Nat
  scope : Scope
  data  : List Vec := []
  deriving DecidableEq, Repr

/-- The loop nest of R285 and R287. -/
structure Nest where
  base   : Word := 0
  n      : List Nat := []
  i      : List Nat := []
  s      : List Nat := []
  active : Bool := false
  esize  : Nat := 0
  deriving DecidableEq, Repr

/-- What a thread slot holds: no thread, a running thread, one that is to stop (R87), a stopped one, or one that has exited. -/
inductive ThState where
  | free | running | stopping | stopped | exited
  deriving DecidableEq, Repr

/-- A request of a thread to a barrier's home and its answer (R120): `op` 0 configure, 1 arrive. -/
structure BarReq where
  op    : Nat
  b     : Nat
  count : Nat
  reply : Option (Option Nat) := none
  deriving DecidableEq, Repr

/-- A wait on a named barrier (R120): the barrier's home and number, the token, and whether the generation has been released. -/
structure BarWait where
  q    : Nat
  id   : Nat
  tok  : Bool
  done : Bool := false
  deriving DecidableEq, Repr

/-- A wire-barrier arrival (R122, R123): when it was made, whether a withdrawal is under way, and the result. -/
structure WireReq where
  since  : Nat
  result : Option Nat := none
  deriving DecidableEq, Repr

/-- A thread slot (R97, R252). `waits` says that its instruction waits (R92), `waitOn` names the
spawned node whose end it awaits (R84), `prog` how far it has gone inside its instruction. `fbuf` are the two blocks of its fetch buffer by
block number (R98); `relStage` tells how far the release steps of the store buffer's oldest entry have come (R188), `sysWait` the peers
they still await; `got` are the values that the reads of an instruction with several dependent reads have returned, `gotAt` how many of
them have been used again; `opWait` is the atomic whose acquire waits for it. -/
structure Thread where
  st       : ThState := .free
  gen      : BitVec 16 := 0
  node     : Nat := 0
  rank     : Nat := 0
  idx      : List Nat := []
  pc       : Word := 0
  slot     : SlotPos := .plain
  g        : Table Word := []
  v        : Table Vec := []
  p        : Table Word := []
  h        : Table Handle := []
  status   : Word := 0
  utvec    : Word := 0
  umask    : Word := 0
  epc      : Word := 0
  ebt      : Word := 0
  ecause   : Word := 0
  einfo    : Word := 0
  estat    : Word := 0
  dlcount  : Word := 0
  rngkey   : Word := 0
  rngctr   : BitVec 128 := 0
  rxbase   : Word := 0
  rxsize   : Word := 0
  rxhead   : Word := 0
  rxtail   : Word := 0
  resWait  : Bool := false
  pkt      : Option OpenPkt := none
  nest     : Nest := {}
  sb       : List SbEntry := []
  seqNo    : Nat := 0
  relStage : Nat := 0
  pend     : List Nat := []
  got      : List (List Byte) := []
  gotAt    : Nat := 0
  opWait   : Option Nat := none
  fbuf     : List (Nat × List Byte) := []
  barWait  : Option BarWait := none
  compute  : Bool := false
  yieldTo  : Option Nat := none
  regroup  : Option Nat := none
  clkWait  : Option Word := none
  bar      : Option BarReq := none
  wire     : Option WireReq := none
  sysWait  : List (Nat × Nat × Nat) := []
  sub      : Bool := false
  waits    : Bool := false
  waitOn   : Option Nat := none
  prog     : Nat := 0
  deriving DecidableEq, Repr

/-- A completion counter (R114, R309). -/
structure Counter where
  value : BitVec 32 := 0
  flt   : Bool := false
  cause : Nat := 0
  deriving DecidableEq, Repr

/-- A tile's state (R110): 0 EMPTY, 1 FILLING, 2 READY, 3 DRAINING. -/
structure Tile where
  pend  : Nat := 0
  ctx   : Nat := 0
  flt   : Bool := false
  keep  : Bool := false
  st    : Nat := 0
  lenm1 : Nat := 0
  base  : Nat := 0
  deriving DecidableEq, Repr

/-- A parked access (R177): the faulting address, cause, EINFO low byte, whether it writes, the key slot of its page where the page has
one, its place in the die's fault order, and its TOKEN once recorded. -/
structure Park where
  va    : Nat
  cause : Nat
  info  : Nat
  write : Bool
  key   : Option Nat := none
  ord   : Nat := 0
  token : Option Nat := none
  deriving DecidableEq, Repr

/-- The stages of a get/put entry (R113, R114): placed, started, all its bytes moved or read out, or only its far bump still to come. -/
inductive GpState where
  | placed | started | moved | bump
  deriving DecidableEq, Repr

/-- An entry of a get/put queue (R112, R307): `id` is its place in the queue, `buf` the source bytes of a put to another core that are
read out and not yet written there. -/
structure GpEntry where
  id     : Nat
  th     : Nat
  ctx    : Nat
  node   : Nat
  put    : Bool
  tile   : Option Nat
  loc    : Nat
  far    : Nat
  dev    : Nat
  fq     : Nat
  len    : Nat
  lcc    : Nat
  linc   : Nat
  fen    : Bool
  fcc    : Nat
  finc   : Nat
  keep   : Bool
  kind   : Nat
  bulk   : Bool
  launch : Nat
  st     : GpState := .placed
  prog   : Nat := 0
  park   : Option Park := none
  fault  : Option Nat := none
  span   : Nat := 0
  sup    : Bool := false
  buf    : List Byte := []
  deriving DecidableEq, Repr

/-- A packet at its receiving core (R117); `port` is the link port it arrives by, 16 for none. -/
structure Packet where
  src   : Word
  dst   : Word
  beats : List Vec
  nf    : Bool
  peer  : Bool
  ended : Bool
  held  : Bool := false
  dead  : Bool := false
  ctx   : Nat := 0
  port  : Nat := 16
  deriving DecidableEq, Repr

/-- A packet beat on its way to its receiving core (R117). -/
structure Beat where
  src   : Word
  dst   : Word
  data  : Vec
  nf    : Bool
  peer  : Bool
  first : Bool
  last  : Bool
  ctx   : Nat := 0
  port  : Nat := 16
  deriving DecidableEq, Repr

/-- A named barrier (R119). -/
structure Barrier where
  ctx   : Nat := 0
  gen   : Bool := false
  arr   : Nat := 0
  count : Nat := 0
  deriving DecidableEq, Repr

/-- A Gleaner entry (R130). -/
structure Gleaner where
  v      : Bool := false
  tag    : Nat := 0
  spanm1 : Nat := 0
  conf   : Nat := 0
  lo     : Nat := 0
  hi     : Nat := 0
  frm    : Nat := 0
  deriving DecidableEq, Repr

/-- An L1 copy of one 32-byte word (R106, R139): own or si, its data, the mask of bytes written, its key slot and page kind, its phase tag
(R128, R180) and the clk of its fill; `pool` tells a copy that stands in the victim pool, as this core's. -/
structure L1Word where
  own  : Bool
  data : BitVec 256
  mask : BitVec 32
  key  : Nat
  cls  : Nat
  ms   : Bool
  tag  : Nat := 0
  at_  : Nat := 0
  pool : Bool := false
  deriving DecidableEq, Repr

/-- A translation held by a TLB (R176). -/
structure TlbEntry where
  ctx : Nat
  vpn : Nat
  big : Bool
  pte : Word
  deriving DecidableEq, Repr

/-- An unclosed round of a core (R165, R166): its number, the writes sent per stack, which homes
have answered, the peers of the round, and the thread that waits. -/
structure Round where
  n       : Nat := 0
  sent    : Table Nat := []
  answers : List Nat := []
  peers   : List Nat := []
  th      : Option Nat := none
  deriving DecidableEq, Repr

/-- A write in a Chute queue (R159, R163, R164): the bytes of one word, or of a whole frame (R152), or an atomic for the NMU with the thread
and register of its old value. `seq` is its place among the die's writes, which those to one word keep (R186); `back` tells a slice's
write-back, which does not stand in the core's own order (R163). -/
structure ChuteW where
  seq   : Nat := 0
  st    : Nat
  pa    : Nat
  bytes : List (Option Byte)
  op    : Option Rmw := none
  ret   : Option (Nat × Nat × RetReg) := none
  back  : Bool := false
  ctx   : Nat
  key   : Nat
  cls   : Nat
  round : Nat
  chain : Bool := false
  charged : Bool
  limited : Bool
  fwd   : Option Nat := none
  deriving DecidableEq, Repr

/-- A core: registers and units shared by its four slots. `sent` are the writes that its threads' store buffers have drained and that no
home has accepted yet: a thread's SACK is the number of its own (R180). `sigNew` are the signature bits recorded since the last arrival of
the core at a phase (R145), `acqAt` is the clk of its last acquire or phase boundary, `countedAt` that of a home's last count for it
(R160), `stalled` who waits for budget on which stack (R166). -/
structure Core where
  loftReq  : Nat := 0
  loftCur  : Nat := 0
  lsepoch  : BitVec 32 := 0
  lastNode : Nat := 0
  wiregrp  : Word := 0
  wiretmo  : Word := 0
  wireNew  : Option Word := none
  tmoNew   : Option Word := none
  wallow   : Word := 16
  lastSlot : Nat := 3
  gens     : Table Nat := []
  cc       : Table Counter := []
  tiles    : Table Tile := []
  gp       : List GpEntry := []
  asm      : List Packet := []
  bars     : Table Barrier := []
  slices   : Mem := []
  gleaner  : Table Gleaner := []
  sig      : BitVec 1024 := 0
  sigNew   : BitVec 1024 := 0
  acqStamp : Nat := 0
  msStamp  : Nat := 0
  acqAt    : Nat := 0
  l1       : Table L1Word := []
  utlb     : List TlbEntry := []
  reads    : List ReadReq := []
  sent     : List (Nat × SbEntry) := []
  chute    : List ChuteW := []
  out      : Nat := 0
  counted  : Table Nat := []
  countedAt : Table Nat := []
  rounds   : List Round := []
  round    : Nat := 0
  cur      : Round := {}
  grants   : Table Nat := []
  asked    : List (Nat × Nat) := []
  stalled  : List (Nat × Nat) := []
  relWait  : List (Nat × Nat × Nat) := []
  deriving DecidableEq, Repr

/-- The kinds of engine job (R346 to R385). -/
inductive JobKind where
  | mx | drain | zero | curve | copy | chld | chst (apply : Bool) | gpool | opt
  deriving DecidableEq, Repr

/-- The stages of an engine job (R356 to R358, R377). -/
inductive JobState where
  | submitted | accepted | prepared | running | ended
  deriving DecidableEq, Repr

/-- A footprint region (R196, R354): local regions are resolved to a core or Granary place. -/
structure Region where
  write : Bool
  loc   : Bool
  lo    : Nat
  len   : Nat
  deriving DecidableEq, Repr

/-- A job of a cluster unit. `src` and `dst` are its resolved places, `tileD` the tile it fills. `entA` and `entB` are the tensor entries read at the start (R68), `scales` the scales read in
preparation, `hd` the handle register it fills, `written` the 64-byte blocks it has written, `prog` how far it has worked, `got` the reads
that its present part has performed, `gotAt` how many of them have been used again (R178), `adds` the contributions still to be sent, as
factor, address and operand. -/
structure Job where
  seq    : Nat
  unit   : Nat
  kind   : JobKind
  th     : Nat
  ctx    : Nat
  node   : Nat
  status : Word
  card   : List Byte
  arg    : Nat := 0
  foot   : List Region := []
  tileD  : Option Nat := none
  src    : Nat := 0
  dst    : Nat := 0
  st     : JobState := .submitted
  entA   : List Byte := []
  entB   : List Byte := []
  scaleA : List Byte := []
  scaleB : List Byte := []
  hd     : Option Nat := none
  written : List Nat := []
  prog   : Nat := 0
  got    : List (List Byte) := []
  gotAt  : Nat := 0
  factor : Nat := 0
  adds   : List (Nat × Nat × BitVec 32) := []
  park   : Option Park := none
  result : Option Settled := none
  deriving DecidableEq, Repr

/-- A curve of an MXE (R364). -/
structure Curve where
  loaded : Bool := false
  gain   : BitVec 32 := 0
  nseg   : Nat := 0
  x      : List (BitVec 32) := []
  y      : List (BitVec 32) := []
  m      : List (BitVec 32) := []
  deriving DecidableEq, Repr

/-- A unit's sequence counter and the end states of its last 4,096 jobs (R390). -/
structure Unit where
  next  : Nat := 0
  ended : Table Settled := []
  deriving DecidableEq, Repr

/-- A waiting mxclaim or mxrel of R350: thread, destination register, resource kind and mask. -/
structure Claim where
  th   : Nat
  rd   : Nat
  acc  : Bool
  rel  : Bool
  mask : Nat
  deriving DecidableEq, Repr

/-- A block of the instruction cache (R98): its context, block number (VA / 32), key slot and bytes. -/
structure ICLine where
  ctx   : Nat
  blk   : Nat
  key   : Nat
  bytes : List Byte
  deriving DecidableEq, Repr

/-- A cluster: fetch port, TLB, engines, special-function queue. -/
structure Cluster where
  icache  : List ICLine := []
  vicgroup : Word := 0
  tlb     : List TlbEntry := []
  slots   : Mem := []
  acc     : Table (BitVec 36) := []
  curves  : Table Curve := []
  slotOwn : Table Nat := []
  accOwn  : Table Nat := []
  claims  : List Claim := []
  jobs    : List Job := []
  arb     : Table Nat := []
  sfu     : List (Nat × Nat × Vec) := []
  stamp   : Nat := 0
  deriving DecidableEq, Repr

/-- A word of a set's data store with its DIRTY, OWNED and CORE (R127, R128); `mask` tells the bytes written since clean. -/
structure SheafWord where
  data  : BitVec 256
  mask  : BitVec 32
  dirty : Bool
  owned : Bool
  core  : Nat
  deriving DecidableEq, Repr

/-- A sheaf tag (R128); `words` are its words s to e in order. -/
structure Sheaf where
  frame : Nat
  s     : Nat
  words : List SheafWord
  key   : Nat
  cls   : Nat
  ms    : Bool
  phw   : Nat
  stamp : Nat
  slot  : Nat
  age   : Nat
  deriving DecidableEq, Repr

/-- A fill in flight: one word of a frame (R132, R136). -/
structure Fill where
  pa    : Nat
  key   : Nat
  cls   : Nat
  ms    : Bool
  ctx   : Nat
  age   : Nat
  deriving DecidableEq, Repr

/-- A forward-table entry (R186): the word, the writes routed to its home and those the home has performed. -/
structure Forward where
  pa   : Nat
  sent : Nat
  done : Nat
  deriving DecidableEq, Repr

/-- A range walk (R147) of a thread of node `node`. -/
structure Walk where
  seq   : Nat
  th    : Nat
  ctx   : Nat
  node  : Nat := 0
  inv   : Bool
  lo    : Nat
  hi    : Nat
  sets  : List (Nat × Nat × Nat)
  pages : List (Nat × Nat × Nat)
  fault : Option (Nat × Nat) := none
  deriving DecidableEq, Repr

/-- A recall on its way (R141): the word, its owner. -/
structure Recall where
  pa   : Nat
  core : Nat
  deriving DecidableEq, Repr

/-- A compute die. `fseq` numbers the writes that its slices route to memory homes (R186), `faults` its parked accesses (R177). -/
structure Die where
  spilldly : Word := 4096
  gap      : Word := 8
  preempts : Word := 0
  tvec     : Word := 0
  fqcfg    : Word := 0
  fqHead   : BitVec 32 := 0
  fqTail   : BitVec 32 := 0
  fqSeq    : Nat := 0
  faults   : Nat := 0
  fseq     : Nat := 0
  stamp    : Nat := 0
  sets     : Table (List Sheaf) := []
  fills    : List Fill := []
  recalls  : List Recall := []
  fwd      : List Forward := []
  walks    : List Walk := []
  tcache   : List TlbEntry := []
  deriving DecidableEq, Repr

/-- A frame held by a memory-side cache (R154): `ctx` is the context of its last fill or write, `asData` tells a parameter frame inserted as
data (R155), `raw` a POISON frame whose data and KEY stay in DRAM as read (R151). -/
structure Way where
  pf     : Nat
  data   : BitVec 4096
  dirty  : Bool
  key    : Nat
  cls    : Nat
  poison : Bool
  age    : Nat
  ctx    : Nat := 0
  asData : Bool := false
  raw    : Bool := false
  charged : Bool := false
  deriving DecidableEq, Repr

/-- Metadata and check bits of a DRAM frame (R149); `under` is the key value that encrypted it; none when
nothing has written the frame. -/
structure FrameMeta where
  key    : Nat := 0
  poison : Bool := false
  cls    : Nat := 0
  check  : BitVec 234 := 0
  under  : Option (BitVec 512) := none
  deriving DecidableEq, Repr

/-- A pinned window (R157). -/
structure Pin where
  st    : Nat := 0
  fade  : Nat := 0
  ctx   : Nat := 0
  start : Nat := 0
  ngran : Nat := 0
  deriving DecidableEq, Repr

/-- A frame that waits for a write-lane slot (R14, R154). -/
structure LaneW where
  pf     : Nat
  data   : BitVec 4096
  key    : Nat
  cls    : Nat
  poison : Bool
  raw    : Bool := false
  charged : Bool
  deriving DecidableEq, Repr

/-- An HBM4 stack with its Denek base die. -/
structure Stack where
  msc     : Table (List Way) := []
  lane    : List LaneW := []
  frames  : Table FrameMeta := []
  lfsr    : BitVec 16 := 0xACE1
  lookups : Nat := 0
  pins    : Table Pin := []
  remain  : Table Nat := []
  window  : Nat := 0
  arr     : Table Nat := []
  chain   : Table Nat := []
  nmu     : List ChuteW := []
  poisonW : Nat := 0
  corrected : Nat := 0
  deriving DecidableEq, Repr

/-- Node states of R73. -/
inductive NodeState where
  | waiting | ready | dispatched | running | done | faulted | cancelled
  deriving DecidableEq, Repr

/-- A level descriptor (R62). -/
structure Level where
  count  : Nat
  spill  : Bool
  scope  : Nat
  domain : Nat
  deriving DecidableEq, Repr

/-- A launch record's fields (R61). -/
structure Launch where
  entry    : Word := 0
  arg      : Word := 0
  done     : Word := 0
  coord    : List Nat := []
  pred     : List Nat := []
  levels   : List Level := []
  loft     : Nat := 0
  contfail : Bool := false
  threads  : Nat := 0
  prio     : Nat := 0
  deriving DecidableEq, Repr

/-- A crew's share of one core (R79): slots and Loft range. -/
structure Share where
  q     : Nat
  slots : List Nat
  base  : Nat
  size  : Nat
  deriving DecidableEq, Repr

/-- A node of the ready pool (R73 to R90): `crew` holds its thread slots in the order of rank, `gone` the ranks that have ended;
`owed` says that its completion record is still to be written, `resv` that it holds a reservation as the head of its dispatcher,
`kept` holds its stopped threads whose slots have been taken. -/
structure Node where
  st       : NodeState := .waiting
  lrec     : Launch := {}
  spawned  : Bool := false
  cause    : Nat := 0
  failing  : Bool := false
  prio     : Nat := 0
  ep       : Nat := 0
  readyAt  : Nat := 0
  readyClk : Nat := 0
  order    : Nat := 0
  die      : Nat := 0
  k        : Nat := 0
  moves    : Nat := 0
  movedAt  : Nat := 0
  place    : List Share := []
  crew     : List Nat := []
  gone     : List Nat := []
  dispAt   : Nat := 0
  preempted : Bool := false
  victimOf : Option Nat := none
  chosen   : Option (List Share) := none
  spill    : List Nat := []
  imaged   : List Nat := []
  endedAt  : Nat := 0
  owed     : Bool := false
  resv     : Bool := false
  kept     : Table Thread := []
  deriving DecidableEq, Repr

/-- A phase group's state (R180, R199): members by rank; `due` are those that a boundary has released and that have not left yet, `sigs` the
write signatures of the cores whose last member has arrived, as they stood then (R145). -/
structure Phase where
  count   : Nat := 0
  arrived : List Nat := []
  due     : List Nat := []
  sigs    : Table (BitVec 1024) := []
  deriving DecidableEq, Repr

/-- A context (R64, R156). -/
structure Ctx where
  ctl    : Word := 0
  ptroot : Word := 0
  ttbase : Word := 0
  ttcount : Word := 0
  spillbase : Word := 0
  dlbase : Word := 0
  dlsize : Word := 0
  budget : Table Word := []
  count  : Nat := 0
  sel    : Table Nat := []
  deriving DecidableEq, Repr

/-- An intake window (R55 to R57). -/
structure Intake where
  area   : Mem := []
  marks  : BitVec 32 := 0
  status : Word := 0
  deriving DecidableEq, Repr

/-- What the host's endpoint receives in order (R54). -/
inductive HostAcc where
  | reg (bar off size : Nat) (v : BitVec 64)
  | read (x n : Nat)
  | write (x : Nat) (data : List Byte)
  | area (c off : Nat) (data : List Byte)
  | disable (c : Nat)
  | readReg (bar off size : Nat)
  deriving DecidableEq, Repr

/-- The host port (R53, R54). -/
structure HostPort where
  windows : Table Intake := []
  winCtl  : Word := 0
  errors  : Word := 0
  barLog  : Nat := 36
  grants  : Table Nat := []
  asked   : List (Nat × Nat) := []
  queue   : List HostAcc := []
  answers : List (List Byte) := []
  mem     : Mem := []
  deriving DecidableEq, Repr

/-- Key slot states (R46). -/
inductive SlotState where
  | empty | loaded | killing
  deriving DecidableEq, Repr

/-- A key slot (R44): its state, key, kill step (R171) and the kill futures that wait, with the nodes of their threads. -/
structure KeySlot where
  st    : SlotState := .empty
  key   : BitVec 512 := 0
  step  : Nat := 0
  waits : List (JobRef × Nat) := []
  deriving DecidableEq, Repr

/-- A key operation on its way to the management complex (R46, R401): a load of a wrapped key, or a kill, for a thread of node `node`. -/
structure KeyOp where
  load : Bool
  slot : Nat
  kek  : Nat := 0
  wrapped : BitVec 576 := 0
  ref  : Option JobRef := none
  node : Nat := 0
  deriving DecidableEq, Repr

/-- A sensor (R47); `at_` is the clk of its last update. -/
structure Sensor where
  alert : Bool := false
  throt : Bool := false
  temp  : BitVec 16 := 0
  at_   : Option Nat := none
  deriving DecidableEq, Repr

/-- A wear record with its hourly samples (R49, R50). -/
structure Wear where
  raw   : Word := 0
  index : Nat := 0
  life  : Nat := 0xFFFFFFFF
  seq   : BitVec 16 := 0
  warn  : Nat := 49152
  crit  : Nat := 61440
  flagW : Bool := false
  flagC : Bool := false
  time  : Word := 0
  deriving DecidableEq, Repr

/-- The management complex (R33 to R52). `stepAt` is when the loader's present try of step 1 began, `fetched` holds the images fetched
in step 4 with the length of their ranges (R37), `keyAnswers` the outcomes of key loads of the management port (R46), `wearHour` the hour
of the last wear update (R49). No fuse is blown at reset (`fsv` 0: DESIGN CHOICE, log 97). -/
structure Mgmt where
  stage    : Nat := 0
  code     : Nat := 0
  slot     : Nat := 0
  elapsed  : Option Nat := none
  meas     : Table (BitVec 512) := []
  flash    : Mem := []
  samples  : Table (List Nat) := []
  hourly   : Table (List Nat) := []
  fsv      : Nat := 0
  loaderVer : Nat := 0
  loaderSv : Nat := 0
  linkUp   : Bool := false
  step     : Nat := 0
  fails    : Nat := 0
  retryAt  : Option Nat := none
  keks     : Table (Option (BitVec 256)) := []
  seed     : BitVec 512 := 0
  stepAt   : Nat := 0
  fetched  : List (List Byte × Nat) := []
  keyAnswers : List Nat := []
  wearHour : Option Nat := none
  slots    : Table KeySlot := []
  keyOps   : List KeyOp := []
  nonce    : BitVec 256 := 0
  signing  : List (Bool × BitVec 256) := []
  report   : List Byte := []
  mgmtRep  : List Byte := []
  sensors  : Table Sensor := []
  wear     : Table Wear := []
  health   : Nat := 0
  events   : Nat := 0
  devId    : Option (BitVec 21) := none
  routes   : Table Word := []
  weights  : List Nat := [4, 3, 1]
  tunnel   : List Flit := []
  deriving DecidableEq, Repr

/-- A Broene port (R18 to R24). -/
structure Port where
  st      : Nat := 0
  half    : Bool := false
  laneok  : BitVec 8 := 0
  en      : Bool := false
  tries   : Nat := 0
  cnt     : Table Word := []
  tx      : Table (List Flit) := []
  replay  : List Flit := []
  resend  : List Flit := []
  seq     : BitVec 12 := 0
  ackTo   : BitVec 12 := 0xFFF
  rxLast  : BitVec 12 := 0xFFF
  credits : Table Nat := []
  freed   : Table Nat := []
  wrr     : Nat := 0
  needReplay : Bool := false
  discard : Bool := false
  last    : Option Flit := none
  refused : List (Word × Word) := []
  deriving DecidableEq, Repr

/-- A breakpoint (R407). -/
structure Break where
  addr : Word
  core : Option Nat
  deriving DecidableEq, Repr

/-- A debugging session (R406, R407): its context, the launch records named when zdb was started and the nodes they became, the
breakpoints, whether the session is held and by which thread, how many instructions that thread may still issue and until when, the
thread that has just left its breakpoint, and the lines printed, as numbers. -/
structure Zdb where
  ctx     : Nat := 0
  records : List (List Byte) := []
  nodes   : List Nat := []
  breaks  : List Break := []
  held    : Bool := false
  cur     : Option Nat := none
  steps   : Nat := 0
  deadline : Nat := 0
  passed  : Option Nat := none
  out     : List (List Nat) := []
  deriving DecidableEq, Repr

/-- Which component moves next: a step with its data, a thread, or the clock. -/
inductive Turn where
  | event (i : Instr) | thread (th : Nat) | tick (n : Nat)
  deriving DecidableEq, Repr

/-- The machine. `dram` holds the frames' bytes as they stand in DRAM, encrypted (R149, R150); `loc` the Lofts, the Barns and the Granaries.
`agenda` says which component moves next, `choices` settles points the manual leaves to the machine (0 once the
list is used up), `freeCount` is the argument of the next free value, `cur` is the thread that runs while the agenda is empty,
`blocked` says that the last instruction tried waits, `tried` lists the threads whose instruction has been tried in vain in this round of
turns, and `others` says that the other components have their turn next: those seven are the model's own fields. -/
structure State where
  powered  : Bool := true
  clock    : Nat := 0
  windowAt : Option Nat := none
  dispatch : Bool := true
  mgmt     : Mgmt := {}
  host     : HostPort := {}
  ports    : Table Port := []
  ctxs     : Table Ctx := []
  nodes    : Table Node := []
  accepts  : Nat := 0
  phases   : Table Phase := []
  dies     : Table Die := []
  clusters : Table Cluster := []
  cores    : Table Core := []
  threads  : Table Thread := []
  hbms   : Table Stack := []
  units    : Table Unit := []
  dram     : Mem := []
  loc      : Mem := []
  beats    : List Beat := []
  peerArr  : Table Nat := []
  peerSent : Table Nat := []
  peerBad  : List (Nat × Nat) := []
  zdb      : Zdb := {}
  agenda   : List Turn := []
  choices  : List Nat := []
  freeCount : Nat := 0
  cur      : Nat := 0
  blocked  : Bool := false
  tried    : List Nat := []
  others   : Bool := false
  deriving DecidableEq, Repr

/-- The machine right after reset (R40 and every Reset column). The boot ROM runs first: R40, R36. -/
def State.reset : State := { agenda := [.event .powerOnReset] }

/-- The three outcomes of a step. -/
abbrev Res := Host.Outcome State Fault Refusal

end Sys2Proof.Machine
end

