-- ==== Sys2Proof/Machine/Access.lean ====
section
/-! DEFINITION. Reading and writing the parts of the state by number, and the registers of a thread. -/
namespace Sys2Proof.Machine

def State.th (s : State) (i : Nat) : Thread := tget {} s.threads i
def State.setTh (s : State) (i : Nat) (t : Thread) : State := { s with threads := tset {} s.threads i t }
def State.modTh (s : State) (i : Nat) (f : Thread → Thread) : State := s.setTh i (f (s.th i))
def State.core (s : State) (q : Nat) : Core := tget {} s.cores q
def State.setCore (s : State) (q : Nat) (c : Core) : State := { s with cores := tset {} s.cores q c }
def State.modCore (s : State) (q : Nat) (f : Core → Core) : State := s.setCore q (f (s.core q))
def State.clus (s : State) (c : Nat) : Cluster := tget {} s.clusters c
def State.setClus (s : State) (c : Nat) (x : Cluster) : State := { s with clusters := tset {} s.clusters c x }
def State.modClus (s : State) (c : Nat) (f : Cluster → Cluster) : State := s.setClus c (f (s.clus c))
def State.die (s : State) (d : Nat) : Die := tget {} s.dies d
def State.setDie (s : State) (d : Nat) (x : Die) : State := { s with dies := tset {} s.dies d x }
def State.modDie (s : State) (d : Nat) (f : Die → Die) : State := s.setDie d (f (s.die d))
def State.stack (s : State) (n : Nat) : Stack := tget {} s.hbms n
def State.setStack (s : State) (n : Nat) (x : Stack) : State := { s with hbms := tset {} s.hbms n x }
def State.modStack (s : State) (n : Nat) (f : Stack → Stack) : State := s.setStack n (f (s.stack n))
def State.ctx (s : State) (c : Nat) : Ctx := tget {} s.ctxs c
def State.setCtx (s : State) (c : Nat) (x : Ctx) : State := { s with ctxs := tset {} s.ctxs c x }
def State.modCtx (s : State) (c : Nat) (f : Ctx → Ctx) : State := s.setCtx c (f (s.ctx c))
def State.node (s : State) (n : Nat) : Node := tget {} s.nodes n
def State.setNode (s : State) (n : Nat) (x : Node) : State := { s with nodes := tset {} s.nodes n x }
def State.modNode (s : State) (n : Nat) (f : Node → Node) : State := s.setNode n (f (s.node n))
def State.port (s : State) (p : Nat) : Port := tget {} s.ports p
def State.setPort (s : State) (p : Nat) (x : Port) : State := { s with ports := tset {} s.ports p x }
def State.modPort (s : State) (p : Nat) (f : Port → Port) : State := s.setPort p (f (s.port p))
def State.unit (s : State) (u : Nat) : Unit := tget {} s.units u
def State.setUnit (s : State) (u : Nat) (x : Unit) : State := { s with units := tset {} s.units u x }
def State.modMgmt (s : State) (f : Mgmt → Mgmt) : State := { s with mgmt := f s.mgmt }
def State.modHost (s : State) (f : HostPort → HostPort) : State := { s with host := f s.host }

/-- The acting thread. -/
def State.me (s : State) : Thread := s.th s.cur
/-- Changes the acting thread. -/
def State.modMe (s : State) (f : Thread → Thread) : State := s.modTh s.cur f

/-- Core of a thread (R97). -/
def coreOf (th : Nat) : Nat := th / 4
/-- Slot of a thread. -/
def slotOf (th : Nat) : Nat := th % 4
/-- Cluster of a core (R96). -/
def clusOf (q : Nat) : Nat := q / 8
/-- Die of a core (R96). -/
def dieOf (q : Nat) : Nat := q / 256
/-- Context of a node id (R58). -/
def ctxOf (node : Nat) : Nat := node / 2 ^ 40 % 256
/-- Context of a thread. -/
def Thread.ctx (t : Thread) : Nat := ctxOf t.node
/-- Supervisor mode (R202). -/
def Thread.sup (t : Thread) : Bool := t.status[0]
/-- STATUS fields that arithmetic reads (R254). -/
def numMode (status : Word) : NumMode := { nf := status[2], fz := status[3], fzn := status[4] }
/-- STATUS.RM (R254). -/
def statusRm (status : Word) : Nat := bits status.toNat 7 5

/-- General register read: g0 reads 0 (R252). -/
def Thread.rg (t : Thread) (r : BitVec 5) : Word := if r = 0 then 0 else tget 0 t.g r.toNat
/-- General register write: a write to g0 is discarded (R253). -/
def Thread.wg (t : Thread) (r : BitVec 5) (x : Word) : Thread := if r = 0 then t else { t with g := tset 0 t.g r.toNat x }
/-- Predicate register read: p0 reads all ones (R252). -/
def Thread.rp (t : Thread) (r : Nat) : Word := if r = 0 then BitVec.allOnes 64 else tget 0 t.p r
/-- Predicate register write: a write to p0 is discarded (R253). -/
def Thread.wp (t : Thread) (r : Nat) (x : Word) : Thread := if r = 0 then t else { t with p := tset 0 t.p r x }
/-- Vector register read (R252). -/
def Thread.rv (t : Thread) (r : BitVec 5) : Vec := tget 0 t.v r.toNat
/-- Vector register write. -/
def Thread.wv (t : Thread) (r : BitVec 5) (x : Vec) : Thread := { t with v := tset 0 t.v r.toNat x }
/-- Handle register read (R388). -/
def Thread.rh (t : Thread) (r : Nat) : Handle := tget .empty t.h r
/-- Handle register write. -/
def Thread.wh (t : Thread) (r : Nat) (x : Handle) : Thread := { t with h := tset .empty t.h r x }
/-- Sets sticky flags of STATUS[21:16] (R227). -/
def Thread.raise (t : Thread) (f : Flags) : Thread := { t with status := t.status ||| BitVec.ofNat 64 (f * 65536) }

/-- Scope codes in order of width (R187). -/
def scopeNum (s : Scope) : Nat := (scopeCode s).toNat
/-- The scope of a code (R187). -/
def scopeOfNum (n : Nat) : Scope := (scopeOf (BitVec.ofNat 3 n)).getD .system
/-- Device or system scope. -/
def wide (s : Scope) : Bool := scopeNum s ≥ 4
/-- An order that acquires. -/
def ordAcq (o : MemOrd) : Bool := o == .acquire || o == .acqRel
/-- An order that releases. -/
def ordRel (o : MemOrd) : Bool := o == .release || o == .acqRel

/-- Cause codes (R207). -/
def cILLEGAL : Nat := 0x01
def cPRIV : Nat := 0x02
def cSLOT : Nat := 0x03
def cALIGN : Nat := 0x04
def cADDR : Nat := 0x05
def cXLATE : Nat := 0x06
def cPROT : Nat := 0x07
def cPOISON : Nat := 0x08
def cKEYDEAD : Nat := 0x09
def cWBUDGET : Nat := 0x0A
def cNFMISMATCH : Nat := 0x0B
def cPKTOPEN : Nat := 0x0C
def cREMOTE : Nat := 0x0D
def cTILESTATE : Nat := 0x0E
def cHANDLE : Nat := 0x0F
def cSTALESCALE : Nat := 0x10
def cDIVZERO : Nat := 0x11
def cSWTRAP : Nat := 0x12
def cBRK : Nat := 0x13
def cPDTABLE : Nat := 0x14
def cCHAIN : Nat := 0x15
def cBARRIER : Nat := 0x16
def cMXSLOT : Nat := 0x17
def cCURVE : Nat := 0x18

/-- A cause with its sr.EINFO (R207). -/
structure Fail where
  cause : Nat
  info  : Nat
  deriving DecidableEq, Repr

/-- A check's answer. -/
abbrev Chk (α : Type) := Except Fail α

/-- Stops with a cause unless the condition holds. -/
def need (ok : Bool) (cause info : Nat) : Chk PUnit := if ok then .ok ⟨⟩ else .error ⟨cause, info⟩

/-- The next machine choice below `n`: 0 once the list is used up. -/
def choose (s : State) (n : Nat) : State × Nat :=
  match s.choices with
  | [] => (s, 0)
  | c :: l => ({ s with choices := l }, if n = 0 then 0 else c % n)

/-- A fresh free value. -/
def free (s : State) : State × Word := ({ s with freeCount := s.freeCount + 1 }, Config.freeValue s.freeCount)

/-- The clock copy of a die (R124): the copies stand within 2 clk of one another. -/
def State.dieClock (s : State) (d : Nat) : Word := BitVec.ofNat 64 (s.clock + (Config.clockSkew d).val)

/-- The instruction waits: the thread stays at it (R92). -/
def State.wait (s : State) : State := { s.modMe (fun t => { t with waits := true }) with blocked := true }

/-- The device id; 0 before it is assigned (R28). -/
def State.devId (s : State) : BitVec 21 := s.mgmt.devId.getD 0

/-- sr.THREADID, the thread address (R97). -/
def threadAddr (s : State) (th : Nat) : Word :=
  let q := coreOf th
  BitVec.ofNat 64 (s.devId.toNat + 2 ^ 21 * dieOf q + 2 ^ 23 * (clusOf q % 32) + 2 ^ 28 * (q % 8) + 2 ^ 31 * slotOf th
    + 2 ^ 33 * (s.th th).gen.toNat)

/-- The thread slot that a thread address names on this module (R97). -/
def threadOfAddr (a : Word) : Nat :=
  let n := a.toNat
  (bits n 22 21 * 256 + bits n 27 23 * 8 + bits n 30 28) * 4 + bits n 32 31

/-- A debugger holds the node's threads and dispatch (R406). -/
def sessionHeld (s : State) (node : Nat) : Bool := s.zdb.held && s.zdb.nodes.contains node

/-- A debugger holds a thread (R406, R407): its session is held, it has no open packet, and it is not being stepped. -/
def heldByZdb (s : State) (th : Nat) : Bool :=
  sessionHeld s (s.th th).node && (s.th th).pkt.isNone && !(s.zdb.cur == some th && s.zdb.steps != 0)

/-- A live thread: running, stopped under pre-emption, or being loaded (R89). -/
def Thread.live (t : Thread) : Bool :=
  match t.st with
  | .running | .stopping | .stopped => true
  | _ => false

end Sys2Proof.Machine
end

