-- ==== Sys2Proof/Machine/Home.lean ====
section
/-! DEFINITION. The memory side (R11, R149 to R168): homes, frames with their encryption, check bits and poison, the memory-side cache, the
write lane, the near-memory unit, the Chute with its credit, budgets and rounds. -/
namespace Sys2Proof.Machine

/-- Stack of a physical address (R11). -/
def stackOf (pa : Nat) : Nat :=
  if pa ≥ 2 ^ 39 then bits pa 38 36 else (bits pa 14 12) ^^^ (bits pa 23 21) ^^^ (bits pa 32 30)
/-- Offset within the stack (R11). -/
def offOf (pa : Nat) : Nat := if pa ≥ 2 ^ 39 then pa % 2 ^ 36 else bits pa 38 15 * 4096 + pa % 4096
/-- The place of a physical address within its stack, stacks one after another, which keys DRAM contents (R11). -/
def dramKey (pa : Nat) : Nat := stackOf pa * 2 ^ 36 + offOf pa
/-- What a byte of DRAM that nothing has written reads as. -/
def dramDefault : Byte := 0

/-- A key slot that translations may name (R46). -/
def keyLoaded (s : State) (k : Nat) : Bool := (tget {} s.mgmt.slots k).st == .loaded
/-- A key slot under which writes are still performed: loaded, or killed with the first `n` steps not yet over (R171, R172). -/
def keyLive (s : State) (k n : Nat) : Bool :=
  let x := tget {} s.mgmt.slots k
  x.st == .loaded || (x.st == .killing && x.step ≤ n)
/-- The key value a slot holds. -/
def keyVal (s : State) (k : Nat) : BitVec 512 := (tget {} s.mgmt.slots k).key

/-- Byte `i` of a frame. -/
def frameByte (d : BitVec 4096) (i : Nat) : Byte := d.extractLsb' (8 * i) 8
/-- Sets byte `i` of a frame. -/
def frameSet (d : BitVec 4096) (i : Nat) (b : Byte) : BitVec 4096 :=
  (d &&& ~~~(0xFF#4096 <<< (8 * i))) ||| ((b.setWidth 4096) <<< (8 * i))
/-- `n` bytes of a frame from byte `i`. -/
def frameBytes (d : BitVec 4096) (i : Nat) : Nat → List Byte
  | 0 => []
  | n + 1 => frameByte d i :: frameBytes d (i + 1) n
/-- Merges masked bytes into a frame from byte `i`. -/
def frameMerge (d : BitVec 4096) (i : Nat) : List (Option Byte) → BitVec 4096
  | [] => d
  | none :: l => frameMerge d (i + 1) l
  | some b :: l => frameMerge (frameSet d i b) (i + 1) l
/-- A frame from its bytes. -/
def frameOf (l : List Byte) : BitVec 4096 := BitVec.ofNat 4096 (bytesToNat l)

/-! ### DRAM -/

/-- The metadata of frame `pf` in DRAM. -/
def frameMeta (s : State) (pf : Nat) : FrameMeta := tget {} (s.stack (stackOf (pf * 512))).frames (offOf (pf * 512) / 512)

/-- The 22 metadata bits of a frame (R149). -/
def FrameMeta.bits (m : FrameMeta) : BitVec 22 := BitVec.ofNat 22 (m.key % 1024 + b2n m.poison * 2 ^ 10 + m.cls % 4 * 2 ^ 11)

/-- The encryption tweak of a frame: its stack-direct physical address (R11, R150). -/
def frameTweak (pf : Nat) : Nat := 2 ^ 39 + dramKey (pf * 512)

/-- The ciphertext of frame `pf` in DRAM (R149). -/
def frameCipher (s : State) (pf : Nat) : List Byte := mread dramDefault s.dram (dramKey (pf * 512)) 512

/-- The codeword of a frame (R149): 4,096 data bits above 234 check bits, the metadata bits above those. -/
def codeword (s : State) (pf : Nat) : BitVec 4352 :=
  let m := frameMeta s pf
  m.bits ++ frameOf (frameCipher s pf) ++ m.check

/-- A DRAM frame decrypted under its own slot's key (R150); under another key value than the one that encrypted it, its bytes are free
values (R153). -/
def dramPlain (s : State) (pf : Nat) : BitVec 4096 :=
  let m := frameMeta s pf
  let v := keyVal s m.key
  match m.under with
  | none => 0
  | some u =>
    if u == v then frameOf (xts false u (frameTweak pf) (frameCipher s pf))
    else frameOf ((List.range 512).zipWith (fun i b => Config.wrongKeyByte u v (dramKey (pf * 512) + i) b) (frameCipher s pf))

/-- A frame as it leaves DRAM: the slot it was encrypted under, its plaintext and whether it is POISON. A frame that still waits for
the write lane is found there. -/
def dramFrame (s : State) (pf : Nat) : Nat × BitVec 4096 × Bool :=
  match ((s.stack (stackOf (pf * 512))).lane.filter (fun w => dramKey (w.pf * 512) == dramKey (pf * 512))).getLast? with
  | some w => (w.key, w.data, w.poison)
  | none => ((frameMeta s pf).key, dramPlain s pf, (frameMeta s pf).poison)

/-- Puts a frame on the write lane's queue (R154). -/
def laneAdd (s : State) (w : LaneW) : State := s.modStack (stackOf (w.pf * 512)) (fun k => { k with lane := k.lane ++ [w] })

/-- Writes a frame to DRAM (R149, R150): encrypted, with its metadata and check bits; one that R151 rewrites keeps its data and KEY. -/
def dramWrite (s : State) (w : LaneW) : State :=
  let old := frameMeta s w.pf
  let c := if w.raw then frameCipher s w.pf else xts true (keyVal s w.key) (frameTweak w.pf) (frameBytes w.data 0 512)
  let m : FrameMeta := if w.raw then { old with poison := true }
    else { key := w.key, poison := w.poison, cls := w.cls, under := some (keyVal s w.key) }
  let m := { m with check := bchCheck (frameOf c) m.bits }
  let s := s.modStack (stackOf (w.pf * 512)) (fun k => { k with frames := tset {} k.frames (offOf (w.pf * 512) / 512) m })
  { s with dram := mwrite dramDefault s.dram (dramKey (w.pf * 512)) c }

/-- Writes one queued frame to DRAM, uncharged ones first (R14, R159). -/
def laneWrite (s : State) (st : Nat) : State :=
  let l := (s.stack st).lane
  let i := (findNat (fun i => match l[i]? with | some w => !w.charged | none => false) l.length 0).getD 0
  match l[i]? with
  | none => s
  | some w => dramWrite (s.modStack st (fun k => { k with lane := delAt k.lane i })) w

/-! ### The memory-side cache -/

/-- MSC set of a stack offset (R154). -/
def mscSet (off : Nat) : Nat := bits off 22 9 ^^^ bits off 35 23

/-- The LIVE pinned windows that cover a stack offset (R157). -/
def pinsOf (k : Stack) (off : Nat) : List Nat :=
  (List.range 16).filter (fun i => let p := tget {} k.pins i; p.st == 1 && p.start ≤ off / 65536 && off / 65536 < p.start + p.ngran)

/-- A LIVE pinned window of context `ctx` covers a stack offset. -/
def pinnedFor (k : Stack) (ctx off : Nat) : Bool := (pinsOf k off).any (fun i => (tget {} k.pins i).ctx == ctx)

/-- The protected ways of a set (R155): parameter frames that lie in a LIVE window of their context, at most 12. -/
def protectedWays (k : Stack) (ws : List Way) : List Nat :=
  ((List.range ws.length).filter (fun i => match ws[i]? with
    | some w => w.cls == 1 && !w.asData && pinnedFor k w.ctx (offOf (w.pf * 512)) | none => false)).take 12

/-- One step of the 16-bit Fibonacci register with taps 16, 14, 13 and 11 (R156). -/
def lfsrStep (x : BitVec 16) : BitVec 16 :=
  (x >>> 1) ||| ((((x ^^^ (x >>> 2) ^^^ (x >>> 3) ^^^ (x >>> 5)) &&& 1) <<< 15))

/-- Every LIVE window fades by one (R158): a FADED one covers nothing. -/
def fadeStep (k : Stack) : Stack :=
  { k with pins := tmap (fun _ p => if p.st == 1 then { p with fade := p.fade - 1, st := if p.fade ≤ 1 then 2 else 1 } else p) k.pins }

/-- The end of a fade period: 2^20 lookups have been made since the last one (R158). -/
def fadePeriod (k : Stack) : Stack := if k.lookups ≥ 2 ^ 20 then fadeStep { k with lookups := k.lookups - 2 ^ 20 } else k

/-- A lookup's count; a fade period that has ended is settled first (R158). -/
def countLookup (k : Stack) : Stack :=
  let k := fadePeriod k
  { k with lookups := k.lookups + 1 }

/-- A hit: the way becomes the most recent and the windows over it are reloaded (R154, R158). -/
def mscHit (k : Stack) (set i off : Nat) : Stack :=
  let ws := tget [] k.msc set
  let a := match ws[i]? with | some w => w.age | none => 0
  let ws := ws.map (fun w => if w.age < a then { w with age := w.age + 1 } else w)
  let ws := match ws[i]? with | some w => setAt ws i { w with age := 0 } | none => ws
  { k with
    msc := tset [] k.msc set ws
    pins := (pinsOf k off).foldl (fun t p => tmod {} t p (fun w => { w with fade := 255 })) k.pins }

/-- The oldest way that is not protected (R155). -/
def mscVictim (k : Stack) (ws : List Way) : Option Nat :=
  let prot := protectedWays k ws
  let free := (List.range ws.length).filter (fun i => !prot.contains i)
  let age := fun (i : Nat) => match ws[i]? with | some w => w.age | none => 0
  let best := free.foldl (fun m i => max m (age i)) 0
  free.find? (fun i => age i == best)

/-- Insertion age of a data-class fill and the registers of set duelling after it (R156). -/
def duel (s : State) (st ctx set : Nat) : State × Nat :=
  let g := set % 512
  let sel := tget 0 (s.ctx ctx).sel st
  let sel' := if g == 0 then min 1023 (sel + 1) else if g == 0x1FF then sel - 1 else sel
  let second := if g == 0 then false else if g == 0x1FF then true else !(sel < 512)
  let x := (s.stack st).lfsr
  let s := s.modCtx ctx (fun c => { c with sel := tset 0 c.sel st sel' })
  if second then
    (s.modStack st (fun k => { k with lfsr := lfsrStep k.lfsr }), if x &&& 31 == 0 then 0 else 15)
  else (s, 0)

/-- A way's frame leaves for the write lane. -/
def Way.lane (v : Way) : LaneW :=
  { pf := v.pf, data := v.data, key := v.key, cls := v.cls, poison := v.poison, raw := v.raw, charged := v.charged }

/-- Puts a way into its set, evicting a victim to the write lane when the set is full (R154). -/
def mscInsert (s : State) (st set : Nat) (w : Way) : State :=
  let k := s.stack st
  let ws := tget [] k.msc set
  let young := fun (l : List Way) => if w.age == 0 then l.map (fun x => { x with age := min 15 (x.age + 1) }) else l
  if ws.length < 16 then s.setStack st { k with msc := tset [] k.msc set (young ws ++ [w]) }
  else
    match mscVictim k ws with
    | none => s
    | some i =>
      match ws[i]? with
      | none => s
      | some v =>
        let s := s.setStack st { k with msc := tset [] k.msc set (setAt (young ws) i w) }
        if v.dirty then laneAdd s v.lane else s

/-- Allocates a frame that its lookup has missed (R155, R156): one that is to be protected is inserted most recent, every other one as set
duelling says. -/
def mscAllocate (s : State) (st set : Nat) (w : Way) : State :=
  let k := s.stack st
  if w.cls == 1 && pinnedFor k w.ctx (offOf (w.pf * 512)) && (protectedWays k (tget [] k.msc set)).length < 12 then mscInsert s st set w
  else
    let (s, age) := duel s st w.ctx set
    mscInsert s st set { w with age := age, asData := w.cls == 1 && pinnedFor k w.ctx (offOf (w.pf * 512)) }

/-- Index of a frame in a set of the memory-side cache. -/
def wayOf (ws : List Way) (pf : Nat) : Option Nat := findNat (fun i => match ws[i]? with | some w => w.pf == pf | none => false) ws.length 0

/-- A lookup of the frame that holds `pa` for a page's key, class and context (R153 to R156), for a read or, under `wr`, a write: the frame's
plaintext under the page's key and POISON. A frame under another slot reads as zeros and is not brought in by a read. A POISON frame comes
in with its data and KEY as read, to be rewritten (R151). -/
def mscLookup (s : State) (pa ctx key cls : Nat) (wr : Bool) : State × BitVec 4096 × Bool :=
  let pf := pa / 512
  let st := stackOf pa
  let set := mscSet (offOf pa)
  let s := s.modStack st countLookup
  let ws := tget [] (s.stack st).msc set
  match wayOf ws pf with
  | some i =>
    let s := s.modStack st (fun k => mscHit k set i (offOf pa))
    (match ws[i]? with
     | some w => (s, if w.key == key then w.data else 0, w.poison)
     | none => (s, 0, false))
  | none =>
    let (k, d, poison) := dramFrame s pf
    let v := if k == key then d else 0
    if cls == 2 || (k != key && !poison && !wr) then (s, v, poison)
    else (mscAllocate s st set
      { pf := pf, data := if poison then d else v, dirty := poison, key := if poison then k else key, cls := cls, poison := poison, age := 0,
        ctx := ctx, raw := poison }, v, poison)

/-- Stores a frame's new contents: in its way, or straight to the write lane when the cache does not hold it (R155). -/
def mscStore (s : State) (pa ctx key cls : Nat) (d : BitVec 4096) (charged : Bool) : State :=
  let pf := pa / 512
  let st := stackOf pa
  let set := mscSet (offOf pa)
  let ws := tget [] (s.stack st).msc set
  match wayOf ws pf with
  | some i =>
    (match ws[i]? with
     | some w => s.modStack st (fun k => { k with msc := tset [] k.msc set (setAt ws i { w with
         data := d, dirty := true, key := key, cls := cls, ctx := ctx, poison := false, raw := false, charged := charged }) })
     | none => s)
  | none => laneAdd s { pf := pf, data := d, key := key, cls := cls, poison := false, charged := charged }

/-- The home of `pa` holds its frame as POISON (R151, R152). -/
def framePoison (s : State) (pa : Nat) : Bool :=
  let ws := tget [] (s.stack (stackOf pa)).msc (mscSet (offOf pa))
  match wayOf ws (pa / 512) with
  | some i => (match ws[i]? with | some w => w.poison | none => false)
  | none => (dramFrame s (pa / 512)).2.2

/-- A write or return-free atomic meets a POISON frame: it is discarded and counted (R152). -/
def poisonDrop (s : State) (pa : Nat) : State := s.modStack (stackOf pa) (fun k => { k with poisonW := k.poisonW + 1 })

/-! ### The near-memory unit -/

/-- Bytes an atomic reaches. -/
def Rmw.size : Rmw → Nat
  | .amo aop t _ => aopSize aop t
  | .cas n _ _ => n

/-- What an atomic writes over an old value (R167, R302, R303); none where a comparison fails. -/
def Rmw.new (m : Nat) : Rmw → Option Nat
  | .amo aop t x => some (aopVal aop t m x)
  | .cas _ e x => if m == e then some x else none

/-- A loaded value as a register holds it (R294): sign-extended for i types. -/
def loadExt (t : Ty) (v : Nat) : Word := if t.signed then extT t v else BitVec.ofNat 64 v

/-- The old value of a thread's atomic arrives. -/
def RetReg.give (s : State) (th n : Nat) (old : Nat) (r : RetReg) : State :=
  let rd := BitVec.ofNat 5 r.rd
  s.modTh th (fun t =>
    let t := t.wg rd (match r.ty with | some y => loadExt y old | none => BitVec.ofNat 64 old)
    let t := if r.pair then t.wg (rd + 1) (BitVec.ofNat 64 (old / 2 ^ 64)) else t
    let p := t.pend.erase r.rd
    { t with pend := if r.pair then p.erase ((r.rd + 1) % 32) else p, opWait := if t.opWait == some n then none else t.opWait })

/-- The old value of an atomic arrives, if a thread still awaits it. -/
def giveRet (s : State) (old : Nat) (ret : Option (Nat × Nat × RetReg)) : State :=
  match ret with
  | some (th, n, r) => if th < 4096 then r.give s th n old else s
  | none => s

/-- One atomic at a home as one event (R167): the old bytes, none when the frame is POISON, where a return-free one is discarded and
counted (R152). -/
def nmuDo (s : State) (pa ctx key cls : Nat) (op : Rmw) (returns : Bool) : State × Option Nat :=
  let (s, d, poison) := mscLookup s pa ctx key cls true
  if poison then (if returns then s else poisonDrop s pa, none)
  else
    let old := bytesToNat (frameBytes d (pa % 512) op.size)
    (match op.new old with
     | some new => mscStore s pa ctx key cls (frameMerge d (pa % 512) ((natToBytes op.size new).map some)) true
     | none => s, some old)

/-- Performs the oldest operation of a stack's NMU queue (R167): its old value goes back to the thread that awaits it. -/
def nmuStep (s : State) (st : Nat) : State :=
  match (s.stack st).nmu with
  | [] => s
  | w :: l =>
    let s := s.modStack st (fun k => { k with nmu := l })
    match w.op with
    | some op =>
      let (s, r) := nmuDo s w.pa w.ctx w.key w.cls op w.ret.isSome
      giveRet s (r.getD 0) w.ret
    | none => s

/-- Performs everything in a stack's NMU queue, in order. -/
def nmuAll (s : State) (st : Nat) : State := (s.stack st).nmu.foldl (fun s _ => nmuStep s st) s

/-- Performs everything in every NMU queue. -/
def nmuDrain (s : State) : State := (List.range 8).foldl (fun s st => nmuAll s st) s

/-! ### Reads and writes at a home -/

/-- A read at the home of `n` bytes within one frame: none when the frame is POISON (R152). -/
def homeRead (s : State) (pa n ctx key cls : Nat) : State × Option (List Byte) :=
  let s := nmuAll s (stackOf pa)
  let (s, d, poison) := mscLookup s pa ctx key cls false
  (s, if poison then none else some (frameBytes d (pa % 512) n))

/-- A write performed at the home: bytes within one frame (R154). One that covers the frame replaces it and ends its POISON; a smaller one
is discarded there (R152). -/
def homeWrite (s : State) (pa : Nat) (bs : List (Option Byte)) (ctx key cls : Nat) (charged : Bool) : State :=
  let s := nmuAll s (stackOf pa)
  let (s, d, poison) := mscLookup s pa ctx key cls true
  if bs.length == 512 && bs.all Option.isSome then mscStore s pa ctx key cls (frameMerge 0 0 bs) charged
  else if poison then poisonDrop s pa
  else mscStore s pa ctx key cls (frameMerge d (pa % 512) bs) charged

/-! ### The Chute -/

/-- Bytes a Chute write carries. -/
def ChuteW.size (w : ChuteW) : Nat :=
  match w.op with
  | some _ => 32
  | none => (w.bytes.filter Option.isSome).length

/-- The words a Chute write touches: one, or the 16 of a frame. -/
def ChuteW.words (w : ChuteW) : List Nat := (List.range (max 1 (w.bytes.length / 32))).map (· + w.pa / 32)

/-- A Chute write of masked bytes of a page; its stack, round and place are set when it is sent. -/
def mkWrite (pa : Nat) (bs : List (Option Byte)) (ctx key cls : Nat) (charged limited : Bool) : ChuteW :=
  { st := 0, pa := pa, bytes := bs, ctx := ctx, key := key, cls := cls, round := 0, charged := charged, limited := limited }

/-- Performs write `i` of core `q`'s Chute queue at its home and counts it (R163, R164), a chain unit's adds by
themselves (R380); a write whose key is dead is discarded (R171), and no thread awaits its old value, since step 2 of a kill ends only when
no thread does (R172). -/
def chutePerformAt (s : State) (q i : Nat) : State :=
  match (s.core q).chute[i]? with
  | none => s
  | some w =>
    let s := s.modCore q (fun c => { c with
      chute := delAt c.chute i
      counted := if w.limited then tmod 0 c.counted w.st (· + w.size) else c.counted
      countedAt := if w.limited then tset 0 c.countedAt w.st s.clock else c.countedAt })
    let s := s.modStack w.st (fun k =>
      if w.chain then { k with chain := tmod 0 k.chain q (· + 1) } else { k with arr := tmod 0 k.arr (q * 4 + w.round) (· + 1) })
    let s := if keyLive s w.key 3 then
        (match w.op with
         | some _ => s.modStack w.st (fun k => { k with nmu := k.nmu ++ [w] })
         | none => homeWrite s w.pa w.bytes w.ctx w.key w.cls w.charged)
      else giveRet s 0 w.ret
    match w.fwd with
    | none => s
    | some d => s.modDie d (fun x => { x with fwd := x.fwd.map (fun f => if w.words.contains f.pa then { f with done := f.done + 1 } else f) })

/-- The Chute writes of a die's cores. -/
def dieWrites (s : State) (d : Nat) : List ChuteW := ((s.cores.filter (fun e => dieOf e.1 == d)).map (·.2.chute)).flatten

/-- The writes that come before write `w` of core `q`: those that the die has routed to one of its words before it (R186), and the core's
own earlier ones to its stack, a slice's write-backs apart (R163). -/
def chuteBefore (s : State) (q : Nat) (w : ChuteW) : List Nat :=
  (((s.core q).chute.filter (fun x => !w.back && !x.back && x.st == w.st && x.seq < w.seq)).map (·.seq))
    ++ (((dieWrites s (dieOf q)).filter (fun x => x.seq < w.seq && x.words.any w.words.contains)).map (·.seq))

/-- Core and index of write number `n` of a die. -/
def chuteFind (s : State) (d n : Nat) : Option (Nat × Nat) :=
  s.cores.findSome? (fun e => if dieOf e.1 == d then (e.2.chute.findIdx? (fun w => w.seq == n)).map (fun i => (e.1, i)) else none)

/-- Performs write number `n` of a die behind those that come before it; `fuel` bounds how many. -/
def chuteForce (d : Nat) : Nat → State → Nat → State
  | 0, s, _ => s
  | fuel + 1, s, n =>
    match chuteFind s d n with
    | none => s
    | some (q, i) =>
      match (s.core q).chute[i]? with
      | none => s
      | some w =>
        let s := (chuteBefore s q w).foldl (chuteForce d fuel) s
        match chuteFind s d n with
        | some (q, i) => chutePerformAt s q i
        | none => s

/-- Performs the listed writes of a die, each behind those that come before it. -/
def chuteForceAll (s : State) (d : Nat) (ns : List Nat) : State := ns.foldl (chuteForce d ((dieWrites s d).length + 1)) s

/-- Performs a write of core `q` to a stack that no other one comes before, by choice where there are several. -/
def chutePerform (s : State) (q st : Nat) : State :=
  let ws := (s.core q).chute
  let l := (List.range ws.length).filter (fun i => match ws[i]? with | some w => w.st == st && (chuteBefore s q w).isEmpty | none => false)
  let (s, k) := choose s l.length
  match l[k]? with
  | some i => chutePerformAt s q i
  | none => s

/-- A home returns credit (R160): a batch of 1 KiB, or a smaller remainder. -/
def creditBack (s : State) (q st : Nat) : State :=
  s.modCore q (fun c =>
    let n := min 1024 (tget 0 c.counted st)
    { c with out := c.out - n, counted := tmod 0 c.counted st (· - n) })

/-- A home returns all the credit that it owes a core. -/
def creditAll (s : State) (q st : Nat) : State :=
  s.modCore q (fun c => { c with out := c.out - tget 0 c.counted st, counted := tset 0 c.counted st 0 })

/-- The credit that homes have owed for 256 clk is returned (R160). -/
def creditDue (s : State) : State :=
  s.cores.foldl (fun s e => e.2.counted.foldl (fun s x =>
    if tget 0 e.2.countedAt x.1 + 256 ≤ s.clock then creditAll s e.1 x.1 else s) s) s

/-- The home reports performed writes to the slice's forward table (R186). -/
def fwdReport (s : State) (d i : Nat) : State :=
  s.modDie d (fun x =>
    match x.fwd[i]? with
    | some f => if f.sent ≤ f.done then { x with fwd := delAt x.fwd i } else x
    | none => x)

/-- Reports everything that has been performed for a die. -/
def fwdReportAll (s : State) (d : Nat) : State := s.modDie d (fun x => { x with fwd := x.fwd.filter (fun f => f.done < f.sent) })

/-- Performs all of core `q`'s Chute writes with their reports and credit. -/
def chuteFlush (s : State) (q : Nat) : State :=
  let s := chuteForceAll s (dieOf q) ((s.core q).chute.map (·.seq))
  let s := (List.range 8).foldl (fun s st => creditAll s q st) s
  fwdReportAll s (dieOf q)

/-- sr.WALLOW's bytes (R160). -/
def allowance (c : Core) : Nat := bits c.wallow.toNat 6 0 * 4096

/-- Sends a write into the Chute of core `q` in its current round (R164). A write that would pass the allowance waits for
credit, which the earlier writes bring (R160). -/
def chuteSend (s : State) (q : Nat) (w : ChuteW) : State :=
  let s := if w.limited && (s.core q).out + w.size > allowance (s.core q) then chuteFlush s q else s
  let n := (s.die (dieOf q)).fseq
  let s := s.modDie (dieOf q) (fun x => { x with fseq := n + 1 })
  s.modCore q (fun c => { c with
    chute := c.chute ++ [{ w with st := stackOf w.pa, round := c.round, seq := n }]
    out := if w.limited then c.out + w.size else c.out
    cur := if w.chain then c.cur else { c.cur with sent := tmod 0 c.cur.sent (stackOf w.pa) (· + 1) } })

/-- Routes a write of core `q`'s die to its memory home through the slices' forward table (R186). -/
def chuteRoute (s : State) (q : Nat) (w : ChuteW) : State :=
  let d := dieOf q
  let enter := fun (l : List Forward) (p : Nat) =>
    if l.any (fun f => f.pa == p) then l.map (fun f => if f.pa == p then { f with sent := f.sent + 1 } else f)
    else l ++ [{ pa := p, sent := 1, done := 0 }]
  chuteSend (s.modDie d (fun x => { x with fwd := w.words.foldl enter x.fwd })) q { w with fwd := some d }

/-- Lets every write of die `d` to word `p` be performed and reported, as a read of a forward-table word waits for (R186). -/
def fwdWait (s : State) (d p : Nat) : State :=
  if (s.die d).fwd.any (fun f => f.pa == p) then
    let s := chuteForceAll s d (((dieWrites s d).filter (fun w => w.words.contains p)).map (·.seq))
    fwdReportAll (nmuAll s (stackOf (p * 32))) d
  else s

/-! ### Budgets and rounds -/

/-- Whether budgets run: from STAGE 4 (R14). -/
def budgetsRun (s : State) : Bool := s.windowAt.isSome

/-- Clocks in a budget window, times ten (R14). -/
def windowTenths : Nat := 1179648

/-- Budget windows that have begun by now (R14). -/
def windowsBegun (s : State) : Nat :=
  match s.windowAt with
  | none => 0
  | some t0 => (s.clock - t0) * 10 / windowTenths + 1

/-- REMAIN is reloaded and the old grants lapse at the start of a stack's budget window (R161). -/
def windowStart (s : State) (st : Nat) : State :=
  let remain := (s.ctxs.filter (fun (_, c) => (tget 0 c.budget st).toNat % 2 ^ 32 != 0)).map
    (fun (i, c) => (i, (tget 0 c.budget st).toNat % 2 ^ 32))
  let n := windowsBegun s
  let s := s.modStack st (fun k => { k with remain := remain, window := n })
  let lapse := fun (g : Table Nat) => g.filter (fun e => e.1 % 8 != st)
  let s := { s with cores := tmap (fun _ c => { c with grants := lapse c.grants, stalled := c.stalled.filter (fun x => x.2 != st) }) s.cores }
  s.modHost (fun h => { h with grants := lapse h.grants })

/-- A window of the stack has begun and its start has not been taken yet. -/
def windowDue (s : State) (st : Nat) : Bool := (s.stack st).window < windowsBegun s

/-- Takes the start of a stack's budget window, if one is due. -/
def windowCatch (s : State) (st : Nat) : State := if windowDue s st then windowStart s st else s

/-- Asks the home for a grant of min(256, REMAIN) words (R161). -/
def askGrant (s : State) (q ctx st : Nat) : State × Nat :=
  let r := tget 0 (s.stack st).remain ctx
  let g := min 256 r
  let s := s.modStack st (fun k => { k with remain := tset 0 k.remain ctx (r - g) })
  (s.modCore q (fun c => { c with grants := tmod 0 c.grants (ctx * 8 + st) (· + g) }), g)

/-- Asks until the grant holds `want` words or the home has none left. -/
def askUntil (s : State) (q ctx st want : Nat) : Nat → State
  | 0 => s
  | n + 1 =>
    if tget 0 (s.core q).grants (ctx * 8 + st) ≥ want then s
    else
      let (s, g) := askGrant s q ctx st
      if g == 0 then s else askUntil s q ctx st want n

/-- Secures `words` of grant for a charged write of core `q` (R161): true when the grant holds them. Nothing is spent yet. -/
def secure (s : State) (q ctx st words : Nat) : State × Bool :=
  if !budgetsRun s then (s, true)
  else
    let s := windowCatch s st
    let have' := tget 0 (s.core q).grants (ctx * 8 + st)
    let s := if have' < 128 || have' < words then askUntil s q ctx st (max 128 words) 4200 else s
    (s, words ≤ tget 0 (s.core q).grants (ctx * 8 + st))

/-- Spends words of a secured grant (R161). -/
def spend (s : State) (q ctx st words : Nat) : State :=
  if !budgetsRun s then s
  else s.modCore q (fun c => { c with grants := tmod 0 c.grants (ctx * 8 + st) (· - words) })

/-- Clk until the next budget window of a stack begins, rounded up (R14, R162). -/
def toWindow (s : State) : Nat :=
  match s.windowAt with
  | none => 0
  | some t0 =>
    let e := (s.clock - t0) * 10
    let left := windowTenths - e % windowTenths
    (left + 9) / 10

/-- Closes core `q`'s rounds in order, the current one last (R165): every write it sent is performed and counted at its home, and the
rounds' counts return to 0. -/
def closeRound (s : State) (q : Nat) : State :=
  let s := nmuDrain (chuteFlush s q)
  let s := { s with hbms := tmap (fun _ k => { k with arr := k.arr.filter (fun e => e.1 / 4 != q) }) s.hbms }
  s.modCore q (fun c => { c with round := (c.round + 1) % 4, cur := {}, rounds := [] })

/-- Opens the closing of core `q`'s round for a waiting thread: the queries follow (R165). -/
def openClose (s : State) (q th : Nat) : State :=
  s.modCore q (fun c => { c with
    rounds := c.rounds ++ [{ c.cur with n := c.round, th := some th }], round := (c.round + 1) % 4, cur := {} })

/-- A home answers the query of core `q`'s oldest unclosed round when its count agrees (R165). -/
def roundAnswer (s : State) (q st : Nat) : State :=
  match (s.core q).rounds with
  | [] => s
  | r :: l =>
    if !r.answers.contains st && tget 0 (s.stack st).arr (q * 4 + r.n) == tget 0 r.sent st then
      s.modCore q (fun c => { c with rounds := { r with answers := st :: r.answers } :: l })
    else s

/-- The hub's reply when all eight homes have answered (R165). -/
def roundReply (s : State) (q : Nat) : State :=
  match (s.core q).rounds with
  | [] => s
  | r :: l =>
    if r.answers.length ≥ 8 then
      let s := { s with hbms := tmap (fun _ k => { k with arr := tdel (q * 4 + r.n) k.arr }) s.hbms }
      s.modCore q (fun c => { c with rounds := l })
    else s

end Sys2Proof.Machine
end

