-- ==== Sys2Proof/Machine/Slice.lean ====
section
/-! DEFINITION. The die cache and the L1 copies of a core (R106, R107, R126 to R146): sheaves, fills, recalls, write-backs, the
request table word by word, stamps and write signatures. A word number is PA / 32, a frame number PA / 512. -/
namespace Sys2Proof.Machine

/-- What a translation found of a page (R174): context, key slot, class, memory-side, force-nc. -/
structure Page where
  ctx : Nat := 0
  key : Nat := 0
  cls : Nat := 0
  ms  : Bool := false
  fnc : Bool := false
  deriving DecidableEq, Repr

/-- Slice of a physical address (R126). -/
def sliceOf (pa : Nat) : Nat :=
  bits pa 13 9 ^^^ bits pa 18 14 ^^^ bits pa 23 19 ^^^ bits pa 28 24 ^^^ bits pa 33 29 ^^^ bits pa 38 34 ^^^ (bits pa 39 39 * 16)
/-- Set within the slice (R126). -/
def setOf (pa : Nat) : Nat := bits pa 39 14 % 384
/-- The set of a word, over all slices of a die. -/
def setKey (p : Nat) : Nat := sliceOf (p * 32) * 384 + setOf (p * 32)

/-- Lays the sheaves of a set out one after another in its data store (R127). -/
def layout (l : List Sheaf) : List Sheaf :=
  (l.foldl (fun (acc : List Sheaf × Nat) x => (acc.1 ++ [{ x with slot := acc.2 }], acc.2 + x.words.length)) ([], 0)).1

/-- Where a set holds word `p`: sheaf index and index of the word in it (R131). -/
def sheafPos (l : List Sheaf) (p : Nat) : Option (Nat × Nat) :=
  match findNat (fun i => match l[i]? with
      | some x => x.frame == p / 16 && x.s ≤ p % 16 && p % 16 < x.s + x.words.length | none => false) l.length 0 with
  | some i => (match l[i]? with | some x => some (i, p % 16 - x.s) | none => none)
  | none => none

/-- The sheaf and the word of it that hold word `p` of a die's cache. -/
def held (s : State) (d p : Nat) : Option (Sheaf × SheafWord) :=
  let l := tget [] (s.die d).sets (setKey p)
  match sheafPos l p with
  | some (i, j) => (match l[i]? with | some x => (match x.words[j]? with | some w => some (x, w) | none => none) | none => none)
  | none => none

/-- Changes one held word. -/
def modHeld (s : State) (d p : Nat) (f : SheafWord → SheafWord) : State :=
  s.modDie d (fun x => { x with sets := tmod [] x.sets (setKey p) (fun l =>
    match sheafPos l p with
    | some (i, j) => (match l[i]? with
      | some sh => (match sh.words[j]? with
        | some w => setAt l i { sh with words := setAt sh.words j (f w) } | none => l)
      | none => l)
    | none => l) })

/-- A hit makes the sheaf the most recent of its set (R128). -/
def touch (s : State) (d p : Nat) : State :=
  s.modDie d (fun x => { x with sets := tmod [] x.sets (setKey p) (fun l =>
    match sheafPos l p with
    | some (i, _) => (match l[i]? with
      | some sh => setAt (l.map (fun y => if y.age < sh.age then { y with age := min 63 (y.age + 1) } else y)) i { sh with age := 0 }
      | none => l)
    | none => l) })

/-- Merges two sheaves when they are adjacent in one frame with equal KEY, CLASS and MS (R133). -/
def mergeTwo (a b : Sheaf) : Option Sheaf :=
  if a.frame == b.frame && a.key == b.key && a.cls == b.cls && a.ms == b.ms && a.s + a.words.length == b.s then
    some { a with words := a.words ++ b.words, phw := max a.phw b.phw, stamp := min a.stamp b.stamp, age := min a.age b.age }
  else none

/-- One merge of a set, if any two of its sheaves are adjacent (R133). -/
def mergeOnce (l : List Sheaf) : List Sheaf :=
  let n := l.length
  match findNat (fun k => match l[k / n]?, l[k % n]? with
      | some a, some b => k / n != k % n && (mergeTwo a b).isSome | _, _ => false) (n * n) 0 with
  | some k => (match l[k / n]?, l[k % n]? with
    | some a, some b => (match mergeTwo a b with
      | some m => delAt (setAt l (k / n) m) (k % n)
      | none => l)
    | _, _ => l)
  | none => l

/-- Merges until no two sheaves of the set are adjacent. -/
def mergeAll (l : List Sheaf) : List Sheaf := layout ((List.range l.length).foldl (fun l _ => mergeOnce l) l)

/-- Bytes of a word with the mask of those written. -/
def maskBytes (data : BitVec 256) (mask : BitVec 32) : List (Option Byte) :=
  (List.range 32).map (fun i => if mask.getLsbD i then some (data.extractLsb' (8 * i) 8) else none)
/-- Bytes of a word. -/
def wordBytes (data : BitVec 256) : List Byte := (List.range 32).map (fun i => data.extractLsb' (8 * i) 8)
/-- A word from its bytes. -/
def wordOf (l : List Byte) : BitVec 256 := BitVec.ofNat 256 (bytesToNat l)
/-- Merges masked bytes into a word from byte `i`. -/
def wordMerge (d : BitVec 256) (i : Nat) : List (Option Byte) → BitVec 256
  | [] => d
  | none :: l => wordMerge d (i + 1) l
  | some b :: l => wordMerge ((d &&& ~~~(0xFF#256 <<< (8 * i))) ||| ((b.setWidth 256) <<< (8 * i))) (i + 1) l
/-- The mask of written bytes from byte `i`. -/
def maskOf (i : Nat) : List (Option Byte) → BitVec 32
  | [] => 0
  | none :: l => maskOf (i + 1) l
  | some _ :: l => (1#32 <<< i) ||| maskOf (i + 1) l

/-- A Chute write of a held dirty word as its CORE (R134, R142), uncharged. -/
def writeBack (s : State) (d p : Nat) : State :=
  match held s d p with
  | none => s
  | some (x, w) =>
    if w.dirty then
      let s := chuteRoute s (d * 256 + w.core) { mkWrite (p * 32) (maskBytes w.data w.mask) 0 x.key x.cls false false with back := true }
      modHeld s d p (fun w => { w with dirty := false, mask := 0 })
    else s

/-- Sets the phase tag of the sheaf that holds word `p` (R128). -/
def setPhw (s : State) (d p tag : Nat) : State :=
  s.modDie d (fun x => { x with sets := tmod [] x.sets (setKey p) (fun l =>
    match sheafPos l p with
    | some (i, _) => (match l[i]? with | some sh => setAt l i { sh with phw := tag } | none => l)
    | none => l) })

/-- The core's L1 copy of word `p`. -/
def l1Get (c : Core) (p : Nat) : Option L1Word := (c.l1.find? (fun e => e.1 == p)).map (·.2)

/-- A recall of an owned word (R141): the L1 of its owner returns it and drops its copy. A recall that is on its way is over with it. -/
def recallWord (s : State) (d p : Nat) : State :=
  let s := s.modDie d (fun x => { x with recalls := x.recalls.filter (fun r => r.pa != p) })
  match held s d p with
  | none => s
  | some (_, w) =>
    if w.owned then
      let q := d * 256 + w.core
      match l1Get (s.core q) p with
      | some l =>
        let s := s.modCore q (fun c => { c with l1 := tdel p c.l1 })
        let s := if l.mask != 0 then setPhw s d p l.tag else s
        modHeld s d p (fun w => { w with
          owned := false
          data := wordMerge w.data 0 (maskBytes l.data l.mask)
          dirty := w.dirty || l.mask != 0
          mask := w.mask ||| l.mask })
      | none => modHeld s d p (fun w => { w with owned := false })
    else s

/-- Takes one word out of its sheaf, splitting it when the word lies inside (R134). -/
def removeWord (s : State) (d p : Nat) : State :=
  s.modDie d (fun x => { x with sets := tmod [] x.sets (setKey p) (fun l =>
    match sheafPos l p with
    | some (i, j) => (match l[i]? with
      | some sh =>
        let part := fun (s : Nat) (ws : List SheafWord) => if ws.isEmpty then [] else [{ sh with s := s, words := ws }]
        layout (l.take i ++ part sh.s (sh.words.take j) ++ part (sh.s + j + 1) (sh.words.drop (j + 1)) ++ l.drop (i + 1))
      | none => l)
    | none => l) })

/-- A word leaves the cache: an owned word is recalled and a dirty one written back first (R134). -/
def dropWord (s : State) (d p : Nat) : State := removeWord (writeBack (recallWord s d p) d p) d p

/-- Sheaf tags of a set (R126). -/
def setTags : Nat := 40
/-- Word slots of a set (R126). -/
def setWords : Nat := 128

/-- Trims a word out of its sheaf (R134): when the split leaves the set without a tag, the shorter part goes too, the lower one
on a tie. -/
def trimWord (s : State) (d p : Nat) : State :=
  match held s d p with
  | none => s
  | some (x, _) =>
    let l := tget [] (s.die d).sets (setKey p)
    let j := p % 16 - x.s
    let above := x.words.length - 1 - j
    let s := if l.length ≥ setTags && j > 0 && above > 0 then
        let base := x.frame * 16
        if j ≤ above then (List.range j).foldl (fun s k => dropWord s d (base + x.s + k)) s
        else ((List.range above).reverse).foldl (fun s k => dropWord s d (base + p % 16 + 1 + k)) s
      else s
    dropWord s d p

/-- A clean word of a page joins the sheaves of a set without a tag of its own (R133). -/
def joins (l : List Sheaf) (p : Nat) (pg : Page) : Bool :=
  l.any (fun x => x.frame == p / 16 && x.key == pg.key && x.cls == pg.cls && x.ms == pg.ms
    && (x.s == p % 16 + 1 || x.s + x.words.length == p % 16))

/-- Makes room for word `p` of a page in its set, taking words from the least recent sheaves, from their ends downward; a sheaf that holds
a word from `lo` to `hi` of the frame of `p`, for which the request waits, is passed over (R134). -/
def makeRoom (s : State) (d p : Nat) (pg : Page) (lo hi : Nat) : Nat → State
  | 0 => s
  | fuel + 1 =>
    let l := tget [] (s.die d).sets (setKey p)
    let used := l.foldl (fun a x => a + x.words.length) 0
    if used + 1 ≤ setWords && (l.length < setTags || joins l p pg) then s
    else
      let c := l.filter (fun x => !(x.frame == p / 16 && x.s ≤ hi && lo < x.s + x.words.length))
      let age := c.foldl (fun a x => max a x.age) 0
      match c.find? (fun x => x.age == age) with
      | some v => makeRoom (dropWord s d (v.frame * 16 + v.s + v.words.length - 1)) d p pg lo hi fuel
      | none => s

/-- A sheaf holds no clean word. -/
def Sheaf.noClean (x : Sheaf) : Bool := x.words.all (fun w => w.dirty || w.owned)

/-- Installs one word as a clean word, merging it with its neighbours (R132, R133); its STAMP is the die's, which a sheaf without a clean
word takes over (R143). A stream-class sheaf is inserted least recent (R128). -/
def install (s : State) (d p : Nat) (data : BitVec 256) (pg : Page) (lo hi : Nat) : State :=
  let s := makeRoom s d p pg lo hi 200
  let stamp := (s.die d).stamp
  let w : SheafWord := { data := data, mask := 0, dirty := false, owned := false, core := 0 }
  let sh : Sheaf := { frame := p / 16, s := p % 16, words := [w], key := pg.key, cls := pg.cls, ms := pg.ms, phw := 0,
                      stamp := stamp, slot := 0, age := if pg.cls == 2 then 63 else 0 }
  s.modDie d (fun x => { x with
    sets := tmod [] x.sets (setKey p) (fun l =>
      mergeAll (l.map (fun y => if y.frame == p / 16 && y.noClean then { y with stamp := stamp } else y) ++ [sh]))
    fills := x.fills.filter (fun f => f.pa / 32 != p) })

/-- Fetches word `p` from its home and installs it; none when the frame is POISON (R136). -/
def fetchWord (s : State) (d p : Nat) (pg : Page) (lo hi : Nat) : State × Option (BitVec 256) :=
  let s := fwdWait s d p
  let (s, r) := homeRead s (p * 32) 32 pg.ctx pg.key pg.cls
  match r with
  | none => (s.modDie d (fun x => { x with fills := x.fills.filter (fun f => f.pa / 512 != p / 16) }), none)
  | some bs => (install s d p (wordOf bs) pg lo hi, some (wordOf bs))

/-- Consults and trains the Gleaner of a core for a request of words `lo` to `hi` with SPAN 0 (R130), `va` being its first byte's address;
the answer is the span it gives, if sure. -/
def gleaner (s : State) (q pc va lo hi : Nat) : State × Option Nat :=
  let ix := bits pc 9 2 ^^^ bits va 19 12
  let tag := bits pc 17 10 ^^^ bits va 27 20
  let e := tget {} (s.core q).gleaner ix
  let span := if e.v && e.tag == tag && e.conf ≥ 2 then some (e.spanm1 + 1) else none
  let f := bits va 16 9
  let e' : Gleaner :=
    if !e.v || e.tag != tag then { v := true, tag := tag, spanm1 := 3, conf := 0, lo := lo, hi := hi, frm := f }
    else if e.frm == f then { e with lo := min e.lo lo, hi := max e.hi hi }
    else
      let m := e.hi - e.lo + 1
      let e := if m == e.spanm1 + 1 then { e with conf := min 3 (e.conf + 1) }
        else if e.conf > 0 then { e with conf := e.conf - 1 } else { e with spanm1 := m - 1 }
      { e with lo := lo, hi := hi, frm := f }
  (s.modCore q (fun c => { c with gleaner := tset {} c.gleaner ix e' }), span)

/-- A request at a die home: its page, SPAN, its words `lo` to `hi` in the frame, and the Gleaner's span (R129, R130). -/
structure Req where
  pg   : Page
  span : Nat := 0
  lo   : Nat
  hi   : Nat
  gl   : Option Nat := none
  deriving DecidableEq, Repr

/-- A request for one word of a page. -/
def wordReq (pg : Page) (p : Nat) : Req := { pg := pg, lo := p % 16, hi := p % 16 }

/-- The fill region of a request (R129): first and last word. -/
def Req.region (r : Req) : Nat × Nat :=
  match (if 1 ≤ r.span then some r.span else r.gl) with
  | some n =>
    let len := max n (r.hi - r.lo + 1)
    let a := min r.lo (16 - len)
    (a, a + len - 1)
  | none => (r.lo / 4 * 4, r.hi / 4 * 4 + 3)

/-- Puts the missing words of the fill region of a request in flight, but for the request's own, which it fetches itself (R132). -/
def startFill (s : State) (d frame : Nat) (r : Req) : State :=
  let (a, b) := r.region
  let want := (List.range (b + 1 - a)).map (· + a)
  let miss := want.filter (fun w => !(r.lo ≤ w && w ≤ r.hi) && (held s d (frame * 16 + w)).isNone
    && !(s.die d).fills.any (fun f => f.pa / 32 == frame * 16 + w))
  s.modDie d (fun x => { x with fills := x.fills ++ miss.map (fun w =>
    { pa := (frame * 16 + w) * 32, key := r.pg.key, cls := r.pg.cls, ms := r.pg.ms, ctx := r.pg.ctx, age := 0 }) })

/-- Fill data arrives: the word is installed unless the frame is POISON, in which case no pending word of the frame is (R136). -/
def fillArrive (s : State) (d i : Nat) : State :=
  match (s.die d).fills[i]? with
  | none => s
  | some f =>
    let s := s.modDie d (fun x => { x with fills := delAt x.fills i })
    let p := f.pa / 32
    if (held s d p).isSome then s
    else (fetchWord s d p { ctx := f.ctx, key := f.key, cls := f.cls, ms := f.ms } (p % 16) (p % 16)).1

/-- The fill of a pending word arrives, as a write to it waits for (R136). -/
def fillWait (s : State) (d p : Nat) : State :=
  match (s.die d).fills.findIdx? (fun f => f.pa / 32 == p) with
  | some i => fillArrive s d i
  | none => s

/-- Whether a clean word of the sheaf is a miss for core `q` (R143, R170). -/
def stale (c : Core) (x : Sheaf) : Bool := x.stamp < (if x.ms then max c.acqStamp c.msStamp else c.acqStamp)

/-- Fetches every clean word of the sheaf of `p` again (R143); a POISON frame's words go. -/
def refetch (s : State) (d p : Nat) (pg : Page) : State × Bool :=
  match held s d p with
  | none => (s, true)
  | some (x, _) =>
    let ps := (List.range x.words.length).map (fun j => x.frame * 16 + x.s + j)
    let (s, ok) := ps.foldl (fun (s, ok) p' =>
      match held s d p' with
      | some (_, w) =>
        if w.dirty || w.owned then (s, ok)
        else
          let s := fwdWait s d p'
          let (s, r) := homeRead s (p' * 32) 32 pg.ctx pg.key pg.cls
          (match r with
           | some bs => (modHeld s d p' (fun w => { w with data := wordOf bs }), ok)
           | none => (trimWord s d p', ok && p' != p))
      | none => (s, ok)) (s, true)
    (s.modDie d (fun y => { y with sets := tmod [] y.sets (setKey p) (fun l =>
      match sheafPos l p with
      | some (i, _) => (match l[i]? with | some sh => setAt l i { sh with stamp := y.stamp } | none => l)
      | none => l) }), ok)

/-- Brings word `p` into the die cache for core `q` and answers it (R135, R139, R143): an owned word is recalled, a stale clean
word fetched again, a missing one filled with its region. None: POISON. -/
def sliceGet (s : State) (q p : Nat) (r : Req) : State × Option (BitVec 256) :=
  let d := dieOf q
  let s := recallWord (fwdWait s d p) d p
  match held s d p with
  | some (x, w) =>
    let s := touch s d p
    if !w.dirty && stale (s.core q) x then
      let (s, ok) := refetch s d p r.pg
      if ok then (s, (held s d p).map (fun e => e.2.data)) else (s, none)
    else (s, some w.data)
  | none => fetchWord (startFill s d (p / 16) r) d p r.pg r.lo r.hi

/-! ### L1 copies and the victim pool -/

/-- Whether a core has an L1 (R107). -/
def hasL1 (c : Core) : Bool := c.loftCur != 0

/-- Bytes of the cache portion (R104, R105). -/
def cachePart (code : Nat) : Nat := match code with | 0 => 0 | 1 => 65536 | 2 => 131072 | _ => 262144

/-- Writes an L1 own copy's bytes back to its slice, keeping the copy clean (R139, R142). -/
def l1Back (s : State) (q p : Nat) : State :=
  let d := dieOf q
  match l1Get (s.core q) p with
  | some l =>
    if l.own && l.mask != 0 then
      let s := setPhw s d p l.tag
      let s := modHeld s d p (fun w => { w with
        data := wordMerge w.data 0 (maskBytes l.data l.mask)
        dirty := true
        mask := w.mask ||| l.mask
        core := q % 256 })
      s.modCore q (fun c => { c with l1 := tins p { l with mask := 0 } c.l1 })
    else s
  | none => s

/-- The core's copy of word `p` goes: an own one is written back and released (R139). -/
def l1Drop (s : State) (q p : Nat) : State :=
  match l1Get (s.core q) p with
  | some l =>
    let s := l1Back s q p
    let s := s.modCore q (fun c => { c with l1 := tdel p c.l1 })
    if l.own then modHeld s (dieOf q) p (fun w => { w with owned := false }) else s
  | none => s

/-- The core's own copy of word `p` is written back and released before another request of the core for it (R139); an si copy stays
(R184). -/
def l1Release (s : State) (q p : Nat) : State :=
  match l1Get (s.core q) p with
  | some l => if l.own then l1Drop s q p else s
  | none => s

/-- The members of core `q`'s victim pool (R106): the cores of sr.VICGROUP that have a cache portion, when there are two or more in it and
`q` is one of them. -/
def poolMates (s : State) (q : Nat) : List Nat :=
  let grp := (s.clus (clusOf q)).vicgroup
  let l := (List.range 8).filter (fun i => grp.getLsbD i)
  if l.length ≥ 2 && l.contains (q % 8) && hasL1 (s.core q) then (l.map (fun i => clusOf q * 8 + i)).filter (fun r => hasL1 (s.core r)) else []

/-- A pool that holds more than its members' cache portions gives up a line (R106). -/
def poolTrim (s : State) (ms : List Nat) : State :=
  let words := ms.foldl (fun n r => n + (s.core r).l1.length) 0
  let room := ms.foldl (fun n r => n + cachePart (s.core r).loftCur) 0
  if words * 32 ≤ room then s
  else
    match ms.findSome? (fun r => ((s.core r).l1.find? (fun e => e.2.pool)).map (fun e => (r, e.1 / 2))) with
    | some (r, line) => l1Drop (l1Drop s r (2 * line)) r (2 * line + 1)
    | none => s

/-- Core `q` evicts the line of word `v` from its L1 (R106): dirty words are written back, and the clean line moves into the victim pool when
the core belongs to one. -/
def l1Evict (s : State) (q v : Nat) : State :=
  let line := [v / 2 * 2, v / 2 * 2 + 1]
  match poolMates s q with
  | [] => line.foldl (fun s p => l1Drop s q p) s
  | ms =>
    let s := line.foldl (fun s p => l1Back s q p) s
    let s := s.modCore q (fun c => { c with l1 := tmap (fun p l => if line.contains p then { l with pool := true } else l) c.l1 })
    poolTrim s ms

/-- Puts a copy into the core's L1; a full L1 lets its first other line go. -/
def l1Put (s : State) (q p : Nat) (l : L1Word) : State :=
  let c := s.core q
  let full := (c.l1.filter (fun e => !e.2.pool)).length * 32 ≥ cachePart c.loftCur && !(c.l1.any (fun e => e.1 == p))
  let s := if full then
      (match c.l1.find? (fun e => !e.2.pool && e.1 / 2 != p / 2) with
       | some (v, _) => l1Evict s q v
       | none => s)
    else s
  s.modCore q (fun c => { c with l1 := tins p l c.l1 })

/-- A copy of a word of a page, as it is filled. -/
def newCopy (s : State) (own : Bool) (v : BitVec 256) (pg : Page) (tag : Nat) : L1Word :=
  { own := own, data := v, mask := 0, key := pg.key, cls := pg.cls, ms := pg.ms, tag := tag, at_ := s.clock }

/-- Whether core `q` may take pool copy `l` (R106): an si copy only if it was filled since the core's last acquire and boundary, which would
have ended it (R139, R145). -/
def poolUsable (s : State) (q : Nat) (l : L1Word) : Bool := l.pool && (l.own || (s.core q).acqAt < l.at_)

/-- A member's L1 miss of word `p` probes the victim pool (R106): the line moves into its L1. An own copy brings the ownership, or for an si
request leaves an si copy and releases the word; an own request finds no si copy. -/
def poolHit (s : State) (q p : Nat) (own : Bool) (tag : Nat) : State :=
  match (poolMates s q).find? (fun r => match l1Get (s.core r) p with | some l => poolUsable s q l && (l.own || !own) | none => false) with
  | none => s
  | some r =>
    [p, p / 2 * 2 + (1 - p % 2)].foldl (fun s w =>
      match l1Get (s.core r) w with
      | none => s
      | some l =>
        if !(poolUsable s q l && (l.own || !own)) || (r != q && (l1Get (s.core q) w).isSome) then s
        else
          let s := s.modCore r (fun c => { c with l1 := tdel w c.l1 })
          let s := if l.own then modHeld s (dieOf q) w (fun x => { x with owned := own, core := if own then q % 256 else x.core }) else s
          l1Put s q w { l with own := own, pool := false, tag := tag }) s

/-! ### Reads -/

/-- The request type that a page leaves of the one named (R140). -/
def effRq (pg : Page) (rq : Rq) : Rq :=
  if pg.fnc then .nc else if pg.ms then (match rq with | .si => .si | _ => .nc) else rq

/-- Marks held word `p` as owned by core `q`, whose L1 takes it (R139). Bytes that another core has dirtied go home as that core's, so that
its release covers them (R142), and DIRTY stays. -/
def grantOwn (s : State) (q p : Nat) (v : BitVec 256) (pg : Page) (tag : Nat) : State :=
  let d := dieOf q
  let s := match held s d p with
    | some (_, w) =>
      if w.dirty && w.core != q % 256 then modHeld (writeBack s d p) d p (fun w => { w with dirty := true }) else s
    | none => s
  let s := modHeld s d p (fun w => { w with owned := true, core := q % 256 })
  l1Put s q p (newCopy s true v pg tag)

/-- The words of a core's request on an L1 miss of word `p`: the two of its line (R129). -/
def Req.line (r : Req) (p : Nat) : Req := { r with lo := min r.lo (p % 16 / 2 * 2), hi := max r.hi (p % 16 / 2 * 2 + 1) }

/-- Takes word `p` as own for core `q` (R139): from its L1, the victim pool, or the slice; an si copy of the core goes. -/
def ownWord (s : State) (q p : Nat) (r : Req) (tag : Nat) : State × Option (BitVec 256) :=
  match l1Get (s.core q) p with
  | some { own := true, data := v, pool := false, .. } => (s, some v)
  | _ =>
    let s := poolHit s q p true tag
    match l1Get (s.core q) p with
    | some { own := true, data := v, .. } => (s, some v)
    | _ =>
      let s := s.modCore q (fun c => { c with l1 := tdel p c.l1 })
      let (s, a) := sliceGet s q p r
      match a with
      | some v => (grantOwn s q p v r.pg tag, some v)
      | none => (s, none)

/-- An own request takes both words of the line (R129). -/
def ownLine (s : State) (q p : Nat) (r : Req) (tag : Nat) : State × Option (BitVec 256) :=
  let r := r.line p
  let o := p / 2 * 2 + (1 - p % 2)
  let (s, a) := ownWord s q p r tag
  let own := match l1Get (s.core q) o with | some l => l.own && !l.pool | none => false
  (if a.isNone || own then s else (ownWord s q o r tag).1, a)

/-- An si read of core `q` fills its L1 with both words of the line (R129, R139). -/
def shareLine (s : State) (q p : Nat) (r : Req) (tag : Nat) : State × Option (BitVec 256) :=
  let s := poolHit s q p false tag
  match l1Get (s.core q) p with
  | some { data := v, pool := false, .. } => (s, some v)
  | _ =>
    let r := r.line p
    let o := p / 2 * 2 + (1 - p % 2)
    let (s, a) := sliceGet s q p r
    match a with
    | none => (s, none)
    | some v =>
      let s := l1Put s q p (newCopy s false v r.pg tag)
      let s := if (l1Get (s.core q) o).isSome then s else
        (match sliceGet s q o r with
         | (s, some x) => l1Put s q o (newCopy s false x r.pg tag)
         | (s, none) => s)
      (s, some v)

/-- The core's L1 answers a read of word `p` (R182 item 2). -/
def l1Hit (c : Core) (p : Nat) (rq : Rq) : Option (BitVec 256) :=
  match l1Get c p with
  | some l => if !l.pool && (l.own || rq == .si) then some l.data else none
  | none => none

/-- A read that is performed at the die home without a copy in the L1: nc, wt and loc (R139, R140). -/
def ncRead (s : State) (q p : Nat) (pg : Page) : State × Option (BitVec 256) :=
  let d := dieOf q
  let home := fun (s : State) => let (s, r) := homeRead s (p * 32) 32 pg.ctx pg.key pg.cls; (s, r.map wordOf)
  let s := recallWord (fwdWait s d p) d p
  match held s d p with
  | none => home s
  | some (x, w) =>
    if pg.ms then home s
    else if !w.dirty && stale (s.core q) x then
      let (s, ok) := refetch s d p pg
      if ok then (s, (held s d p).map (fun e => e.2.data)) else (s, none)
    else (touch s d p, some w.data)

/-- A read performed at the memory home, as an acquire of device or system scope makes it (R182, R189): any own copy and any dirty copy of
the die go there first, and the read installs a copy as its request type directs. -/
def homeAcquire (s : State) (q p : Nat) (r : Req) (rq : Rq) (tag : Nat) : State × Option (BitVec 256) :=
  let d := dieOf q
  let s := fwdWait (writeBack (recallWord (l1Release s q p) d p) d p) d p
  let (s, a) := homeRead s (p * 32) 32 r.pg.ctx r.pg.key r.pg.cls
  match a with
  | none => (s, none)
  | some bs =>
    let v := wordOf bs
    let s := modHeld s d p (fun w => { w with data := v })
    if rq == .own || rq == .si then
      let s := if (held s d p).isSome then s else install s d p v r.pg r.lo r.hi
      (if rq == .own && hasL1 (s.core q) then grantOwn s q p v r.pg tag else s, some v)
    else (s, some v)

/-- A read of word `p` by core `q` (R139, R140, R182 items 2 to 4). `acq` is the scope of an acquire read, `tag` the phase tag of the thread.
None: POISON. -/
def readWord (s : State) (q p : Nat) (r : Req) (rq : Rq) (acq : Option Scope) (tag : Nat) : State × Option (BitVec 256) :=
  let rq := effRq r.pg rq
  let bypass := match acq with | some a => decide (scopeNum a ≥ 2) | none => false
  let home := match acq with | some a => wide a | none => false
  if home then homeAcquire s q p r rq tag
  else if !(rq == .own || rq == .si) then ncRead (l1Release s q p) q p r.pg
  else if bypass || !hasL1 (s.core q) then sliceGet (l1Release s q p) q p r
  else
    match l1Hit (s.core q) p rq with
    | some v => (s, some v)
    | none => if rq == .own then ownLine s q p r tag else shareLine s q p r tag

/-! ### Write signatures and phases -/

/-- Sets the two signature bits of the 64-byte block of `pa` (R144). -/
def sigBits (pa : Nat) : BitVec 1024 :=
  let b := bits pa 39 6
  let h1 := bits b 9 0 ^^^ bits b 19 10 ^^^ bits b 29 20 ^^^ (bits b 33 30 * 64)
  let h2 := bits b 14 5 ^^^ bits b 24 15 ^^^ (bits b 4 0 * 32) ^^^ bits b 33 25
  (1#1024 <<< h1) ||| (1#1024 <<< h2)

/-- Adds bits to a core's write signature. -/
def addSig (s : State) (q : Nat) (b : BitVec 1024) : State := s.modCore q (fun c => { c with sig := c.sig ||| b, sigNew := c.sigNew ||| b })

/-- Records a block in a core's write signature (R144). -/
def recordSig (s : State) (q pa : Nat) : State := addSig s q (sigBits pa)

/-- Number of a thread's level-j instance in its crew: the mixed-radix value of its indices 0 to j (R82, R83). -/
def levelInst (ls : List Level) (idx : List Nat) (j : Nat) : Nat :=
  (List.range (j + 1)).foldl (fun a i => a * ((ls[i]?).map (·.count)).getD 1 + (idx[i]?).getD 0) 0

/-- Key of a phase group: node, level, instance. -/
def phaseKey (node j inst : Nat) : Nat := node * 2 ^ 16 + j * 2 ^ 13 + inst

/-- Low 8 bits of the phase count of a thread's innermost group (R128). -/
def phaseTag (s : State) (th : Nat) : Nat :=
  let t := s.th th
  let ls := (s.node t.node).lrec.levels
  let j := ls.length - 1
  (tget {} s.phases (phaseKey t.node j (levelInst ls t.idx j))).count % 256

/-! ### Writes -/

/-- A write performed at the slice on a held word: D, CORE := q, after the write-back of another core's dirty word (R139, R142). -/
def writeHeld (s : State) (q p : Nat) (bs : List (Option Byte)) (phw : Nat) : State :=
  let d := dieOf q
  let s := match held s d p with
    | some (_, w) => if w.dirty && w.core != q % 256 then writeBack s d p else s
    | none => s
  let s := touch s d p
  let s := modHeld s d p (fun w => { w with data := wordMerge w.data 0 bs, dirty := true, core := q % 256, mask := w.mask ||| maskOf 0 bs })
  setPhw s d p phw

/-- Sends a write to its memory home through the forward table, after the slice has let its words go: recalled, written
back and trimmed (R138, R140, R186). -/
def writeHome (s : State) (q : Nat) (w : ChuteW) : State :=
  chuteRoute (w.words.foldl (fun s p => trimWord (l1Release s q p) (dieOf q) p) s) q w

/-- A write of some bytes finds its frame POISON (R136, R152). -/
def writeLost (s : State) (p : Nat) : State := poisonDrop s (p * 32)

/-- A drained write of core `q` to one word is accepted (R139, R140, R181): `bs` are the word's 32 bytes, masked; `home` says
that it is a release of device or system scope (R188), `phw` is the thread's phase tag. -/
def writeWord (s : State) (q p : Nat) (bs : List (Option Byte)) (r : Req) (rq : Rq) (home : Bool) (phw : Nat) : State :=
  let d := dieOf q
  let pg := r.pg
  let s := recordSig s q (p * 32)
  let charged := home || rq == .nc || pg.ms || pg.fnc
  let rq := effRq pg rq
  if home || pg.ms then writeHome s q (mkWrite (p * 32) bs pg.ctx pg.key pg.cls true true)
  else if rq == .own && hasL1 (s.core q) then
    match ownLine s q p r phw with
    | (s, some v) =>
      let l := (l1Get (s.core q) p).getD (newCopy s true v pg phw)
      l1Put s q p { l with data := wordMerge l.data 0 bs, mask := l.mask ||| maskOf 0 bs, tag := phw }
    | (s, none) => writeLost s p
  else
    let s := recallWord (fwdWait (fillWait (l1Release s q p) d p) d p) d p
    if (held s d p).isSome then writeHeld s q p bs phw
    else if rq == .nc then chuteRoute s q (mkWrite (p * 32) bs pg.ctx pg.key pg.cls charged charged)
    else if bs.all Option.isSome then writeHeld (install s d p 0 pg r.lo r.hi) q p bs phw
    else
      match fetchWord (startFill s d (p / 16) r) d p pg r.lo r.hi with
      | (s, some _) => writeHeld s q p bs phw
      | (s, none) => writeLost s p

/-- Whether an atomic is performed by the near-memory unit (R138). -/
def atHome (wideSc : Bool) (pg : Page) : Bool := wideSc || pg.ms || pg.fnc

/-- A drained atomic of core `q` is accepted (R138, R167): performed at the slice on its word, or on its way to the near-memory unit as a
charged Chute write of one word. -/
def atomicWord (s : State) (q p : Nat) (e : SbEntry) (r : Req) (op : Rmw) (th phw : Nat) : State :=
  let d := dieOf q
  let pg := r.pg
  let s := recordSig s q (p * 32)
  let ret := e.ret.map (fun x => (th, e.seq, x))
  if atHome (wide e.scope) pg then
    writeHome s q { mkWrite (p * 32 + e.at_) [] pg.ctx pg.key pg.cls true true with op := some op, ret := ret }
  else
    match sliceGet (fillWait (l1Release s q p) d p) q p r with
    | (s, none) => giveRet (if e.ret.isSome then s else writeLost s p) 0 ret
    | (s, some w) =>
      let old := bytesToNat (((wordBytes w).drop e.at_).take op.size)
      let s := match op.new old with
        | some x => writeHeld s q p (List.replicate e.at_ none ++ (natToBytes op.size x).map some) phw
        | none => s
      giveRet s old ret

/-! ### Stamps, acquires and write-backs -/

/-- Drops every si copy of a core, the victim pool's included (R139, R189). -/
def dropSi (s : State) (q : Nat) : State := s.modCore q (fun c => { c with l1 := c.l1.filter (fun e => e.2.own), acqAt := s.clock })

/-- The words of a die's cache that satisfy `f`. -/
def wordsWhere (s : State) (d : Nat) (f : SheafWord → Bool) : List Nat :=
  ((s.die d).sets.map (fun e => (e.2.map (fun sh =>
    ((List.range sh.words.length).filter (fun j => match sh.words[j]? with | some w => f w | none => false)).map
      (fun j => sh.frame * 16 + sh.s + j))).flatten)).flatten

/-- Advances a die's stamp; at the wrap every clean word is dropped and every acquire stamp of the die is 0 (R143). -/
def advanceStamp (s : State) (d : Nat) : State :=
  let n := ((s.die d).stamp + 1) % 65536
  let s := s.modDie d (fun x => { x with stamp := n })
  if n == 0 then
    let s := (wordsWhere s d (fun w => !(w.dirty || w.owned))).foldl (fun s p => trimWord s d p) s
    let s := s.modDie d (fun x => { x with sets := tmap (fun _ l => l.map (fun sh => { sh with stamp := 0 })) x.sets })
    { s with cores := tmap (fun q c => if dieOf q == d then { c with acqStamp := 0, msStamp := 0 } else c) s.cores }
  else s

/-- The acquire steps of R189 for core `q`. -/
def acquireSteps (s : State) (q : Nat) (sc : Scope) : State :=
  if scopeNum sc ≤ 2 then s
  else if scopeNum sc == 3 then
    let s := dropSi s q
    s.modCore q (fun c => { c with acqStamp := (s.die (dieOf q)).stamp })
  else
    let s := dropSi s q
    let s := advanceStamp s (dieOf q)
    let n := (s.die (dieOf q)).stamp
    s.modCore q (fun c => { c with acqStamp := n, msStamp := n })

/-- Steps 1 and 2 of R142 for core `q`: its dirty owned words go to their slices, and every slice writes back the dirty words
whose CORE is q. -/
def pushDirty (s : State) (q : Nat) : State :=
  let s := (s.core q).l1.foldl (fun s e => l1Back s q e.1) s
  (wordsWhere s (dieOf q) (fun w => w.dirty && w.core == q % 256)).foldl (fun s p => writeBack s (dieOf q) p) s

end Sys2Proof.Machine
end

