-- ==== Sys2Proof/Machine/Addr.lean ====
section
/-! DEFINITION. Addresses (R101 to R105, R173 to R176) and instruction fetch (R98, R99, R237 to R239). -/
namespace Sys2Proof.Machine

/-- A local window address (R102). -/
def isLocal (va : Nat) : Bool := va / 2 ^ 56 == 0xFF

/-- Scratch size S of a core (R104). -/
def scratch (s : State) (q : Nat) : Nat := 524288 - cachePart (s.core q).loftCur
/-- CTXBASE of a core (R104). -/
def ctxBase (s : State) (q : Nat) : Nat := scratch s q - 16384

/-- The home of byte `o` of core `q`'s Loft (R109). -/
def loftKey (q o : Nat) : Nat := q * 2 ^ 19 + o
/-- The home of byte `o` of a die's Granary (R109). -/
def granKey (d o : Nat) : Nat := 2 ^ 32 + d * 2 ^ 24 + o
/-- What a local byte that nothing has written reads as. -/
def locDefault : Byte := 0

/-- Where a local window address points (R102): a core's Loft and offset, the Granary and offset, or nowhere. -/
inductive Win where
  | loft (q o : Nat) | gran (d o : Nat) | none
  deriving DecidableEq, Repr

/-- Resolves a local window address of core `q` (R102), before its bound is checked. -/
def window (q va : Nat) : Win :=
  let o := va % 2 ^ 56
  if o < 2 ^ 52 then .loft q o
  else if o / 2 ^ 52 == 1 then
    let x := o % 2 ^ 52
    if x < 2 ^ 22 then .loft (q / 8 * 8 + x / 2 ^ 19) (x % 2 ^ 19) else .none
  else if o / 2 ^ 52 == 2 then .gran (dieOf q) (o % 2 ^ 52) else .none

/-- The Loft ranges that crews of a context hold on a core, running or pre-empted (R79, R103). -/
def crewRanges (s : State) (q ctx : Nat) : List (Nat × Nat) :=
  (s.nodes.map (fun (id, n) =>
    if ctxOf id == ctx && (n.st == .dispatched || n.st == .running || (n.st == .ready && n.preempted)) then
      (n.place.filter (fun sh => sh.q == q && sh.size != 0)).map (fun sh => (sh.base, sh.size))
    else [])).flatten

/-- Whether the ranges cover bytes o to o + n − 1. -/
def covered (rs : List (Nat × Nat)) (o n : Nat) : Nat → Bool
  | 0 => n == 0
  | fuel + 1 =>
    if n == 0 then true
    else
      match rs.find? (fun r => r.1 ≤ o && o < r.1 + r.2) with
      | some r => let m := r.1 + r.2 - o; if n ≤ m then true else covered rs (o + m) (n - m) fuel
      | none => false

/-- R103 for bytes o to o + n − 1 of core `q`'s Loft. -/
def loftAllowed (s : State) (q ctx : Nat) (sup : Bool) (o n : Nat) : Bool :=
  sup || (o + n ≤ ctxBase s q && covered (crewRanges s q ctx) o n 64)

/-- The parts of `n` Barn bytes from byte `o` of core `q`, a core and its bytes each: a range runs on into the next core of the
cluster where the core's scratch portion is the whole 512 KiB (R102); none where a byte lies beyond a core's scratch portion. -/
def loftPieces (s : State) (q o n : Nat) : Nat → Option (List (Nat × Nat × Nat))
  | 0 => none
  | fuel + 1 =>
    if o + n ≤ scratch s q then some [(q, o, n)]
    else if scratch s q == 2 ^ 19 && q % 8 != 7 && o ≤ 2 ^ 19 then
      (loftPieces s (q + 1) 0 (o + n - 2 ^ 19) fuel).map (fun l => (q, o, 2 ^ 19 - o) :: l)
    else none

/-- The window and permission checks of a local access of `n` bytes (R102, R103), answering its home. The own Loft window is one
core's; a Barn range may hold bytes of several cores. -/
def localCheck (s : State) (q ctx : Nat) (sup : Bool) (va n : Nat) : Chk Nat :=
  match window q va with
  | .loft q' o =>
    match loftPieces s q' o n (if va % 2 ^ 56 / 2 ^ 52 == 1 then 8 else 1) with
    | some l => if l.all (fun x => loftAllowed s x.1 ctx sup x.2.1 x.2.2) then .ok (loftKey q' o) else .error ⟨cPROT, 0⟩
    | none => .error ⟨cADDR, va⟩
  | .gran d o => if o + n ≤ 2 ^ 24 then .ok (granKey d o) else .error ⟨cADDR, va⟩
  | .none => .error ⟨cADDR, va⟩

/-- A byte of the 4 KiB that the device keeps at the top of a save-record area, which reads as zero (R104). -/
def reservedByte (s : State) (k : Nat) : Bool :=
  k < 2 ^ 29 && (let q := k / 2 ^ 19; ctxBase s q + 0x3000 ≤ k % 2 ^ 19 && k % 2 ^ 19 < scratch s q)

/-- Bytes at a local home. -/
def locRead (s : State) (k n : Nat) : List Byte :=
  (List.range n).map (fun i => if reservedByte s (k + i) then 0 else tget locDefault s.loc (k + i))
/-- Masked bytes written at a local home. -/
def locWrite (s : State) (k : Nat) (bs : List (Option Byte)) : State := { s with loc := mwriteMask locDefault s.loc k bs }

/-- A page-table entry with a fault of format (R175): reserved bits, CLASS 3, SIZE at a level that has none, a misaligned leaf. -/
def pteBad (pte level : Nat) : Bool :=
  let big := bit pte 1
  let leaf := big || level == 3
  bits pte 46 40 != 0 || bits pte 15 2 != 0 || bits pte 53 52 == 3 || (big && level != 2)
    || (big && level == 2 && bits pte 28 16 != 0) || (!leaf && bits pte 63 40 != 0)

/-- EINFO of a translation fault (R175). -/
def xInfo (va low : Nat) : Nat := va % 2 ^ 56 / 256 * 256 + low

/-- The walk from a level on (R173, R175): the leaf and whether it is a 512 MiB one. -/
def walk (s : State) (ctx va table : Nat) : Nat → State × Chk (Word × Bool)
  | 0 => (s, .error ⟨cXLATE, xInfo va 3⟩)
  | fuel + 1 =>
    let level := 3 - fuel
    let ix := if level == 1 then bits va 54 42 else if level == 2 then bits va 41 29 else bits va 28 16
    let (s, r) := homeRead s (table + ix * 8) 8 ctx 0 0
    match r with
    | none => (s, .error ⟨cPOISON, va⟩)
    | some bs =>
      let pte := bytesToNat bs
      if !bit pte 0 then (s, .error ⟨cXLATE, xInfo va level⟩)
      else if pteBad pte level then (s, .error ⟨cXLATE, xInfo va (level + 0x10)⟩)
      else if level == 3 || bit pte 1 then (s, .ok (BitVec.ofNat 64 pte, bit pte 1))
      else walk s ctx va (bits pte 39 16 * 65536) fuel

/-- Puts an entry at the head of a list in which entries of one set, as `same` tells, keep at most `ways` places: the set's oldest one goes. -/
def setPut {α : Type} (same : α → Bool) (ways : Nat) (e : α) (l : List α) : List α :=
  e :: ((l.filter same).take (ways - 1) ++ l.filter (fun x => !same x))

/-- A TLB entry that covers an address. -/
def tlbHit (ctx va : Nat) (e : TlbEntry) : Bool := e.ctx == ctx && e.vpn == (if e.big then va / 2 ^ 29 else va / 2 ^ 16)

/-- The leaf for an address (R176): from the micro-TLB, the cluster TLB, the die translation cache, or a walk whose leaf all three
then hold; each drops its oldest entry when it is full, the cluster TLB within its set of 8 (its index: PRESUMED, log 104). -/
def leaf (s : State) (q ctx va : Nat) : State × Chk (Word × Bool) :=
  let find := fun (l : List TlbEntry) => l.find? (tlbHit ctx va)
  match (find (s.core q).utlb).orElse (fun _ => (find (s.clus (clusOf q)).tlb).orElse (fun _ => find (s.die (dieOf q)).tcache)) with
  | some e => (s, .ok (e.pte, e.big))
  | none =>
    match walk s ctx va (bits (s.ctx ctx).ptroot.toNat 39 16 * 65536) 3 with
    | (s, .error f) => (s, .error f)
    | (s, .ok (pte, big)) =>
      let e : TlbEntry := { ctx := ctx, vpn := if big then va / 2 ^ 29 else va / 2 ^ 16, big := big, pte := pte }
      let s := s.modCore q (fun c => { c with utlb := (e :: c.utlb).take 32 })
      let s := s.modClus (clusOf q) (fun c => { c with tlb := setPut (fun x => x.vpn % 64 == e.vpn % 64) 8 e c.tlb })
      (s.modDie (dieOf q) (fun d => { d with tcache := (e :: d.tcache).take 16384 }), .ok (pte, big))

/-- The kinds of access that R175 tells apart. -/
inductive Acc where
  | read | write | fetch
  deriving DecidableEq, Repr

/-- Permission and key of a leaf (R175). -/
def pteAllow (s : State) (pte : Nat) (sup : Bool) (a : Acc) (va : Nat) : Chk PUnit :=
  if (bit pte 49 && !sup) || (a == .write && !bit pte 47) || (a == .fetch && !bit pte 48) then .error ⟨cPROT, xInfo va 0⟩
  else if !keyLoaded s (bits pte 63 54) then .error ⟨cKEYDEAD, xInfo va 0⟩
  else .ok ⟨⟩

/-- Translation of a device virtual address (R173 to R176): the physical address and the page. -/
def translate (s : State) (q ctx : Nat) (sup : Bool) (va : Nat) (a : Acc) : State × Chk (Nat × Page) :=
  if va ≥ 2 ^ 55 then (s, .error ⟨cADDR, va⟩)
  else
    match leaf s q ctx va with
    | (s, .error f) => (s, .error f)
    | (s, .ok (pte, big)) =>
      let p := pte.toNat
      match pteAllow s p sup a va with
      | .error f => (s, .error f)
      | .ok _ =>
        let pa := if big then bits p 39 29 * 2 ^ 29 + va % 2 ^ 29 else bits p 39 16 * 65536 + va % 65536
        (s, .ok (pa, { ctx := ctx, key := bits p 63 54, cls := bits p 53 52, ms := bit p 50, fnc := bit p 51 }))

/-- The fetch port delivers a block (R98): the acting thread and every thread of the cluster whose next instruction stands in that block of
that context take it into their fetch buffers, of two blocks. -/
def deliver (s : State) (q ctx blk : Nat) (bs : List Byte) : State :=
  (List.range 32).foldl (fun s i =>
    let th := clusOf q * 32 + i
    let t := s.th th
    if th == s.cur || (t.live && t.ctx == ctx && t.pc.toNat / 32 == blk && !t.fbuf.any (fun e => e.1 == blk)) then
      s.modTh th (fun t => { t with fbuf := setPut (fun _ => true) 2 (blk, bs) t.fbuf })
    else s) s

/-- The 32 bytes of a fetch block (R98), translated and checked under R175: from the acting thread's fetch buffer, the cluster's 8-way
instruction cache (its index: PRESUMED, log 104), or an si read of the die cache that fills it. -/
def fetchBlock (s : State) (q ctx : Nat) (sup : Bool) (va : Nat) : State × Chk (List Byte) :=
  let blk := va / 32
  match translate s q ctx sup va .fetch with
  | (s, .error f) => (s, .error f)
  | (s, .ok (pa, pg)) =>
    match s.me.fbuf.find? (fun e => e.1 == blk) with
    | some (_, bs) => (s, .ok bs)
    | none =>
      match (s.clus (clusOf q)).icache.find? (fun e => e.ctx == ctx && e.blk == blk) with
      | some e => (deliver s q ctx blk e.bytes, .ok e.bytes)
      | none =>
        match if effRq pg .si == .si then sliceGet s q (pa / 32) (wordReq pg (pa / 32)) else ncRead s q (pa / 32) pg with
        | (s, none) => (s, .error ⟨cPOISON, va⟩)
        | (s, some w) =>
          let e : ICLine := { ctx := ctx, blk := blk, key := pg.key, bytes := wordBytes w }
          let s := s.modClus (clusOf q) (fun c => { c with icache := setPut (fun x => x.blk % 256 == blk % 256) 8 e c.icache })
          (deliver s q ctx blk e.bytes, .ok e.bytes)

/-- The blocks of the instruction cache and of the fetch buffers of a cluster that `drop` names by context and block go (R99). -/
def dropBlocks (s : State) (cl : Nat) (drop : Nat → Nat → Bool) : State :=
  let s := s.modClus cl (fun c => { c with icache := c.icache.filter (fun e => !drop e.ctx e.blk) })
  (List.range 32).foldl (fun s i =>
    let t := s.th (cl * 32 + i)
    if t.fbuf.any (fun e => drop t.ctx e.1) then
      s.setTh (cl * 32 + i) { t with fbuf := t.fbuf.filter (fun e => !drop t.ctx e.1) }
    else s) s

/-- The words from an address to the end of its block. -/
def fetchFrom (s : State) (q ctx : Nat) (sup : Bool) (a : Nat) : State × Chk (List Byte) :=
  match fetchBlock s q ctx sup a with
  | (s, .error f) => (s, .error f)
  | (s, .ok bs) => (s, .ok (bs.drop (a % 32)))

/-- The PAD word (R238). -/
def isPad (bs : List Byte) : Bool := bytesToNat (bs.take 4) == 3

/-- The first address at or after `a` whose word is not PAD (R238), with the bytes from there to the end of its block; a fetch
fault there ends the search. -/
def skipPad (s : State) (q ctx : Nat) (sup : Bool) (a : Nat) : Nat → State × Nat × Chk (List Byte)
  | 0 => (s, a, .error ⟨cADDR, a⟩)
  | fuel + 1 =>
    match fetchFrom s q ctx sup a with
    | (s, .error f) => (s, a, .error f)
    | (s, .ok bs) => if isPad bs then skipPad s q ctx sup (a + 4) fuel else (s, a, .ok bs)

/-- More words than the address space holds: the search ends at its end, with ADDR, if not before (R101, R238). -/
def padFuel : Nat := 2 ^ 53 + 1

/-- NextInstr (R204): the address of the first word at or after `a` that is not PAD. -/
def nextInstr (s : State) (q ctx : Nat) (sup : Bool) (a : Nat) : State × Nat :=
  let (s, a, _) := skipPad s q ctx sup a padFuel
  (s, a)

/-- The return address S + L of a branch whose slot is sought from `a` (R281): a free value where the slot cannot be fetched. -/
def returnAddr (s : State) (q ctx : Nat) (sup : Bool) (a : Nat) : State × Word :=
  match skipPad s q ctx sup a padFuel with
  | (s, a, .ok bs) => (s, BitVec.ofNat 64 (a + lenBytes (BitVec.ofNat 32 (bytesToNat (bs.take 4)))))
  | (s, _, .error _) => free s

end Sys2Proof.Machine
end

