-- ==== Sys2Proof/Machine/Ops.lean ====
section
/-! DEFINITION. How an instruction of a thread ends: going on to the next one, branching, waiting, taking a trap (R203, R204,
R208) and returning from one (R205); and the issue checks that every instruction shares (R203, R211, R242). -/
namespace Sys2Proof.Machine

/-- The thread goes on behind an instruction of `len` bytes: in sequence, or to a taken branch's target after its slot (R208);
the instruction counts in an open packet (R211) and clears the resumed-wait flag (R210). -/
def Thread.next (t : Thread) (len : Nat) : Thread :=
  { t with
    pc := match t.slot with | .taken tgt => tgt | _ => t.pc + BitVec.ofNat 64 len
    slot := .plain
    pkt := t.pkt.map (fun p => { p with count := p.count + 1 })
    resWait := false
    waits := false
    waitOn := none
    prog := 0
    got := []
    gotAt := 0 }

/-- A branch of 8 bytes has issued: its slot comes next (R208, R281). -/
def Thread.branch (t : Thread) (taken : Option Word) : Thread :=
  { t with
    pc := t.pc + 8
    slot := match taken with | some a => .taken a | none => .untaken
    pkt := t.pkt.map (fun p => { p with count := p.count + 1 })
    resWait := false
    waits := false
    waitOn := none
    prog := 0
    got := []
    gotAt := 0 }

/-- The acting thread goes on behind an instruction of `len` bytes. -/
def State.retire (s : State) (len : Nat) : State := { s.modMe (·.next len) with blocked := false }

/-- The acting thread's registers change and it goes on behind an instruction of `len` bytes. -/
def State.retireWith (s : State) (len : Nat) (f : Thread → Thread) : State :=
  { s.modMe (fun t => (f t).next len) with blocked := false }

/-- The acting thread branches. -/
def State.branch (s : State) (taken : Option Word) (f : Thread → Thread) : State :=
  { s.modMe (fun t => (f t).branch taken) with blocked := false }

/-- Places a special-function result: into its register, or into the save record of a stopped thread (R213). -/
def sfuPlace (s : State) (th vd : Nat) (v : Vec) : State :=
  let t := s.th th
  match t.st with
  | .running | .stopping => s.setTh th (t.wv (BitVec.ofNat 5 vd) v)
  | .stopped =>
    let q := coreOf th
    let base := ctxBase s q + slotOf th * 0xC00 + 0xAC0
    let i := (findNat (fun i => tget locDefault s.loc (loftKey q (base + 72 * i)) &&& 1 == 0) 4 0).getD 3
    let s := locWrite s (loftKey q (base + 72 * i)) ((natToBytes 8 (1 + 2 * vd) ++ natToBytes 64 v.toNat).map some)
    let r := ctxBase s q + slotOf th * 0xC00 + 0x9C8
    locWrite s (loftKey q r) [some (tget locDefault s.loc (loftKey q r) ||| 4)]
  | _ => s

/-- The result at the head of a cluster's special-function queue arrives (R213). -/
def sfuPop (s : State) (cl : Nat) : State :=
  match (s.clus cl).sfu with
  | [] => s
  | (th, vd, v) :: l => sfuPlace (s.modClus cl (fun c => { c with sfu := l })) th vd v

/-- Waits until every earlier special-function result of a thread is written (R204). -/
def sfuFlush (s : State) (th : Nat) : State :=
  let cl := clusOf (coreOf th)
  (s.clus cl).sfu.foldl (fun s _ => if (s.clus cl).sfu.any (fun e => e.1 == th) then sfuPop s cl else s) s

/-- Aborts a thread's open packet (R211): the beats on their way and those buffered at the receiving core go. -/
def abortPacket (s : State) (th : Nat) : State :=
  match (s.th th).pkt with
  | none => s
  | some p =>
    let src := threadAddr s th
    let mine := s.beats.filter (fun b => b.src == src)
    let s := s.modTh th (fun t => { t with pkt := none })
    if p.beats == 0 then s
    else if mine.any (·.last) then
      -- an earlier packet is still on its way: the beats behind its end are the open packet's
      let tail := (mine.reverse.takeWhile (fun b => !b.last)).length
      let keep := s.beats.reverse.foldl (fun (acc : List Beat × Nat) b =>
        if b.src == src && acc.2 < tail then (acc.1, acc.2 + 1) else (b :: acc.1, acc.2)) ([], 0)
      { s with beats := keep.1 }
    else
      let q := coreOf (threadOfAddr p.dst)
      let s := { s with beats := s.beats.filter (fun b => b.src != src) }
      s.modCore q (fun c => { c with asm := c.asm.filter (fun k => !(k.src == src && !k.ended)) })

/-- A write to WIREGRP or WIRETMO that waited takes effect when no slot of the core waits (R121). -/
def wireSettle (s : State) (q : Nat) : State :=
  if (List.range 4).any (fun k => (s.th (q * 4 + k)).wire.isSome) then s
  else s.modCore q (fun c => { c with
    wiregrp := c.wireNew.getD c.wiregrp
    wiretmo := c.tmoNew.getD c.wiretmo
    wireNew := none
    tmoNew := none })

/-- The old values of a thread's atomics that are still on their way go to no register. -/
def forgetRets (s : State) (th : Nat) : State :=
  let none' := fun (e : SbEntry) => { e with ret := e.ret.map (fun r => { r with rd := 0, pair := false }) }
  let away := fun (w : ChuteW) => { w with ret := w.ret.map (fun x => if x.1 == th then (4096, x.2) else x) }
  let s := s.modTh th (fun t => { t with sb := t.sb.map none' })
  let s := s.modCore (coreOf th) (fun c => { c with
    sent := c.sent.map (fun x => if x.1 == th then (x.1, none' x.2) else x)
    chute := c.chute.map away })
  { s with hbms := tmap (fun _ k => { k with nmu := k.nmu.map away }) s.hbms }

/-- A thread ends (R289): its slot is free, what it still has queued at the special-function unit is discarded (R213), its wait in
wirebar is over, and its node counts its rank as gone. Its store buffer keeps draining (R203). -/
def threadEnds (s : State) (th : Nat) : State :=
  let s := abortPacket s th
  let t := s.th th
  let cl := clusOf (coreOf th)
  let s := s.modClus cl (fun c => { c with sfu := c.sfu.map (fun e => if e.1 == th then (4096, e.2) else e) })
  let s := s.modCore (coreOf th) (fun c => { c with
    reads := c.reads.filter (fun r => r.th != th)
    stalled := c.stalled.filter (fun x => x.1 != th) })
  let s := s.modNode t.node (fun n => { n with gone := if n.gone.contains t.rank then n.gone else t.rank :: n.gone })
  let s := s.modClus cl (fun c => { c with claims := c.claims.filter (fun x => x.th != th) })
  let s := forgetRets s th
  wireSettle (s.modTh th (fun t => { t with
    st := .exited
    slot := .plain
    prog := 0
    waits := false
    waitOn := none
    pend := []
    got := []
    gotAt := 0
    opWait := none
    pkt := none
    wire := none
    bar := none
    barWait := none
    regroup := none
    yieldTo := none
    clkWait := none
    sub := false })) (coreOf th)

/-- The crew faults with a cause (R73, R204): the node keeps the first cause, this thread has ended, the others stop at their
next boundary, and those that have stopped already, under pre-emption, do not resume. -/
def crewFault (s : State) (cause : Nat) : State :=
  let id := s.me.node
  let s := (s.node id).crew.foldl (fun s th => if (s.th th).node == id then abortPacket s th else s) s
  let s := s.modNode id (fun n => { n with failing := true, cause := if n.failing then n.cause else cause })
  let s := (s.node id).crew.foldl (fun s th =>
    if (s.th th).node != id then s
    else
      match (s.th th).st with
      | .running => s.modTh th (fun t => { t with st := .stopping })
      | .stopped => threadEnds s th
      | _ => s) s
  { threadEnds s s.cur with blocked := false }

/-- ESTAT as entry writes it (R204, R206). -/
def estatOf (fut user ds nf mode : Bool) : Word :=
  BitVec.ofNat 64 (b2n fut * 16 + b2n user * 8 + b2n ds * 4 + b2n nf * 2 + b2n mode)

/-- STATUS after entry: NF clear, MODE set unless the user handler is entered (R204). -/
def entryStatus (status : Word) (user : Bool) : Word :=
  let s := status &&& ~~~(4#64)
  if user then s else s ||| 1

/-- Whether a trap of the thread goes to its own handler (R204). -/
def toUser (t : Thread) (cause : Nat) (scall : Bool) : Bool := !t.sup && t.umask.getLsbD cause && t.utvec.getLsbD 0 && !scall

/-- The registers of a thread after entry (R204): `epc` and `ds` say where it resumes, `tgt` is the pending target. -/
def Thread.enter (t : Thread) (cause info : Nat) (user fut ds : Bool) (epc tgt handler : Word) : Thread :=
  { t with
    epc := epc &&& ~~~(3#64)
    ebt := if ds then tgt &&& ~~~(3#64) else 0
    estat := estatOf fut user ds (t.status.getLsbD 2) t.sup
    ecause := BitVec.ofNat 64 (2 ^ 63 + cause % 256)
    einfo := BitVec.ofNat 64 info
    status := entryStatus t.status user
    pc := handler
    slot := .plain
    resWait := false
    waits := false
    waitOn := none
    prog := 0
    got := []
    gotAt := 0 }

/-- Trap entry (R204): the acting thread takes the trap of a cause, with its sr.EINFO; `len` is the length of the instruction,
which SWTRAP and BRK step over. -/
def trap (s : State) (cause info : Nat) (len : Nat) (scall fut : Bool) : State :=
  let t := s.me
  let user := toUser t cause scall
  let tvec := (s.die (dieOf (coreOf s.cur))).tvec
  if t.ecause.getLsbD 63 then crewFault s cause
  else if !user && !tvec.getLsbD 0 then crewFault s cause
  else
    let s := sfuFlush (abortPacket s s.cur) s.cur
    let handler := (if user then t.utvec else tvec) &&& 0x007FFFFFFFFFFFFC#64
    let q := coreOf s.cur
    if cause == cSWTRAP || cause == cBRK then
      let (s, a) := nextInstr s q t.ctx t.sup (match t.slot with | .taken tgt => tgt.toNat | _ => (t.pc + BitVec.ofNat 64 len).toNat)
      { s.modMe (fun t => t.enter cause info user fut false (BitVec.ofNat 64 a) 0 handler) with blocked := false }
    else
      { s.modMe (fun t => t.enter cause info user fut (match t.slot with | .taken _ => true | _ => false) t.pc
          (match t.slot with | .taken tgt => tgt | _ => 0) handler) with blocked := false }

/-- A trap of an ordinary cause. -/
def trapOf (s : State) (f : Fail) : State := trap s f.cause f.info 8 false false

/-- The return from a handler (R205), once its privilege check has passed. -/
def Thread.eret (t : Thread) : Thread :=
  let mode := t.estat.getLsbD 0
  let nf := t.estat.getLsbD 1
  let st := (t.status &&& ~~~(5#64)) ||| (if mode then 1 else 0) ||| (if nf then 4 else 0)
  { t with
    status := st
    ecause := t.ecause &&& 0x7FFFFFFFFFFFFFFF#64
    resWait := t.estat.getLsbD 4
    pc := t.epc
    slot := if t.estat.getLsbD 2 then .taken t.ebt else .plain
    pkt := t.pkt.map (fun p => { p with count := p.count + 1 })
    waits := false
    waitOn := none
    prog := 0
    got := []
    gotAt := 0 }

/-- eret (R205): supervisor mode is never reached from user mode. -/
def eretOp (s : State) (opc : Nat) : State :=
  if !s.me.sup && s.me.estat.getLsbD 0 then trapOf s ⟨cPRIV, opc⟩ else { s.modMe (·.eret) with blocked := false }

/-- The guard of a scalar-guarded instruction (R242). -/
def Thread.guardOk (t : Thread) (g : Guard) : Bool := (t.rp g.pg.toNat).getLsbD 0 != g.pgn

/-- Instruction limit of an open packet (R211): instruction 65 or above. -/
def overLimit (t : Thread) : Bool := match t.pkt with | some p => p.count ≥ 65 | none => false

/-- What R203 checks before an instruction's own causes, once fetch, ILLEGAL and the guard are settled: PRIV
with its sr.EINFO for a supervisor-only one, PKTOPEN at the packet's limit, and PKTOPEN for an instruction that
may not run inside a packet. -/
def issue (s : State) (priv : Option Nat) (waits : Bool) (k : State → State) : State :=
  if priv.isSome && !s.me.sup then trapOf s ⟨cPRIV, priv.getD 0⟩
  else if overLimit s.me then trapOf s ⟨cPKTOPEN, 0⟩
  else if waits && s.me.pkt.isSome then trapOf s ⟨cPKTOPEN, 1⟩
  else k s

/-- A scalar-guarded instruction that transfers no control (R242). -/
def scalarOp (s : State) (g : Guard) (len : Nat) (priv : Option Nat) (waits : Bool) (k : State → State) : Res :=
  .next (if s.me.guardOk g then issue s priv waits k else s.retire len)

/-- An element-guarded instruction, which always issues (R243). -/
def elemOp (s : State) (k : State → State) : Res := .next (issue s none false k)

/-- A branch (R208, R242, R281): SLOT in a delay slot, untaken with a false guard. -/
def branchOp (s : State) (g : Guard) (opc : Nat) (k : State → State) : Res :=
  .next (if s.me.slot != .plain then trapOf s ⟨cSLOT, opc⟩
    else if s.me.guardOk g then issue s none false k
    else s.branch none id)

/-- The ways an instruction's work stops short: it waits at its instruction, or it traps. -/
inductive Stop where
  | wait
  | trap (f : Fail)
  deriving DecidableEq, Repr

/-- Work on the state that may stop short. -/
abbrev M (α : Type) := ExceptT Stop (StateM State) α

/-- Stops with a trap. -/
def raise {α : Type} (cause info : Nat) : M α := throw (.trap ⟨cause, info⟩)
/-- Waits at the instruction. -/
def hold {α : Type} : M α := throw .wait
/-- Traps unless the condition holds. -/
def demand (ok : Bool) (cause info : Nat) : M PUnit := if ok then pure ⟨⟩ else raise cause info
/-- Waits unless the condition holds. -/
def await (ok : Bool) : M PUnit := if ok then pure ⟨⟩ else hold
/-- A check's answer as work. -/
def liftChk {α : Type} (c : Chk α) : M α := match c with | .ok a => pure a | .error f => throw (.trap f)
/-- A state change that answers a check. -/
def act {α : Type} (f : State → State × Chk α) : M α := do
  let s ← get
  let (s, r) := f s
  set s
  liftChk r
/-- A state change with an answer. -/
def pick {α : Type} (f : State → State × α) : M α := do
  let s ← get
  let (s, r) := f s
  set s
  pure r
/-- The acting thread. -/
def me : M Thread := do return (← get).me

/-- Runs an instruction's work: a trap or a wait replaces its end. -/
def work (m : M PUnit) (s : State) : State :=
  match m.run s with
  | (.ok _, s) => s
  | (.error .wait, s) => s.wait
  | (.error (.trap f), s) => trapOf s f

end Sys2Proof.Machine
end

