-- ==== Sys2Proof/Machine/Operands.lean ====
section
/-! DEFINITION. Operand forms: effective addresses (R247), record addresses (R250), branch conditions (R248), vector elements and
masks (R219, R243), rounding fields (R276). -/
namespace Sys2Proof.Machine

/-- Bytes of an instruction's IMM32B form or of its base form (R249). -/
def lenX (x : Option (BitVec 32)) : Nat := if x.isSome then 12 else 8

/-- esize of R247. -/
def esize (t : Ty) : Nat :=
  match t with
  | .i4 | .n4 | .e2m1 => 1
  | .f36 | .i36 => 8
  | t => t.width / 8

/-- The base, offset and displacement of R247, without the index. -/
def OpM.base (t : Thread) (o : OpM) : Word :=
  t.rg o.ra + o.off.signExtend 64 * BitVec.ofNat 64 (esize o.ty) + (match o.x with | some d => d.signExtend 64 | none => 0)

/-- The effective address of R247. -/
def OpM.ea (t : Thread) (o : OpM) : Word := OpM.base t o + t.rg o.rb * BitVec.ofNat 64 (esize o.ty)

/-- The record address of R250. -/
def OpJ.addr (t : Thread) (o : OpJ) : Word := t.rg o.ra + o.imm.setWidth 64

/-- The conditions of R248. -/
def brCond (c : Nat) (a b : Word) : Bool :=
  match c with
  | 0 => a == b
  | 1 => a != b
  | 2 => a.slt b
  | 3 => !a.slt b
  | 4 => a.ult b
  | 5 => !a.ult b
  | 6 => a &&& b != 0
  | _ => a &&& b == 0

/-- The target of a branch at `pc` (R248). -/
def OpB.target (pc : Word) (o : OpB) : Word := pc + 4 * o.off.signExtend 64

/-- The comparisons of R267. -/
def cmpCond (c : Nat) (a b : Int) : Bool :=
  match c with
  | 0 => a == b
  | 1 => a != b
  | 2 => decide (a < b)
  | 3 => decide (a ≤ b)
  | 4 => decide (b < a)
  | _ => decide (b ≤ a)

/-- Element `j` of width `w` of a vector (R219). -/
def elemAt (v : Vec) (w j : Nat) : Nat := v.toNat / 2 ^ (w * j) % 2 ^ w

/-- A vector from its elements of width `w`, element 0 lowest. -/
def vecOf (w : Nat) (l : List Nat) : Vec := BitVec.ofNat 512 (l.foldr (fun x acc => x % 2 ^ w + 2 ^ w * acc) 0)

/-- Elements of width `w` in a vector. -/
def nElem (w : Nat) : Nat := 512 / w

/-- The element mask of R243 for element `j` of width `w`: bit j, or bit j / 2 of a 4-bit type. -/
def elemOn (mask : Word) (w j : Nat) : Bool := mask.getLsbD (if w == 4 then j / 2 else j)

/-- p[PG], inverted when PGN = 1 (R243). -/
def Thread.mask (t : Thread) (g : Guard) : Word := if g.pgn then ~~~(t.rp g.pg.toNat) else t.rp g.pg.toNat

/-- The rounding mode of R276: MOD[2:0] when MOD[3] is set, else STATUS.RM. -/
def rmOf (t : Thread) (md : BitVec 8) : Nat := if md.getLsbD 3 then md.toNat % 8 else statusRm t.status

end Sys2Proof.Machine
end

