-- ==== Sys2Proof/Machine/Flags.lean ====
section
/-! DEFINITION. The sticky flags of STATUS (R227): every flag computation that an instruction makes on its result, and the draws
of stochastic rounding (R226, R340). The flags of one rounding come from Round itself (Num.lean). -/
namespace Sys2Proof.Machine

/-- Saturation of an integer result (R265): the result as 64 bits, and SAT when it was clamped. -/
def satResult (t : Ty) (sat : Bool) (x : Int) : Word × Flags :=
  if sat then (extT t (satT t x), if satT t x == x then 0 else flSAT) else (extT t x, 0)

/-- The draws of `n` fresh 16-bit values of the thread's stream, and the counter after them (R226): eight from each block. -/
def draws (key : Word) (ctr : BitVec 128) (n : Nat) : List Nat × BitVec 128 :=
  let k := (n + 7) / 8
  let bs := (List.range k).map (fun i => philox key (ctr + BitVec.ofNat 128 i))
  ((List.range n).map (fun j => ((bs[j / 8]?).getD 0).toNat / 2 ^ (16 * (j % 8)) % 65536), ctr + BitVec.ofNat 128 k)

/-- The draws that `n` roundings under a mode take: none but under mode 5. -/
def drawsFor (t : Thread) (mode n : Nat) : List Nat × Thread :=
  if mode == 5 then
    let (l, c) := draws t.rngkey t.rngctr n
    (l, { t with rngctr := c })
  else ([], t)

/-- Invalid for a comparison (R279): any NaN under an ordering, a signalling NaN under the others. -/
def cmpFlags (fn : Nat) (a b : FVal) : Flags :=
  if 2 ≤ fn && fn ≤ 5 then (if a.isNan || b.isNan then flINV else 0) else sigFl [a, b]

/-- The conditions of fcmp (R279). -/
def fcmpCond (fn : Nat) (a b : FVal) : Bool :=
  match fcmpv a b, fn with
  | none, 1 => true
  | none, 6 => true
  | none, _ => false
  | some o, 0 => o == .eq
  | some o, 1 => o != .eq
  | some o, 2 => o == .lt
  | some o, 3 => o != .gt
  | some o, 4 => o == .gt
  | some o, 5 => o != .lt
  | some _, 6 => false
  | some _, _ => true

end Sys2Proof.Machine
end

