-- ==== Sys2Proof/Machine/Link.lean ====
section
/-! DEFINITION. Building flits and queueing them at a port (R22, R24, R25, R29). -/
namespace Sys2Proof.Machine

/-- A port that carries flits (R18). -/
def portUp (p : Port) : Bool := p.st == 2 || p.st == 3

/-- An all-zero flit. -/
def zeroFlit : Flit :=
  { addr := 0, aux := 0, route := 0, hops := 0, hopix := 0, dst := 0, src := 0, ctx := 0, op := 0, tc := 0, beats := 0, last := false,
    seq := 0, ack := 0, credit := 0, kind := 0, opx := 0, payload := 0 }

/-- The egress port and the HOPS and ROUTE fields for a device (R29); none without a valid route over a port that is up
(DESIGN CHOICE, log 96). -/
def routeTo (s : State) (dst : BitVec 21) : Option (Nat × BitVec 3 × BitVec 30) :=
  let e := (tget 0 s.mgmt.routes (dst.toNat / 32)).toNat
  let p := bits e 40 37
  let hops := bits e 36 34
  let r := bits e 29 0
  if bit e 41 && portUp (s.port p) then
    let r := if hops == 0 then r else
      let k := 5 * (hops - 1)
      r - bits r (k + 4) k * 2 ^ k + dst.toNat % 32 * 2 ^ k
    some (p, BitVec.ofNat 3 hops, BitVec.ofNat 30 r)
  else none

/-- Queues a flit at a port in its class (R24). -/
def queueFlit (s : State) (p : Nat) (f : Flit) : State :=
  s.modPort p (fun x => { x with tx := tmod [] x.tx f.tc.toNat (fun l => l ++ [f]) })

/-- Builds and queues a flit for a device (R29): false when there is no route. -/
def sendFlit (s : State) (dst : BitVec 21) (f : Flit) : State × Bool :=
  match routeTo s dst with
  | some (p, h, r) =>
    (queueFlit s p { f with dst := dst, src := s.devId, hops := h, route := r, hopix := 0, kind := 1 }, true)
  | none => (s, false)

/-- Key of the counts of flits between core `q` and a peer (R166). -/
def peerKey (dev q : Nat) : Nat := dev * 1024 + q

/-- Counts a PUTDATA or AMO flit of core `q` for a peer (R166). -/
def notePeer (s : State) (dev q : Nat) : State := { s with peerSent := tmod 0 s.peerSent (peerKey dev q) (· + 1) }

/-- The RELQUERY of core `q`'s round n to a peer (R25, R166): AUX holds the round, its core in [31:16]. -/
def relQuery (s : State) (q n : Nat) (dev : Nat) : State :=
  (sendFlit s (BitVec.ofNat 21 dev) { zeroFlit with op := 7, last := true, aux := BitVec.ofNat 64 (n + q * 65536) }).1

/-- What a system-scope release of core `q` awaits of its round's peers: device, round, and the flits sent to it (R166). -/
def peerWaits (s : State) (q : Nat) : List (Nat × Nat × Nat) :=
  (s.core q).cur.peers.map (fun d => (d, (s.core q).round, tget 0 s.peerSent (peerKey d q)))

end Sys2Proof.Machine
end

