-- ==== Sys2Proof/Machine/Order.lean ====
section
/-! DEFINITION. The Order Machine for threads (R179 to R192, R292 to R305): store buffers, reads, releases and acquires, charged
stores, atomics. -/
namespace Sys2Proof.Machine

/-- Where an access within one word lands: a local home, or a physical address of a page. -/
inductive Place where
  | loc (k : Nat) | dev (pa : Nat) (pg : Page)
  deriving DecidableEq, Repr

/-- A Barn address of another core (R201). -/
def barnOther (q va : Nat) : Bool :=
  isLocal va && va % 2 ^ 56 / 2 ^ 52 == 1 && (match window q va with | .loft q' _ => q' != q | _ => false)

/-- R201 for a memory access: REMOTEINCOMPUTE in a compute phase under STRICTX. -/
def remoteCheck (va : Nat) : M PUnit := do
  let s ← get
  let t := s.me
  demand (!(t.status.getLsbD 9 && t.compute && barnOther (coreOf s.cur) va)) cREMOTE va

/-- R201 for `n` bytes from one address on: the first of them that is another core's. -/
def remoteRange (va n : Nat) : M PUnit := do
  remoteCheck va
  let next := (va / 2 ^ 19 + 1) * 2 ^ 19
  if next < va + n then remoteCheck next

/-- The window or translation checks of `n` bytes within one word (R293). -/
def resolve (va n : Nat) (write : Bool) : M Place := do
  let s ← get
  let t := s.me
  let q := coreOf s.cur
  if isLocal va then return .loc (← liftChk (localCheck s q t.ctx t.sup va n))
  else
    let (pa, pg) ← act (fun s => translate s q t.ctx t.sup va (if write then .write else .read))
    return .dev pa pg

/-- The checks of a scalar access in the order of R203. -/
def resolve1 (va n : Nat) (rq : Rq) (write : Bool) : M Place := do
  remoteCheck va
  demand (va % n == 0) cALIGN va
  demand (rq != .loc || isLocal va) cADDR va
  resolve va n write

/-- The word of a place, and whether it is local. -/
def Place.word : Place → Bool × Nat
  | .loc k => (true, k / 32)
  | .dev pa _ => (false, pa / 32)
/-- Byte offset of a place in its word. -/
def Place.off : Place → Nat
  | .loc k => k % 32
  | .dev pa _ => pa % 32

/-- Places bytes in a word's 32. -/
def padWord (off : Nat) (bs : List (Option Byte)) : List (Option Byte) :=
  List.replicate off none ++ bs ++ List.replicate (32 - off - bs.length) none

/-- Replaces bytes of a vector. -/
def Vec.setBytes (v : Vec) (l : List (Nat × Byte)) : Vec :=
  let bs := (List.range 64).map (fun i => match l.find? (fun e => e.1 == i) with | some (_, b) => b | none => v.extractLsb' (8 * i) 8)
  BitVec.ofNat 512 (bytesToNat bs)

/-! ### Store buffers and reads -/

/-- The word of a store-buffer entry. -/
def SbEntry.word (e : SbEntry) : Bool × Nat := (e.loc, e.pa / 32)
/-- An entry that writes a word and stands before place `n` of its thread's accesses. -/
def SbEntry.on (e : SbEntry) (w : Bool × Nat) (n : Nat) : Bool := !e.fence && e.word == w && e.seq < n
/-- A release: a fence's or a write's with a scope that has release steps (R188). -/
def SbEntry.release (e : SbEntry) : Bool := e.fence || (ordRel e.ord && e.scope != .thread)
/-- A release that is performed at the memory home (R188). -/
def SbEntry.home (e : SbEntry) : Bool := ordRel e.ord && wide e.scope
/-- The page of a store-buffer entry. -/
def SbEntry.page (e : SbEntry) : Page := { ctx := e.ctx, key := e.key, cls := e.cls, ms := e.ms, fnc := e.fnc }
/-- The request of a store-buffer entry at its die home. -/
def SbEntry.req (e : SbEntry) : Req := { pg := e.page, span := e.span, lo := e.lo, hi := e.hi, gl := e.gl }
/-- The request of an issued read at its die home. -/
def ReadReq.req (r : ReadReq) : Req :=
  { pg := { ctx := r.ctx, key := r.key, cls := r.cls, ms := r.ms, fnc := r.fnc }, span := r.span, lo := r.lo, hi := r.hi, gl := r.gl }
/-- The word of an issued read. -/
def ReadReq.word (r : ReadReq) : Bool × Nat := match r.parts with | x :: _ => (x.loc, x.pa / 32) | [] => (true, 0)
/-- A read of a thread from a word, before place `n` of its accesses. -/
def ReadReq.on (r : ReadReq) (th : Nat) (w : Bool × Nat) (n : Nat) : Bool := r.th == th && r.word == w && r.seq < n

/-- The newest undrained bytes of a thread for a word, of the writes before place `n` of its accesses (R182 item 1). -/
def ownBytes (t : Thread) (w : Bool × Nat) (n : Nat) : List (Option Byte) :=
  t.sb.foldl (fun acc e => if e.on w n then
    (List.range 32).map (fun i => match (e.bytes[i]?).getD none with | some b => some b | none => (acc[i]?).getD none) else acc)
    (List.replicate 32 none)

/-- A home accepts a drained write or atomic of a thread (R181): the write is performed there or sent on, and SACK has gone down by one. One
under a dead key is discarded (R171): no thread awaits it, since step 2 of a kill ends only when none does (R172). The old value of a thread that has ended goes nowhere. -/
def acceptEntry (s : State) (th : Nat) (e : SbEntry) : State :=
  let q := coreOf th
  let dest := if (s.th th).live then th else 4096
  if e.loc then
    match e.op with
    | none => locWrite s (e.pa / 32 * 32) e.bytes
    | some op =>
      let k := e.pa / 32 * 32 + e.at_
      let old := bytesToNat (locRead s k e.size)
      let s := match op.new old with | some x => locWrite s k ((natToBytes e.size x).map some) | none => s
      giveRet s old (e.ret.map (fun r => (dest, e.seq, r)))
  else if !keyLive s e.key 2 then giveRet s 0 (e.ret.map (fun r => (dest, e.seq, r)))
  else
    match e.op with
    | none => writeWord s q (e.pa / 32) e.bytes e.req e.rq e.home (phaseTag s th)
    | some op => atomicWord s q (e.pa / 32) e e.req op dest (phaseTag s th)

/-- A core's drained write number `i` is accepted, unless an earlier one of its word is not. -/
def acceptAt (s : State) (q i : Nat) : State :=
  match (s.core q).sent[i]? with
  | none => s
  | some (th, e) =>
    if ((s.core q).sent.take i).any (fun x => x.2.word == e.word) then s
    else acceptEntry (s.modCore q (fun c => { c with sent := delAt c.sent i })) th e

/-- Every drained write of a core to a word is accepted, in order. -/
def acceptWord (s : State) (q : Nat) (w : Bool × Nat) : State :=
  (s.core q).sent.foldl (fun s _ =>
    match (s.core q).sent.findIdx? (fun x => x.2.word == w) with
    | some i => acceptAt s q i
    | none => s) s

/-- Every drained write of a thread is accepted. -/
def acceptOf (s : State) (th : Nat) : State :=
  (s.core (coreOf th)).sent.foldl (fun s x => if x.1 == th then acceptWord s (coreOf th) x.2.word else s) s

/-- A thread's SACK: its writes that are drained and not accepted (R180). -/
def sackOf (s : State) (th : Nat) : Nat := ((s.core (coreOf th)).sent.filter (fun x => x.1 == th)).length

/-- The 32 bytes of a word as thread `th` reads it at place `n` of its accesses (R182): its own undrained bytes over the rest, which is not
read when they are all the bytes `need` asks for. None: POISON. -/
def wordValue (s : State) (th : Nat) (w : Bool × Nat) (n : Nat) (need : List Nat) (r : Req) (rq : Rq) (acq : Option Scope) :
    State × Option (List Byte) :=
  let own := ownBytes (s.th th) w n
  let merged := fun (rest : List Byte) => (own.zip rest).map (fun (m, b) => m.getD b)
  if w.1 then (s, some (merged (locRead s (w.2 * 32) 32)))
  else if acq.isNone && need.all (fun i => ((own[i]?).getD none).isSome) then (s, some (own.map (·.getD 0)))
  else
    match readWord s (coreOf th) w.2 r rq acq (phaseTag s th) with
    | (s, some v) => (s, some (merged (wordBytes v)))
    | (s, none) => (s, none)

/-- The bytes of its word that a read asks for. -/
def partBytes (ps : List RdPart) : List Nat := (ps.map (fun x => (List.range x.size).map (· + x.pa % 32))).flatten

/-- The register number by which a thread awaits a read: vector registers follow the general ones. -/
def ReadReq.reg (r : ReadReq) : Nat := if r.vec then 32 + r.rd else r.rd

/-- What a read's parts take from its word: destination byte and value. -/
def landBytes (ps : List RdPart) (bs : List Byte) : List (Nat × Byte) :=
  (ps.map (fun x => (List.range x.size).map (fun k => (x.dst + k, (bs[x.pa % 32 + k]?).getD 0)))).flatten

/-- A value of a read of n bytes as a register holds it (R294). -/
def loadVal (sgn : Bool) (bs : List Byte) : Word :=
  let v := bytesToNat bs
  if sgn && v ≥ 2 ^ (8 * bs.length - 1) then BitVec.ofInt 64 ((v : Int) - 2 ^ (8 * bs.length)) else BitVec.ofNat 64 v

/-- The read's value arrives in its register. -/
def ReadReq.land (r : ReadReq) (t : Thread) (bs : Option (List Byte)) : Thread :=
  let t := { t with pend := t.pend.erase r.reg }
  match bs with
  | none => t
  | some bs =>
    let l := landBytes r.parts bs
    if r.vec then t.wv (BitVec.ofNat 5 r.rd) (Vec.setBytes (t.rv (BitVec.ofNat 5 r.rd)) l)
    else t.wg (BitVec.ofNat 5 r.rd) (loadVal r.sgn (l.map (·.2)))

/-- Performs an issued read (R181, R182), unless an older read or atomic of its thread to its word is pending. The core's drained writes to
the word come first. -/
def performRead (s : State) (q i : Nat) : State :=
  match (s.core q).reads[i]? with
  | none => s
  | some r =>
    if (s.core q).reads.any (fun x => x.on r.th r.word r.seq) || (s.th r.th).sb.any (fun e => e.op.isSome && e.on r.word r.seq) then s
    else
      let s := acceptWord (s.modCore q (fun c => { c with reads := delAt c.reads i })) q r.word
      let (s, v) := wordValue s r.th r.word r.seq (partBytes r.parts) r.req r.rq none
      s.modTh r.th (fun t => r.land t v)

/-- Performs a thread's issued reads from a word that stand before place `n` of its accesses. -/
def readsWord (s : State) (th : Nat) (w : Bool × Nat) (n : Nat) : State :=
  let q := coreOf th
  (s.core q).reads.foldl (fun s _ =>
    match (s.core q).reads.findIdx? (fun r => r.on th w n) with
    | some i => performRead s q i
    | none => s) s

/-- Whether entry `i` of a thread's store buffer may drain (R181, R188, R192): it is the oldest for its word, no older fence is incomplete
(behind an nmfence that awaits only its peers, writes go on and atomics do not), and a release's steps are complete. -/
def mayDrain (s : State) (th i : Nat) : Bool :=
  let t := s.th th
  match t.sb[i]? with
  | none => false
  | some e =>
    let older := t.sb.take i
    let held := match older with
      | f :: l => (f.fence && !(f.nm && t.relStage ≥ 2 && e.op.isNone)) || l.any (fun x => x.fence)
      | [] => false
    !e.fence && !older.any (fun x => x.on e.word e.seq) && !held && (!e.release || (i == 0 && sackOf s th == 0 && t.relStage == 4))

/-- Drains entry `i` of a thread's store buffer (R181): it is on its way to its L1 copy or home, behind the thread's older reads of its
word (R183). -/
def drainAt (s : State) (th i : Nat) : State :=
  if mayDrain s th i then
    match (s.th th).sb[i]? with
    | none => s
    | some e =>
      let s := readsWord s th e.word e.seq
      let s := s.modTh th (fun t => { t with sb := delAt t.sb i, relStage := if i == 0 then 0 else t.relStage })
      s.modCore (coreOf th) (fun c => { c with sent := c.sent ++ [(th, e)] })
  else s

/-- The next of the release steps of the oldest entry of a thread's store buffer, if that is a release (R188). At device and system scope the
core's round closes (R142, R165), at once under `now`, or by the steps of the queries; at system scope the round's peers answer (R166).
A fence whose steps are complete leaves. -/
def relStep (s : State) (th : Nat) (now : Bool) : State :=
  let t := s.th th
  let q := coreOf th
  let stage := fun (n : Nat) (s : State) => s.modTh th (fun t => { t with relStage := n })
  match t.sb with
  | [] => s
  | e :: _ =>
    if !e.release then s
    else
      match t.relStage with
      | 0 =>
        if sackOf s th != 0 then s
        else if !wide e.scope then stage 4 s
        else if !now && (s.core q).rounds.length ≥ 3 then s
        else
          let s := pushDirty s q
          let s := s.modTh th (fun t => { t with sysWait := if e.scope == .system then peerWaits s q else [] })
          if now then stage 2 (closeRound s q) else stage 1 (openClose s q th)
      | 1 => if (s.core q).rounds.any (fun r => r.th == some th) then s else stage 2 s
      | 2 => if t.sysWait.isEmpty then stage 4 s else stage 3 (t.sysWait.foldl (fun s p => relQuery s q p.2.1 p.1) s)
      | 3 => if t.sysWait.isEmpty then stage 4 s else s
      | _ => if e.fence then s.modTh th (fun t => { t with sb := t.sb.drop 1, relStage := 0 }) else s

/-- One forced step of a thread's oldest store-buffer entry: a release step, or its drain. -/
def forceHead (s : State) (th : Nat) : State :=
  let s := acceptOf s th
  match (s.th th).sb with
  | [] => s
  | e :: _ => if e.release && !((s.th th).relStage == 4 && !e.fence) then
      relStep (if (s.th th).relStage == 1 then closeRound s (coreOf th) else s) th true
    else drainAt s th 0

/-- Drains a thread's whole store buffer, oldest first, with every acceptance; a release that awaits peers stops it. -/
def drainAll (s : State) (th : Nat) : State :=
  acceptOf ((List.range (5 * (s.th th).sb.length)).foldl (fun s _ => forceHead s th) s) th

/-- Drains a thread's entries for one word that stand before place `n` of its accesses, with everything that comes before them, and lets
them be accepted. -/
def forceWord (s : State) (th : Nat) (w : Bool × Nat) (n : Nat) : State :=
  acceptWord ((s.th th).sb.foldl (fun s _ =>
    match (s.th th).sb.findIdx? (fun e => e.on w n) with
    | some i => if ((s.th th).sb.take (i + 1)).any (·.release) then drainAll s th else drainAt s th i
    | none => s) s) (coreOf th) w

/-- Brings a word as far as a read at place `n` of a thread's accesses needs it: its older atomics of the thread are performed, and the
core's drained writes to it are accepted. -/
def readyWord (s : State) (th : Nat) (w : Bool × Nat) (n : Nat) : State :=
  let s := if (s.th th).sb.any (fun e => e.op.isSome && e.on w n) then forceWord s th w n else s
  acceptWord (readsWord s th w n) (coreOf th) w

/-- Performs issued read `i` of a core with what comes before it. -/
def forceRead (s : State) (q i : Nat) : State :=
  match (s.core q).reads[i]? with
  | none => s
  | some r =>
    let s := readyWord s r.th r.word r.seq
    match (s.core q).reads.findIdx? (fun x => x.th == r.th && x.seq == r.seq && x.word == r.word) with
    | some i => performRead s q i
    | none => s

/-- Performs a thread's issued reads that satisfy `f`, oldest first. -/
def readsWhere (s : State) (th : Nat) (f : ReadReq → Bool) : State :=
  let q := coreOf th
  ((s.core q).reads.filter (fun r => r.th == th && f r)).foldl (fun s r =>
    match (s.core q).reads.findIdx? (fun x => x == r) with
    | some i => forceRead s q i
    | none => s) s

/-- Performs every read a thread has issued. -/
def readsAll (s : State) (th : Nat) : State := readsWhere s th (fun _ => true)

/-- The place of the acting thread's next access among its accesses. -/
def newSeq : M Nat := pick (fun s => (s.modMe (fun t => { t with seqNo := t.seqNo + 1 }), s.me.seqNo))

/-- The next place among the acting thread's accesses: every earlier access stands before it. -/
def nowSeq : M Nat := do return (← me).seqNo

/-- Whether a read of a place may find POISON: its home holds the frame so, and no copy answers before it (R136, R152). -/
def mayPoison (s : State) : Place → Bool
  | .loc _ => false
  | .dev pa _ => framePoison s pa

/-- Whether a request for a word goes to the slice: the core's L1 does not answer it (R130). -/
def toSlice (s : State) (w : Bool × Nat) (pg : Page) (rq : Rq) : Bool :=
  !w.1 && (l1Hit (s.core (coreOf s.cur)) w.2 (effRq pg rq)).isNone

/-- A part of an access within one word: its destination or source byte, its size, its address and its place. -/
structure AccPart where
  dst : Nat
  n  : Nat
  va : Nat
  pl : Place
  deriving DecidableEq, Repr

/-- The page of a place; none for a local one. -/
def Place.page : Place → Page
  | .loc _ => {}
  | .dev _ pg => pg
/-- The key of a place in the words of its kind. -/
def Place.key : Place → Nat
  | .loc k => k
  | .dev pa _ => pa

/-- The frame of a place. -/
def Place.frame (pl : Place) : Bool × Nat := (pl.word.1, pl.word.2 / 16)

/-- The requests of an access, one a frame (R129, R293), with the Gleaner's answer for each that goes to a slice (R130): frame, request. -/
def requests (span : Nat) (rq : Rq) (ps : List AccPart) : M (List ((Bool × Nat) × Req)) := do
  let mut out := []
  for f in (ps.map (fun x => x.pl.frame)).eraseDups do
    let l := ps.filter (fun x => x.pl.frame == f)
    let ws := l.map (fun x => x.pl.word.2 % 16)
    let lo := ws.foldl min 15
    let hi := ws.foldl max 0
    let s ← get
    let (va, pg) := match l with | x :: _ => (x.va, x.pl.page) | [] => (0, {})
    let gl ← if span == 0 && l.any (fun x => toSlice s x.pl.word pg rq) then
        pick (fun s => gleaner s (coreOf s.cur) s.me.pc.toNat va lo hi) else pure none
    out := out ++ [(f, { pg := pg, span := span, lo := lo, hi := hi, gl := gl })]
  return out

/-- The request of a word among those of its access. -/
def reqOf (l : List ((Bool × Nat) × Req)) (pl : Place) : Req :=
  match l.find? (fun e => e.1 == pl.frame) with | some (_, r) => r | none => wordReq pl.page pl.word.2

/-- The words that the parts of an access touch, in order, each with its parts. -/
def byWord (l : List AccPart) : List ((Bool × Nat) × List AccPart) :=
  (l.map (fun x => x.pl.word)).eraseDups.map (fun w => (w, l.filter (fun x => x.pl.word == w)))

/-- The parts as a read holds them. -/
def rdParts (ps : List AccPart) : List RdPart := ps.map (fun x => { loc := x.pl.word.1, pa := x.pl.key, size := x.n, dst := x.dst })

/-- Performs the reads of an access at once, word by word (R137, R182), behind what the thread has sent to the same words before:
destination byte and value. -/
def readNow (ps : List AccPart) (rq : Rq) (acq : Option Scope) (span : Nat) : M (List (Nat × Byte)) := do
  let n ← nowSeq
  let ws := byWord ps
  for (w, _) in ws do
    modify (fun s => readyWord s s.cur w n)
    let s ← get
    await (!(s.me.sb.any (fun e => e.op.isSome && e.on w n)) && !((s.core (coreOf s.cur)).reads.any (fun r => r.on s.cur w n)))
  let rs ← requests span rq ps
  let mut out := []
  for (w, l) in ws do
    match l with
    | [] => pure ⟨⟩
    | x :: _ =>
      match ← pick (fun s => wordValue s s.cur w n (partBytes (rdParts l)) (reqOf rs x.pl) rq acq) with
      | some bs => out := out ++ landBytes (rdParts l) bs
      | none => raise cPOISON x.va
  return out

/-- A read of thread `th` at place `n` of its accesses. -/
def readReq (th n : Nat) (vec : Bool) (rd : Nat) (sgn : Bool) (ps : List RdPart) (rq : Rq) (r : Req) : ReadReq :=
  { th := th, seq := n, vec := vec, rd := rd, sgn := sgn, parts := ps, rq := rq, ctx := r.pg.ctx, key := r.pg.key, cls := r.pg.cls,
    ms := r.pg.ms, fnc := r.pg.fnc, span := r.span, lo := r.lo, hi := r.hi, gl := r.gl }

/-- Issues the reads of an access for a register (R181): each word's read enters the core's read queue and is performed at once or later,
as the machine chooses. -/
def issueReads (ps : List AccPart) (vec : Bool) (rd : Nat) (sgn : Bool) (rq : Rq) (span : Nat) : M PUnit := do
  let rs ← requests span rq ps
  let n ← newSeq
  for (_, l) in byWord ps do
    match l with
    | [] => pure ⟨⟩
    | x :: _ =>
      let th := (← get).cur
      let e := readReq th n vec rd sgn (rdParts l) rq (reqOf rs x.pl)
      modify (fun s => (s.modCore (coreOf s.cur) (fun c => { c with reads := c.reads ++ [e] })).modMe (fun t => { t with pend := e.reg :: t.pend }))
      if (← pick (fun s => choose s 2)) == 0 then
        modify (fun s => forceRead s (coreOf s.cur) ((s.core (coreOf s.cur)).reads.length - 1))

/-- sr.EINFO of WBUDGET (R162). -/
def budgetInfo (s : State) (st : Nat) : Nat := st + 2 ^ 32 * min (toWindow s) (2 ^ 32 - 1)

/-- Secures the charge of the acting thread's store or atomic, one word on each listed stack (R159, R161, R162). With the budget exhausted
the thread stalls, or traps under WBT. -/
def secureAll (hbms : List Nat) : M PUnit := do
  let s ← get
  let q := coreOf s.cur
  let ctx := s.me.ctx
  for st in List.range 8 do
    let n := (hbms.filter (· == st)).length
    if n != 0 then
      if !(← pick (fun s => secure s q ctx st n)) then
        let s ← get
        if s.me.status.getLsbD 8 then raise cWBUDGET (budgetInfo s st)
        else
          set (s.modCore q (fun c => { c with stalled := if c.stalled.contains (s.cur, st) then c.stalled else (s.cur, st) :: c.stalled }))
          hold

/-- Spends a secured charge; the thread waits for no budget any more. -/
def spendAll (hbms : List Nat) : M PUnit :=
  modify (fun s => (hbms.foldl (fun s st => spend s (coreOf s.cur) s.me.ctx st 1) s).modCore (coreOf s.cur) (fun c =>
    { c with stalled := c.stalled.filter (fun x => x.1 != s.cur) }))

/-- Charges the acting thread's store: every word is secured before any is spent. -/
def charge (hbms : List Nat) : M PUnit := do
  secureAll hbms
  spendAll hbms

/-- Whether a store is charged (R159): RQ nc, an MS or force-nc page, a release of device or system scope. -/
def chargedStore (pg : Page) (rq : Rq) (wideRel : Bool) : Bool := wideRel || rq == .nc || pg.ms || pg.fnc

/-- The stacks that a store's words charge. -/
def chargeOf (rq : Rq) (wideRel : Bool) : Place → List Nat
  | .loc _ => []
  | .dev pa pg => if chargedStore pg rq wideRel then [stackOf pa] else []

/-- The stacks an atomic charges (R159, R301). -/
def chargeAtomic (wideSc : Bool) : Place → List Nat
  | .loc _ => []
  | .dev pa pg => if atHome wideSc pg then [stackOf pa] else []

/-- An entry at a place of the acting thread, with the request of its word. -/
def sbEntry (ctx n : Nat) (pl : Place) (bs : List (Option Byte)) (rq : Rq) (ord : MemOrd) (sc : Scope) (r : Req) : SbEntry :=
  { seq := n, ord := ord, scope := sc, loc := pl.word.1, pa := pl.word.2 * 32, bytes := padWord pl.off bs, rq := rq, key := r.pg.key,
    cls := r.pg.cls, ms := r.pg.ms, fnc := r.pg.fnc, span := r.span, lo := r.lo, hi := r.hi, gl := r.gl, ctx := ctx }

/-- An entry enters the acting thread's store buffer. -/
def pushEntry (f : Nat → SbEntry) : M Nat := do
  let n ← newSeq
  modify (fun s => s.modMe (fun t => { t with sb := t.sb ++ [f n] }))
  return n

/-- The writes of an access enter the acting thread's store buffer, one a word (R137, R181): `val` gives the bytes of each part. -/
def pushWrites (ps : List AccPart) (val : AccPart → List Byte) (rq : Rq) (ord : MemOrd) (sc : Scope) (span : Nat) : M PUnit := do
  let rs ← requests span rq ps
  let ctx := (← me).ctx
  for (_, l) in byWord ps do
    match l with
    | [] => pure ⟨⟩
    | x :: _ =>
      let bs := l.foldl (fun acc y =>
        (List.range 32).map (fun i => if y.pl.off ≤ i && i < y.pl.off + y.n then (val y)[i - y.pl.off]? else (acc[i]?).getD none))
        (List.replicate 32 none)
      let _ ← pushEntry (fun n => { sbEntry ctx n x.pl [] rq ord sc (reqOf rs x.pl) with bytes := bs })

/-- A release without a write enters the store buffer (R192); at thread scope there is nothing to do (R188). -/
def pushFence (sc : Scope) (nm : Bool) : M PUnit := do
  if sc != .thread then
    let ctx := (← me).ctx
    let _ ← pushEntry (fun n => { seq := n, fence := true, nm := nm, scope := sc, ctx := ctx })

/-- The release steps of R188 for an instruction of the acting thread that waits for them, once in an instruction: `prog` 2 while they go on,
4 when they are complete. -/
def releaseSteps (sc : Scope) : M PUnit := do
  if sc != .thread && (← me).prog != 4 then
    if (← me).prog != 2 then
      pushFence sc false
      modify (fun s => s.modMe (fun t => { t with prog := 2 }))
    if (← pick (fun s => choose s 2)) == 0 then modify (fun s => drainAll s s.cur)
    let s ← get
    await (s.me.sb.isEmpty && sackOf s s.cur == 0)
    modify (fun s => s.modMe (fun t => { t with prog := 4 }))

/-- The acquire steps of R189 for the acting thread. -/
def acquire (sc : Scope) : M PUnit := modify (fun s => acquireSteps s (coreOf s.cur) sc)

/-- The acting thread's earlier accesses to local words, and its fences, are performed before an instruction that reads or writes local
memory as its own work (R182, R192). -/
def settleLocal : M PUnit := do
  modify (fun s => drainAll (readsWhere s s.cur (fun r => r.word.1)) s.cur)
  let s ← get
  await (!(s.me.sb.any (fun e => e.loc || e.fence)) && !((s.core (coreOf s.cur)).sent.any (fun x => x.1 == s.cur && x.2.loc))
    && !((s.core (coreOf s.cur)).reads.any (fun r => r.th == s.cur && r.word.1)))

/-- The acting thread goes on behind an instruction of `len` bytes. -/
def done (len : Nat) (f : Thread → Thread) : M PUnit := modify (fun s => s.retireWith len f)

/-- Performs a thread's queued atomic number `n` on a word, with what comes before it: at its home, or at the near-memory unit with the
Chute writes before it (R167). -/
def forceAtomic (s : State) (th : Nat) (w : Bool × Nat) (n : Nat) : State :=
  let s := forceWord s th w (n + 1)
  if w.1 then s else fwdWait s (dieOf (coreOf th)) w.2

/-- An atomic of the acting thread (R138, R301): the checks, the charge, then its entry in the store buffer, behind its release steps; the
old value goes to `ret`. It is performed at once or later, as the machine chooses; an acquire waits for it (`prog` 8) and completes its
steps. -/
def atomicOp (ea : Nat) (rq : Rq) (ord : MemOrd) (sc : Scope) (op : Rmw) (ret : Option RetReg) (len : Nat) : M PUnit := do
  let n := op.size
  if (← me).prog != 8 then
    let pl ← resolve1 ea n rq true
    secureAll (chargeAtomic (wide sc) pl)
    let s ← get
    demand (!(ret.isSome && mayPoison s pl && (atHome (wide sc) pl.page || (held s (dieOf (coreOf s.cur)) pl.word.2).isNone))) cPOISON ea
    spendAll (chargeAtomic (wide sc) pl)
    let ctx := s.me.ctx
    let k ← pushEntry (fun k => { sbEntry ctx k pl [] rq ord sc (wordReq pl.page pl.word.2) with
      op := some op, at_ := pl.off, size := n, ret := ret })
    let regs := match ret with
      | some r => (if r.rd == 0 then [] else [r.rd]) ++ (if r.pair && (r.rd + 1) % 32 != 0 then [(r.rd + 1) % 32] else [])
      | none => []
    modify (fun s => s.modMe (fun t => { t with pend := regs ++ t.pend }))
    if ordAcq ord then modify (fun s => s.modMe (fun t => { t with prog := 8, opWait := some k }))
    else if ret.isSome then
      if (← pick (fun s => choose s 2)) == 0 then modify (fun s => forceAtomic s s.cur pl.word k)
  if (← me).prog == 8 then
    match (← me).opWait with
    | some k =>
      let s ← get
      match s.me.sb.find? (fun e => e.seq == k) with
      | some e => modify (fun s => forceAtomic s s.cur e.word k)
      | none =>
        match (s.core (coreOf s.cur)).sent.find? (fun x => x.1 == s.cur && x.2.seq == k) with
        | some (_, e) => modify (fun s => forceAtomic s s.cur e.word k)
        | none => modify (fun s => nmuDrain (chuteFlush s (coreOf s.cur)))
    | none => pure ⟨⟩
    await (← me).opWait.isNone
    acquire sc
  done len id

/-- The bytes of a record in the own Loft window (R203 item 2, R250): misaligned, outside the own window, or barred by R103. -/
def recordBytes (a : Word) (n align : Nat) : M (List Byte) := do
  let s ← get
  let t := s.me
  let q := coreOf s.cur
  let va := a.toNat
  demand (va % align == 0) cALIGN va
  demand (isLocal va && va % 2 ^ 56 + n ≤ scratch s q) cADDR va
  demand (loftAllowed s q t.ctx t.sup (va % 2 ^ 56) n) cPROT 0
  let k := loftKey q (va % 2 ^ 56)
  -- the thread's own undrained bytes come first (R182)
  let mut out : List Byte := []
  for i in List.range ((k % 32 + n + 31) / 32) do
    let w := (true, k / 32 + i)
    modify (fun s => readyWord s s.cur w t.seqNo)
    let s ← get
    await (!(s.me.sb.any (fun e => e.op.isSome && e.on w t.seqNo)))
    out := out ++ ((wordValue s s.cur w t.seqNo [] (wordReq {} 0) .loc none).2.getD [])
  return (out.drop (k % 32)).take n

/-- A little-endian field of a record. -/
def fld (bs : List Byte) (off n : Nat) : Nat := bytesToNat ((bs.drop off).take n)
/-- A zero field of a record. -/
def zeroFld (bs : List Byte) (off n : Nat) : Bool := ((bs.drop off).take n).all (· == 0)

end Sys2Proof.Machine
end

