-- ==== Sys2Proof/Machine/Handles.lean ====
section
/-! DEFINITION. Future handles, tokens and the ends of jobs (R388 to R390, R195). -/
namespace Sys2Proof.Machine

/-- A pending handle. -/
def Handle.pending : Handle → Bool
  | .job _ => true
  | .node _ => true
  | _ => false

/-- A settled handle. -/
def Handle.isSettled : Handle → Bool
  | .settled _ => true
  | _ => false

/-- The status word of an end state (R389). -/
def Settled.word (x : Settled) : Word := BitVec.ofNat 64 (x.info % 2 ^ 32 * 2 ^ 32 + x.cause % 256 * 256 + x.state)

/-- The status word of a handle (R389). -/
def Handle.status : Handle → Word
  | .empty => 4
  | .job _ => 0
  | .node _ => 0
  | .settled x => x.word

/-- The token of a handle (R390). -/
def Handle.token : Handle → Word
  | .empty => 0
  | .job j => BitVec.ofNat 64 (2 ^ 61 + j.ctx * 2 ^ 53 + j.unit * 2 ^ 50 + j.cl * 2 ^ 43 + j.core * 2 ^ 40 + j.seq % 2 ^ 32)
  | .node n => BitVec.ofNat 64 (2 * 2 ^ 61 + n)
  | .settled x => BitVec.ofNat 64 (3 * 2 ^ 61 + x.info % 2 ^ 32 * 2 ^ 16 + x.cause % 256 * 256 + x.state)

/-- Key of a unit's sequence counter: three units a cluster, a range walker a core, one key operation unit. -/
def unitKey (j : JobRef) : Nat :=
  match j.unit with
  | 3 => 1000 + j.cl * 8 + j.core
  | 4 => 3000
  | u => j.cl * 3 + u

/-- A job that its unit has accepted or holds and that has not completed. -/
def jobAlive (s : State) (j : JobRef) : Bool :=
  match j.unit with
  | 3 => (s.die (j.cl / 32)).walks.any (fun w => coreOf w.th == j.cl * 8 + j.core && w.seq == j.seq)
  | 4 => s.mgmt.keyOps.any (fun k => k.ref == some j)
      || s.mgmt.slots.any (fun e => e.2.waits.any (fun x => x.1 == j))
  | u => (s.clus j.cl).jobs.any (fun x => x.unit == u && x.seq == j.seq)

/-- The next sequence number of a unit, and the reference to the job that takes it. -/
def nextRef (s : State) (j : JobRef) : State × JobRef :=
  let k := unitKey j
  let n := (s.unit k).next
  (s.setUnit k { s.unit k with next := (n + 1) % 2 ^ 32 }, { j with seq := n })

/-- Changes every handle of every thread, those of displaced threads included. -/
def mapHandles (s : State) (f : Handle → Handle) : State :=
  let g := fun (t : Thread) => { t with h := tmap (fun _ h => f h) t.h }
  { s with
    threads := tmap (fun _ t => g t) s.threads
    nodes := tmap (fun _ n => { n with kept := tmap (fun _ t => g t) n.kept }) s.nodes }

/-- Every handle of every thread that names the job settles when it ends (R388), and its unit keeps the end state of its last
4,096 jobs (R390). -/
def settle (s : State) (j : JobRef) (r : Settled) : State :=
  let k := unitKey j
  let s := s.setUnit k { s.unit k with ended := (tins j.seq r (s.unit k).ended).filter (fun e => (j.seq + 2 ^ 32 - e.1) % 2 ^ 32 < 4096) }
  mapHandles s (fun h => if h == .job j then .settled r else h)

/-- Every handle that names a node settles when the node ends. -/
def settleNode (s : State) (id : Nat) (r : Settled) : State :=
  mapHandles s (fun h => if h == .node id then .settled { r with node := true } else h)

/-- A node has ended (R73). -/
def NodeState.ended : NodeState → Bool
  | .done | .faulted | .cancelled => true
  | _ => false

/-- The end state of an ended node. -/
def Node.settled (n : Node) : Settled :=
  { state := match n.st with | .done => 1 | .faulted => 2 | _ => 3, cause := n.cause, node := true }

/-- A node's id is older than the last 65,536 of its context (R58). -/
def nodeOld (s : State) (id : Nat) : Bool := id % 2 ^ 40 + 65536 ≤ (s.ctx (ctxOf id)).count

/-- The pool still knows a node: it lives, or its end state is among the last 65,536 of its context (R58). -/
def nodeKept (s : State) (id : Nat) : Bool := s.nodes.any (fun e => e.1 == id && !(e.2.st.ended && nodeOld s id))

/-- The handle that a token names for a thread of a context; none raises HANDLE (R393). -/
def handleOfToken (s : State) (ctx : Nat) (tok : Word) : Option Handle :=
  let n := tok.toNat
  match n / 2 ^ 61 with
  | 0 => if n == 0 then some .empty else none
  | 1 =>
    let j : JobRef := { ctx := bits n 60 53, unit := bits n 52 50, cl := bits n 49 43, core := bits n 42 40, seq := n % 2 ^ 32 }
    if bits n 39 32 != 0 || j.ctx != ctx || j.unit > 4 then none
    else
      match (s.unit (unitKey j)).ended.find? (fun e => e.1 == j.seq) with
      | some (_, r) => some (.settled r)
      | none => if jobAlive s j then some (.job j) else none
  | 2 =>
    let id := n % 2 ^ 48
    if bits n 60 48 != 0 || ctxOf id != ctx || !nodeKept s id then none
    else if (s.node id).st.ended then some (.settled (s.node id).settled) else some (.node id)
  | 3 =>
    if bits n 60 48 != 0 || bits n 7 3 != 0 || bits n 2 0 == 0 || bits n 2 0 > 3 then none
    else some (.settled { state := bits n 2 0, cause := bits n 15 8, info := bits n 47 16 })
  | _ => none

/-- An instruction that writes a pending handle first waits until its register is not pending (R388). -/
def awaitHandle (h : Nat) : M PUnit := do
  match (← me).rh h with
  | .node n =>
    modify (fun s => s.modMe (fun t => { t with waitOn := some n }))
    hold
  | x => await (!x.pending)

end Sys2Proof.Machine
end

