-- ==== Sys2Proof/Machine/Groups.lean ====
section
/-! DEFINITION. Phase groups, named barriers and wire barriers (R82, R119 to R123, R145, R146, R170, R199, R306). -/
namespace Sys2Proof.Machine

/-- Product of the COUNTs below level `j`: ranks in one level-j instance (R83). -/
def instSize (ls : List Level) (j : Nat) : Nat := ((ls.drop (j + 1)).map (·.count)).foldl (· * ·) 1

/-- Ranks of the members of a level instance. -/
def members (n : Node) (j inst : Nat) : List Nat :=
  (List.range n.crew.length).filter (fun r => r / instSize n.lrec.levels j == inst)

/-- Cores that hold members. -/
def memberCores (n : Node) (ms : List Nat) : List Nat := ((ms.filterMap (fun r => n.crew[r]?)).map coreOf).eraseDups

/-- Scope of a group: its level's, widened to device when it spans dies (R82). -/
def groupScope (n : Node) (j : Nat) (ms : List Nat) : Scope :=
  let sc := ((n.lrec.levels[j]?).map (·.scope)).getD 0
  if sc < 4 && ((memberCores n ms).map dieOf).eraseDups.length > 1 then .device else scopeOfNum sc

/-- Whether every member has arrived or ended (R199). -/
def groupReady (s : State) (node j inst : Nat) : Bool :=
  let n := s.node node
  let ph := tget {} s.phases (phaseKey node j inst)
  !ph.arrived.isEmpty && (members n j inst).all (fun r => ph.arrived.contains r || n.gone.contains r)

/-- One core's part of a boundary (R145, R146, R170): it drops the si copies that the union matches and those of MS words,
advances its die's stamp, and clears its signature when every thread on it is a member: what it has recorded since its last member's arrival
belongs to the next phase and stays (DEDUCED, log 105). -/
def boundaryCore (s : State) (node : Nat) (ms : List Nat) (isWide : Bool) (u : BitVec 1024) (q : Nat) : State :=
  let s := s.modCore q (fun c => { c with l1 := c.l1.filter (fun (p, l) => l.own || !(l.ms || (u &&& sigBits (p * 32)) == sigBits (p * 32))) })
  let s := advanceStamp s (dieOf q)
  let n := (s.die (dieOf q)).stamp
  let all := (List.range 4).all (fun k =>
    let t := s.th (q * 4 + k)
    !t.live || (t.node == node && ms.contains t.rank))
  s.modCore q (fun c => { c with
    msStamp := n
    acqStamp := if isWide then n else c.acqStamp
    acqAt := s.clock
    sig := if all then c.sigNew else c.sig })

/-- A member of core `q` has arrived (R145): when it is the core's last, the group takes the core's write signature. -/
def takeSig (s : State) (node j inst q : Nat) : State :=
  let n := s.node node
  let key := phaseKey node j inst
  let ph := tget {} s.phases key
  let mine := (members n j inst).filter (fun r => (n.crew[r]?).map coreOf == some q)
  if mine.all (fun r => ph.arrived.contains r || n.gone.contains r) then
    let s := { s with phases := tmod {} s.phases key (fun p => { p with sigs := tins q (s.core q).sig p.sigs }) }
    s.modCore q (fun c => { c with sigNew := 0 })
  else s

/-- The signature of core `q` in a group's union: as it was at its last member's arrival, or as it is where that member has exited. -/
def groupSig (s : State) (ph : Phase) (q : Nat) : BitVec 1024 :=
  match ph.sigs.find? (fun e => e.1 == q) with | some (_, g) => g | none => (s.core q).sig

/-- The boundary of a phase group (R199): the phase count advances and every member that has arrived may leave. -/
def passBoundary (s : State) (node j inst : Nat) : State :=
  let n := s.node node
  let ms := members n j inst
  let qs := memberCores n ms
  let ph := tget {} s.phases (phaseKey node j inst)
  let u := qs.foldl (fun a q => a ||| groupSig s ph q) 0
  let s := qs.foldl (fun s q => boundaryCore s node ms (wide (groupScope n j ms)) u q) s
  { s with phases := tmod {} s.phases (phaseKey node j inst) (fun p => { count := p.count + 1, arrived := [], due := p.arrived ++ p.due, sigs := [] }) }

/-- A named barrier of a core. -/
def barOf (s : State) (q id : Nat) : Barrier := tget {} (s.core q).bars id

/-- Home core of a barrier number for a thread of core `q` (R316). -/
def barHome (q b : Nat) : Nat := dieOf q * 256 + bits b 17 10

/-- A generation of barrier `id` at core `q` is released (R120): every wait for it is over, those of displaced threads included. -/
def barRelease (s : State) (q id : Nat) (old : Bool) : State :=
  let g := fun (t : Thread) => { t with barWait := t.barWait.map (fun w => if w.q == q && w.id == id && w.tok == old then { w with done := true } else w) }
  { s with
    threads := tmap (fun _ t => g t) s.threads
    nodes := tmap (fun _ n => { n with kept := tmap (fun _ t => g t) n.kept }) s.nodes }

/-- A configuration or arrival at the barrier's home (R120): the request's answer, none for BARRIER. -/
def barServe (s : State) (th : Nat) : State :=
  let t := s.th th
  match t.bar with
  | none => s
  | some r =>
    if r.reply.isSome then s
    else
      let q := barHome (coreOf th) r.b
      let id := r.b % 1024
      let x := barOf s q id
      let put := fun (x : Barrier) (s : State) => s.modCore q (fun c => { c with bars := tset {} c.bars id x })
      let answer := fun (a : Option Nat) (s : State) => s.modTh th (fun t => { t with bar := some { r with reply := some a } })
      if r.op == 0 then
        if x.arr != 0 || r.count == 0 || r.count > 1024 then answer none s
        else answer (some 0) (put { x with count := r.count, ctx := t.ctx, arr := 0 } s)
      else if x.count == 0 || x.ctx != t.ctx then answer none s
      else
        let tok := b2n x.gen
        answer (some tok) (if x.arr + 1 == x.count then barRelease (put { x with gen := !x.gen, arr := 0 } s) q id x.gen
          else put { x with arr := x.arr + 1 } s)

/-- Mesh position of a core of a die (R96). -/
def meshX (q : Nat) : Nat := q / 8 % 32 % 4 * 4 + q % 8 % 4
/-- Mesh row of a core (R96). -/
def meshY (q : Nat) : Nat := q / 8 % 32 / 4 * 2 + q % 8 / 4
/-- The core at a mesh position of a die (R96). -/
def coreAt (d x y : Nat) : Nat := d * 256 + ((y / 2) * 4 + x / 4) * 8 + (y % 2) * 4 + x % 4

/-- The rectangle of sr.WIREGRP: X0, Y0, WM1, HM1, SLOTS (R121). -/
def wireRect (g : Word) : Nat × Nat × Nat × Nat × Nat :=
  (bits g.toNat 3 0, bits g.toNat 7 4, bits g.toNat 11 8, bits g.toNat 15 12, bits g.toNat 19 16)

/-- Whether a group is one that the slot of core `q` may wait in (R121). -/
def wireOk (q slot : Nat) (g : Word) : Bool :=
  let (x0, y0, w, h, sl) := wireRect g
  x0 + w ≤ 15 && y0 + h ≤ 15 && x0 ≤ meshX q && meshX q ≤ x0 + w && y0 ≤ meshY q && meshY q ≤ y0 + h && bit sl slot

/-- A core's wire is raised (R122): every slot in SLOTS has arrived. -/
def wireRaised (s : State) (q : Nat) : Bool :=
  let (_, _, _, _, sl) := wireRect (s.core q).wiregrp
  sl != 0 && (List.range 4).all (fun k => !bit sl k || (match (s.th (q * 4 + k)).wire with | some w => w.result.isNone | none => false))

/-- The cores of the rectangle of core `q`'s group. -/
def wireCores (s : State) (q : Nat) : List Nat :=
  let (x0, y0, w, h, _) := wireRect (s.core q).wiregrp
  ((List.range (h + 1)).map (fun j => (List.range (w + 1)).map (fun i => coreAt (dieOf q) (x0 + i) (y0 + j)))).flatten

/-- Corner of core `q`'s group. -/
def wireCorner (s : State) (q : Nat) : Nat :=
  let (x0, y0, _, _, _) := wireRect (s.core q).wiregrp
  coreAt (dieOf q) x0 y0

/-- Whether two cores name the same rectangle. -/
def sameRect (s : State) (a b : Nat) : Bool := (s.core a).wiregrp.toNat % 65536 == (s.core b).wiregrp.toNat % 65536

/-- The corner finds every core of its rectangle raised (R122); a core with another rectangle is not counted. -/
def wireComplete (s : State) (corner : Nat) : Bool :=
  wireCorner s corner == corner && (wireCores s corner).all (fun q => sameRect s q corner && wireRaised s q)

/-- Completion at a corner (R122): every arrived thread of the rectangle gets result 1. -/
def wireDone (s : State) (corner : Nat) : State :=
  if wireComplete s corner then
    (wireCores s corner).foldl (fun s q => (List.range 4).foldl (fun s k =>
      s.modTh (q * 4 + k) (fun t => { t with wire := t.wire.map (fun w => if w.result.isNone then { w with result := some 1 } else w) })) s) s
  else s

end Sys2Proof.Machine
end

