-- ==== Sys2Proof/Machine/Elem.lean ====
section
/-! DEFINITION. What an arithmetic instruction computes on one element (R265, R277 to R280, R321): shared by the scalar, vector and
streamed instructions. -/
namespace Sys2Proof.Machine

/-- An exact result rounded into type T with the flags of its operands (R276). -/
def fRes (n : NumMode) (t : Ty) (mode rand : Nat) (ops : List FVal) (r : FVal × Flags) : Nat × Flags :=
  let (p, f) := rndF n t mode rand r.1
  (p, f ||| r.2 ||| sigFl ops)

/-- The pattern of an operand after the input flush of FZ (R228). -/
def flushed (n : NumMode) (t : Ty) (x : Nat) : Nat :=
  let f := fmtOf t n.nf
  if n.flush t && f.subnormal x then b2n (bit x (f.eb + f.fb)) * 2 ^ (f.eb + f.fb) else x % 2 ^ t.width

/-- The canonical NaN of a type (R223). -/
def canonNan (n : NumMode) (t : Ty) : Nat := (fmtOf t n.nf).nan.getD 0

/-- fminmax on patterns (R236, R278). -/
def fMinMax (n : NumMode) (t : Ty) (isMax : Bool) (x y : Nat) : Nat × Flags :=
  let a := decF n t x
  let b := decF n t y
  let r := if a.isNan && b.isNan then canonNan n t
    else if a.isNan then flushed n t y
    else if b.isNan then flushed n t x
    else if isMax then (if fltOrd a b then flushed n t y else flushed n t x)
    else (if fltOrd b a then flushed n t y else flushed n t x)
  (r, sigFl [a, b])

/-- The four forms of ffma (R277): FN 0 to 3. -/
def fFma (rdn : Bool) (fn : Nat) (a b c : FVal) : FVal × Flags :=
  ffma rdn (if fn ≥ 2 then a.neg else a) b (if fn % 2 == 1 then c.neg else c)

/-- The four forms of an integer multiply-add (R321). -/
def iFma (fn : Nat) (a b c : Int) : Int := (if fn ≥ 2 then -(a * b) else a * b) + (if fn % 2 == 1 then -c else c)

/-- Shifts of a `w`-bit pattern by `n` below `w` (R265): 0 shl, 1 shr, 2 sra, 3 rot. -/
def shiftPat (w kind a n : Nat) : Nat :=
  match kind with
  | 0 => a * 2 ^ n % 2 ^ w
  | 1 => a / 2 ^ n
  | 2 => if bit a (w - 1) then (a + 2 ^ w * (2 ^ n - 1)) / 2 ^ n else a / 2 ^ n
  | _ => (a * 2 ^ n % 2 ^ w) + a / 2 ^ (w - n)

/-- Leading zero bits of a `w`-bit pattern (R265). -/
def clzPat (w a : Nat) : Nat := if a == 0 then w else w - 1 - Nat.log2 a
/-- Trailing zero bits of a `w`-bit pattern (R265). -/
def ctzPat (w a : Nat) : Nat := (findNat (fun i => bit a i) w 0).getD w
/-- Set bits of a `w`-bit pattern (R265). -/
def popPat (w a : Nat) : Nat := ((List.range w).filter (fun i => bit a i)).length

/-- The bitwise operations: 0 and, 1 or, 2 xor. -/
def bitPat (k a b : Nat) : Nat := match k with | 0 => a &&& b | 1 => a ||| b | _ => a ^^^ b

/-- An exact integer as the pattern of T, clamped under SAT (R320). -/
def iRes (t : Ty) (sat : Bool) (x : Int) : Nat × Flags :=
  if sat then (patT t (satT t x), if satT t x == x then 0 else flSAT) else (patT t x, 0)

/-- Whether an operation of the element-wise table rounds a float result of type T. -/
def isF (t : Ty) : Bool := t.isFloat

/-- One element of the operations 0x70 to 0x7A (R321): OPC, FN, rounding mode and draw, SAT, patterns a, b and c. -/
def elemVal (n : NumMode) (t : Ty) (opc fn mode rand : Nat) (sat : Bool) (a b c : Nat) : Nat × Flags :=
  let w := t.width
  let x := decF n t a
  let y := decF n t b
  let z := decF n t c
  let i := valT t a
  let j := valT t b
  let k := valT t c
  let rdn := mode == 2
  let pa := a % 2 ^ w
  let pb := b % 2 ^ w
  match opc with
  | 0x70 => if isF t then fRes n t mode rand [x, y] (fadd rdn x y) else iRes t sat (i + j)
  | 0x71 => if isF t then fRes n t mode rand [x, y] (fadd rdn x y.neg) else iRes t sat (i - j)
  | 0x72 => if isF t then fRes n t mode rand [x, y] (fmul x y)
            else if fn == 1 then (patT t (i * j / 2 ^ w), 0) else iRes t sat (i * j)
  | 0x73 => if isF t then fRes n t mode rand [x, y, z] (fFma rdn fn x y z) else iRes t sat (iFma fn i j k)
  | 0x74 => if isF t then fMinMax n t false a b else (if j < i then pb else pa, 0)
  | 0x75 => if isF t then fMinMax n t true a b else (if i < j then pb else pa, 0)
  | 0x76 =>
    (match fn with
     | 0 => if isF t then (pa ^^^ 2 ^ (w - 1), 0) else iRes t sat (-i)
     | 1 => if isF t then (pa % 2 ^ (w - 1), 0) else iRes t sat i.natAbs
     | 2 => (2 ^ w - 1 - pa, 0)
     | 3 => (clzPat w pa, 0)
     | 4 => (popPat w pa, 0)
     | _ => fRes n t mode rand [x] (fsqrt x))
  | 0x77 => (bitPat 0 pa pb, 0)
  | 0x78 => (bitPat 1 pa pb, 0)
  | 0x79 => (bitPat 2 pa pb, 0)
  | _ => (shiftPat w fn pa (b % 64 % w), 0)

/-- One conversion of vcvt (R323): integer to integer wraps or saturates by SAT, the rest is fcvt. -/
def cvtVal (n : NumMode) (src dst : Ty) (mode rand : Nat) (sat : Bool) (x : Nat) : Nat × Flags :=
  if src.isInt && dst.isInt then iRes dst sat (valT src x) else cvt n src dst mode rand x

end Sys2Proof.Machine
end

