-- ==== Sys2Proof/Machine/Shape.lean ====
section
/-! DEFINITION. Tiles in use (R110, R111), shape records (R331, R332), and elements at local homes (R337). -/
namespace Sys2Proof.Machine

/-- A tile entry of a core. -/
def tileOf (s : State) (q n : Nat) : Tile := tget {} (s.core q).tiles n
/-- Changes a tile entry. -/
def modTile (s : State) (q n : Nat) (f : Tile → Tile) : State := s.modCore q (fun c => { c with tiles := tmod {} c.tiles n f })
/-- sr.EINFO of TILESTATE (R207). -/
def tileInfo (n st : Nat) : Nat := n + 256 * st

/-- A use of a tile (R111): TILESTATE for another context's entry or an EMPTY one; waits while it fills or drains. -/
def tileUse (n : Nat) : M Tile := do
  let s ← get
  let x := tileOf s (coreOf s.cur) n
  demand (x.ctx == s.me.ctx && x.st != 0) cTILESTATE (tileInfo n x.st)
  await (x.st == 2)
  return x

/-- The checks of a use that come before any wait. -/
def tileCheck (n : Nat) : M PUnit := do
  let s ← get
  let x := tileOf s (coreOf s.cur) n
  demand (x.ctx == s.me.ctx && x.st != 0) cTILESTATE (tileInfo n x.st)

/-- A shape record (R331): `tile` names the tile of its base. -/
structure Shape where
  base : Nat
  tile : Option Nat
  ty   : Ty
  n    : List Nat
  st   : List Nat
  deriving DecidableEq, Repr

/-- Reads a shape record; none when it is malformed (R331). -/
def parseShape (bs : List Byte) : Option Shape :=
  let ctrl := fld bs 0x24 4
  let base := fld bs 0 8
  let tile := bit ctrl 8
  match Ty.ofCode (ctrl % 64) with
  | some ty =>
    if ty != .f36 && ty != .i36 && bits ctrl 7 6 == 0 && bits ctrl 31 9 == 0 && zeroFld bs 0x28 24
        && (if tile then decide (base < 256) else isLocal base && base % esize ty == 0) then
      some { base := base, tile := if tile then some base else none, ty := ty,
             n := [fld bs 8 4, fld bs 12 4, fld bs 16 4, fld bs 20 4], st := [1, fld bs 0x18 4, fld bs 0x1C 4, fld bs 0x20 4] }
    else none
  | none => none

/-- Elements of a shape. -/
def Shape.count (x : Shape) : Nat := x.n.foldl (· * ·) 1
/-- Element index of an index tuple. -/
def Shape.index (x : Shape) (i : List Nat) : Nat := (List.zipWith (· * ·) x.st i).foldl (· + ·) 0
/-- Bytes from the base to the end of the extent (R332); 0 for a record with no elements. -/
def Shape.extent (x : Shape) : Nat :=
  if x.n.contains 0 then 0 else (x.index (x.n.map (· - 1)) + 1) * esize x.ty
/-- The `k`-th index tuple, i0 fastest (R334). -/
def Shape.tuple (x : Shape) (k : Nat) : List Nat :=
  (x.n.foldl (fun (acc : List Nat × Nat) n => (acc.1 ++ [acc.2 % n], acc.2 / n)) ([], k)).1

/-- Reads the `k` shape records from address `r` (R250, R331): a malformed one raises ADDR with its own address. -/
def readShapes (r : Word) (k : Nat) : M (List Shape) := do
  let mut raw : List (List Byte) := []
  for i in List.range k do
    raw := raw ++ [← recordBytes (r + BitVec.ofNat 64 (64 * i)) 64 64]
  let mut out : List Shape := []
  for i in List.range k do
    match parseShape ((raw[i]?).getD []) with
    | some x => out := out ++ [x]
    | none => raise cADDR (r + BitVec.ofNat 64 (64 * i)).toNat
  return out

/-- The base of a shape as an address: a tile's base is the own-Loft window address of its range (R331). -/
def Shape.addr (s : State) (q : Nat) (x : Shape) : Nat :=
  match x.tile with
  | some n => 0xFF00000000000000 + (tileOf s q n).base * 64
  | none => x.base

/-- The checks of R332 and R201 for a streamed record, before any tile is used. -/
def checkShape (r : Nat) (x : Shape) : M PUnit := do
  let s ← get
  let t := s.me
  let q := coreOf s.cur
  demand (x.ty.width != 4 && x.count ≤ 2 ^ 20) cADDR r
  if x.extent != 0 then
    let a := Shape.addr s q x
    remoteRange a x.extent
    demand ((localCheck s q t.ctx t.sup a x.extent).toOption.isSome) cADDR r
    match x.tile with
    | some n => demand (x.extent ≤ ((tileOf s q n).lenm1 + 1) * 64) cADDR r
    | none => pure ⟨⟩

/-- Reads the records of a streamed instruction and makes every check and every wait of its tiles. `extra` are the checks of the
instruction's own rule on the records' contents. -/
def streamShapes (r : Word) (k : Nat) (extra : List Shape → M PUnit) : M (List Shape) := do
  let xs ← readShapes r k
  extra xs
  for i in List.range k do
    match xs[i]? with
    | some x => checkShape (r + BitVec.ofNat 64 (64 * i)).toNat x
    | none => pure ⟨⟩
  for x in xs do
    match x.tile with
    | some n => tileCheck n
    | none => pure ⟨⟩
  for x in xs do
    match x.tile with
    | some n => let _ ← tileUse n
    | none => pure ⟨⟩
  settleLocal
  return xs

/-- Home of the element at an index tuple. -/
def Shape.home (s : State) (x : Shape) (i : List Nat) : Nat :=
  let q := coreOf s.cur
  match localCheck s q 0 true (Shape.addr s q x + x.index i * esize x.ty) (esize x.ty) with
  | .ok k => k
  | .error _ => 0

/-- The element at an index tuple. -/
def Shape.get (s : State) (x : Shape) (i : List Nat) : Nat := bytesToNat (locRead s (x.home s i) (esize x.ty))
/-- Writes the element at an index tuple. -/
def Shape.put (s : State) (x : Shape) (i : List Nat) (v : Nat) : State :=
  locWrite s (x.home s i) ((natToBytes (esize x.ty) v).map some)

end Sys2Proof.Machine
end

