-- ==== Sys2Proof/Machine/Jobs.lean ====
section
/-! DEFINITION. What every engine job and get/put entry shares: accesses that park, fail or stall instead of trapping (R8, R162,
R177), the die fault queue (R177, R178), footprints (R196, R354), submission and acceptance (R194, R356), and completion (R195). -/
namespace Sys2Proof.Machine

/-- Work for a thread that is not the acting one. -/
def asThread (s : State) (th : Nat) (f : State → State) : State :=
  { f { s with cur := th } with cur := s.cur, blocked := s.blocked }

/-- How the access of a job or entry ends short: it parks at an address (R177), it faults, or it waits for budget (R162). -/
inductive JobStop where
  | park (va cause info : Nat) (write : Bool)
  | fail (cause info : Nat)
  | stall
  deriving DecidableEq, Repr

/-- Work of a job or entry. -/
abbrev J (α : Type) := ExceptT JobStop (StateM State) α

/-- Ends a job faulted with a cause and its own information (R210). -/
def jfail {α : Type} (cause info : Nat) : J α := throw (.fail cause info)
/-- A state change with an answer, in a job. -/
def jpick {α : Type} (f : State → State × α) : J α := do
  let s ← get
  let (s, r) := f s
  set s
  pure r

/-- Who makes an access: the submitting core, its context and mode, and the job (unit 0 to 2) or, for a get/put entry, its number. -/
structure Agent where
  q   : Nat
  ctx : Nat
  sup : Bool
  job : Option (Nat × Nat × Nat) := none
  gp  : Nat := 0
  deriving DecidableEq, Repr

/-- The number of an agent among those of its core that wait for budget (R166): the threads' numbers come first. -/
def Agent.who (a : Agent) : Nat :=
  match a.job with
  | some (_, u, n) => 8192 + n * 4 + u
  | none => 4096 + a.gp

/-- A job of a cluster by unit and sequence number. -/
def jobAt (s : State) (cl unit seq : Nat) : Option Job := (s.clus cl).jobs.find? (fun j => j.unit == unit && j.seq == seq)

/-- Changes a job. -/
def modJob (s : State) (cl unit seq : Nat) (f : Job → Job) : State :=
  s.modClus cl (fun c => { c with jobs := c.jobs.map (fun j => if j.unit == unit && j.seq == seq then f j else j) })

/-- The agent of a job. -/
def Job.agent (j : Job) : Agent :=
  { q := coreOf j.th, ctx := j.ctx, sup := j.status.getLsbD 0, job := some (clusOf (coreOf j.th), j.unit, j.seq) }

/-- Splits `n` bytes of a write from an address (R137, R152): whole frames go as one write (DESIGN CHOICE, log 106), the rest word by word. -/
def outSplit (va n : Nat) : Nat → List (Nat × Nat)
  | 0 => []
  | fuel + 1 =>
    if n == 0 then []
    else
      let m := if va % 512 == 0 && 512 ≤ n then 512 else min n (32 - va % 32)
      (va, m) :: outSplit (va + m) (n - m) fuel

/-- The writes of `n` bytes from an address. -/
def outPieces (va n : Nat) : List (Nat × Nat) := outSplit va n (n / 32 + 2)

/-- Splits `n` bytes from an address at word boundaries (R137). -/
def pieces (va n : Nat) : Nat → List (Nat × Nat)
  | 0 => []
  | fuel + 1 => if n == 0 then [] else let m := min n (32 - va % 32); (va, m) :: pieces (va + m) (n - m) fuel

/-- The pieces of `n` bytes from an address. -/
def wordPieces (va n : Nat) : List (Nat × Nat) := pieces va n (n / 32 + 2)

/-- Home of a local window address of core `q`, its bounds having been checked. -/
def localHome (q va : Nat) : Nat :=
  match window q va with
  | .loft q' o => loftKey q' o
  | .gran d o => granKey d o
  | .none => 0

/-- Translation for a job or entry (R8): XLATE and PROT park, the rest fails. -/
def jTranslate (a : Agent) (va : Nat) (acc : Acc) : J (Nat × Page) := do
  match ← jpick (fun s => translate s a.q a.ctx a.sup va acc) with
  | .ok r => pure r
  | .error f =>
    if f.cause == cXLATE || f.cause == cPROT then throw (.park va f.cause (f.info % 256) (acc == .write))
    else jfail f.cause 0

/-- An nc read of word `p` at the die home (R139, R140, R193); clean words older than `stamp` are fetched again (R143). -/
def dieRead (s : State) (d p : Nat) (pg : Page) (stamp : Nat) : State × Option (BitVec 256) :=
  let home := fun (s : State) => let (s, r) := homeRead s (p * 32) 32 pg.ctx pg.key pg.cls; (s, r.map wordOf)
  let s := fwdWait s d p
  let s := recallWord s d p
  match held s d p with
  | none => home s
  | some (x, w) =>
    if pg.ms then home s
    else if !w.dirty && x.stamp < stamp then
      let (s, ok) := refetch s d p pg
      (s, if ok then (held s d p).map (fun e => e.2.data) else none)
    else (touch s d p, some w.data)

/-- The acquire stamp that an engine's die-home read honours: its submitter's core and its own unit's (R194, R358). -/
def engineStamp (s : State) (q : Nat) : Nat := max (s.core q).acqStamp (s.clus (clusOf q)).stamp

/-- One read of a job: a read that its present part has performed already is not repeated (R178), and before a later one of the part the
job may stop, by choice, and go on in a later step (R179). -/
def jLog (a : Agent) (m : J (List Byte)) : J (List Byte) := do
  match a.job with
  | none => m
  | some (cl, u, n) =>
    match jobAt (← get) cl u n with
    | none => m
    | some j =>
      match j.got[j.gotAt]? with
      | some bs =>
        modify (fun s => modJob s cl u n (fun j => { j with gotAt := j.gotAt + 1 }))
        return bs
      | none =>
        if j.gotAt != 0 && (← jpick (fun s => choose s 2)) == 1 then throw .stall
        let bs ← m
        modify (fun s => modJob s cl u n (fun j => { j with got := j.got ++ [bs], gotAt := j.gotAt + 1 }))
        return bs

/-- What a job's part has read is used up: the part has been done. -/
def Job.commit (j : Job) : Job := { j with got := [], gotAt := 0 }

/-- Reads `n` bytes: local ones at their home, device memory at the die home (R193). -/
def jRead (a : Agent) (va n : Nat) : J (List Byte) := do
  if isLocal va then jLog a (return locRead (← get) (localHome a.q va) n)
  else
    let mut out := []
    for (v, m) in wordPieces va n do
      out := out ++ (← jLog a (do
        let (pa, pg) ← jTranslate a v .read
        match ← jpick (fun s => dieRead s (dieOf a.q) (pa / 32) pg (engineStamp s a.q)) with
        | some w => return ((wordBytes w).drop (pa % 32)).take m
        | none => jfail cPOISON 0))
    return out

/-- Reads `n` bytes of device memory at the memory home (R193). -/
def jReadHome (a : Agent) (va n : Nat) : J (List Byte) := do
  let mut out := []
  for (v, m) in wordPieces va n do
    out := out ++ (← jLog a (do
      let (pa, pg) ← jTranslate a v .read
      match ← jpick (fun s => homeRead (fwdWait s (dieOf a.q) (pa / 32)) pa m pg.ctx pg.key pg.cls) with
      | some bs => return bs
      | none => jfail cPOISON 0))
  return out

/-- Reads a tensor-table entry at its memory home as one event (R68, R377): 64 bytes, and where `second` holds of them the 64 bytes of
the pair's second half, which lie in the same frame. -/
def jReadEntry (a : Agent) (va : Nat) (second : List Byte → Bool) : J (List Byte) :=
  let half := fun (w : Nat) => do
    let mut out := []
    for (v, m) in wordPieces w 64 do
      let (pa, pg) ← jTranslate a v .read
      match ← jpick (fun s => homeRead (fwdWait s (dieOf a.q) (pa / 32)) pa m pg.ctx pg.key pg.cls) with
      | some bs => out := out ++ bs
      | none => jfail cPOISON 0
    return out
  jLog a (do
    let e ← half va
    if second e then return e ++ (← half (va + 64)) else return e)

/-- Records that a 64-byte block is written: in the core's signature at once for a put, when the job completes for a job (R144). -/
def noteBlock (a : Agent) (pa : Nat) (s : State) : State :=
  match a.job with
  | none => recordSig s a.q pa
  | some (cl, u, n) => modJob s cl u n (fun j =>
      if j.written.contains (pa / 64) || j.written.length > 4096 then j else { j with written := pa / 64 :: j.written })

/-- An agent waits for budget on a stack (R162, R166). -/
def jStall {α : Type} (a : Agent) (st : Nat) : J α := do
  modify (fun s => s.modCore a.q (fun c => { c with
    stalled := if c.stalled.contains (a.who, st) then c.stalled else (a.who, st) :: c.stalled }))
  throw .stall

/-- Charges an agent words on the listed stacks (R161), all before any is spent; it stalls while a budget is exhausted (R162). -/
def jCharge (a : Agent) (hbms : List Nat) : J PUnit := do
  for st in List.range 8 do
    let n := (hbms.filter (· == st)).length
    if n != 0 then
      if !(← jpick (fun s => secure s a.q a.ctx st n)) then jStall a st
  modify (fun s => (hbms.foldl (fun s st => spend s a.q a.ctx st 1) s).modCore a.q (fun c => { c with
    stalled := c.stalled.filter (fun x => x.1 != a.who) }))

/-- A Chute write of bytes that lie in one word, or are a whole frame (R152). -/
def piece (pa : Nat) (bs : List Byte) (pg : Page) (charged limited : Bool) : ChuteW :=
  let l := bs.map some
  if bs.length == 512 then mkWrite pa l pg.ctx pg.key pg.cls charged limited
  else mkWrite (pa / 32 * 32) (padWord (pa % 32) l) pg.ctx pg.key pg.cls charged limited

/-- Writes bytes: local ones at their home, device memory as charged Chute writes (R159). -/
def jWrite (a : Agent) (va : Nat) (bs : List Byte) : J PUnit := do
  if isLocal va then modify (fun s => locWrite s (localHome a.q va) (bs.map some))
  else
    for (v, m) in outPieces va bs.length do
      let (pa, pg) ← jTranslate a v .write
      jCharge a (List.replicate ((m + 31) / 32) (stackOf pa))
      for k in List.range ((m + 63) / 64) do
        modify (noteBlock a (pa + 64 * k))
      modify (fun s => writeHome s a.q (piece pa ((bs.drop (v - va)).take m) pg true true))

/-! ### The die fault queue -/

/-- Records a fault queue holds (R178). -/
def fqSize (d : Die) : Nat := 2 ^ (bits d.fqcfg.toNat 35 32 + 6)

/-- An earlier fault of the die still awaits its record (R177): records are placed in fault order. -/
def recordWaits (s : State) (d ord : Nat) : Bool :=
  let early := fun (p : Option Park) => match p with | some p => p.token.isNone && p.ord < ord | none => false
  s.clusters.any (fun e => e.1 / 32 == d && e.2.jobs.any (fun j => early j.park))
    || s.cores.any (fun e => dieOf e.1 == d && e.2.gp.any (fun x => early x.park))

/-- A fault of an access at `va` parks it (R177): it takes its place in the die's fault order; under PROT, the page has a key slot. -/
def newPark (s : State) (q ctx va cause info : Nat) (write : Bool) : State × Park :=
  let key := if cause == cPROT then (match (leaf s q ctx va).2 with | .ok (pte, _) => some (bits pte.toNat 63 54) | .error _ => none) else none
  (s.modDie (dieOf q) (fun x => { x with faults := x.faults + 1 }),
    { va := va, cause := cause, info := info, write := write, key := key, ord := (s.die (dieOf q)).faults })

/-- Writes a fault record (R177), and bumps the notify counter; the answer is its TOKEN, none when the queue is full or an earlier fault
comes first. -/
def faultRecord (s : State) (d cl c unit entry ctx : Nat) (p : Park) : State × Option Nat :=
  let x := s.die d
  if (x.fqTail - x.fqHead).toNat ≥ fqSize x || recordWaits s d p.ord then (s, none)
  else
    let tok := x.fqSeq % 4096 * 2 ^ 20 + cl % 32 * 2 ^ 15 + c % 8 * 2 ^ 12 + unit * 2 ^ 9 + entry % 512
    let off := bits x.fqcfg.toNat 23 5 * 32 + x.fqTail.toNat % fqSize x * 32
    let word := p.cause + p.info % 256 * 256 + b2n p.write * 65536 + ctx * 2 ^ 24
    let bs := natToBytes 8 p.va ++ natToBytes 4 tok ++ natToBytes 4 word ++ natToBytes 8 s.clock ++ natToBytes 8 0
    let s := locWrite s (granKey d off) (bs.map some)
    let s := s.modDie d (fun x => { x with fqTail := x.fqTail + 1, fqSeq := x.fqSeq + 1 })
    let s := if x.fqcfg.getLsbD 62 then
        s.modCore (d * 256 + bits x.fqcfg.toNat 61 54) (fun k => { k with
          cc := tmod {} k.cc (bits x.fqcfg.toNat 53 48) (fun v => { v with value := v.value + 1 }) })
      else s
    (s, some tok)

/-! ### Footprints -/

/-- A local or device range as a footprint region of core `q` (R196); none when it names no local memory. -/
def mkRegion (q : Nat) (write : Bool) (va len : Nat) : Option Region :=
  if isLocal va then
    match window q va with
    | .loft q' o => some { write := write, loc := true, lo := loftKey q' o, len := len }
    | .gran d o => some { write := write, loc := true, lo := granKey d o, len := len }
    | .none => none
  else some { write := write, loc := false, lo := va, len := len }

/-- A footprint region of a card is malformed (R354). -/
def regionBad (w : Nat) : Bool :=
  if bit w 63 then bits w 61 57 < 6 || (!bit w 56 && bit w 55) else w != 0

/-- The regions of a card's footprint list (R354), eight words from offset `off`. -/
def cardFoot (q : Nat) (card : List Byte) (off : Nat) : List Region :=
  (List.range 8).filterMap (fun i =>
    let w := fld card (off + 8 * i) 8
    if bit w 63 then mkRegion q (bit w 62) ((if bit w 56 then 0xFF00000000000000 else 0) + w % 2 ^ 56) (2 ^ bits w 61 57) else none)

/-- A card's footprint list holds a malformed region. -/
def footBad (card : List Byte) (off : Nat) : Bool := (List.range 8).any (fun i => regionBad (fld card (off + 8 * i) 8))

/-- Two regions overlap and one of them is written. -/
def Region.meets (a b : Region) : Bool :=
  (a.write || b.write) && a.loc == b.loc && a.lo < b.lo + b.len && b.lo < a.lo + a.len

/-- The accumulator tiles (0 to 7) and curves (8 to 23) that an MXE entry reads, and those it writes (R357). -/
def Job.scoreboard (j : Job) : List Nat × List Nat :=
  let ctl := fld j.card 0 8
  match j.kind with
  | .mx =>
    let t := bits ctl 26 24
    let tiles := if bits ctl 13 8 == Ty.e2m1.code then [t, t + 1] else [t]
    let used := (List.range (bits ctl 31 28 + 1)).map (fun k => bits (fld j.card 0x28 8) (4 * k + 3) (4 * k))
    let curves := if bit ctl 4 then used.map (fun b => 8 + (bits ctl 35 32 + b) % 16) else []
    ((if bit ctl 5 then [] else tiles) ++ curves, tiles)
  | .drain => ([fld j.card 0x0C 4 % 8], [])
  | .zero => ([], (List.range 8).filter (fun i => bit j.arg i))
  | .curve => ([], [8 + j.arg])
  | _ => ([], [])

/-- An earlier entry of the unit holds back a later one (R196, R357). -/
def Job.before (e l : Job) : Bool :=
  let (er, ew) := e.scoreboard
  let (lr, lw) := l.scoreboard
  e.foot.any (fun a => l.foot.any (fun b => a.meets b && (a.loc || e.ctx == l.ctx)))
    || lw.any (fun x => er.contains x || ew.contains x) || lr.any (fun x => ew.contains x)

/-- Every edge to job `seq` is met: no earlier accepted, uncompleted entry of its unit holds it back. -/
def edgesMet (s : State) (cl unit seq : Nat) : Bool :=
  let l := (s.clus cl).jobs.filter (fun j => j.unit == unit && j.st != .submitted)
  match l.find? (fun j => j.seq == seq) with
  | some j => (l.takeWhile (fun j => j.seq != seq)).all (fun e => !e.before j)
  | none => false

/-! ### Submission and acceptance -/

/-- Entries of a unit's queue (R356). -/
def unitQueue : Nat := 32

/-- The entries of a unit's queue with its pending submissions. -/
def unitJobs (s : State) (cl unit : Nat) : List Job := (s.clus cl).jobs.filter (fun j => j.unit == unit)

/-- The reference to a job. -/
def Job.ref (j : Job) : JobRef :=
  { ctx := j.ctx, unit := j.unit, cl := clusOf (coreOf j.th), core := coreOf j.th % 8, seq := j.seq }

/-- Bytes of the instruction that submits a kind of job. -/
def JobKind.len : JobKind → Nat
  | .zero => 8
  | _ => 16

/-- The arbiter of a unit accepts one submission (R356): round-robin over the cores, the oldest of a core first. The submitter's
earlier writes have left its store buffer (R194), and its instruction is done. -/
def acceptJob (s : State) (cl unit : Nat) : State :=
  let l := (s.clus cl).jobs
  let start := tget 0 (s.clus cl).arb unit
  let pend := l.filter (fun j => j.unit == unit && j.st == .submitted)
  if (l.filter (fun j => j.unit == unit && j.st != .submitted)).length ≥ unitQueue then s
  else
    match ((List.range 8).map (fun i => (start + i) % 8)).findSome? (fun c => pend.find? (fun j => coreOf j.th % 8 == c)) with
    | none => s
    | some j =>
      let s := drainAll s j.th
      if !(s.th j.th).sb.isEmpty || sackOf s j.th != 0 then s
      else
      let s := s.modClus cl (fun c => { c with
        arb := tset 0 c.arb unit ((coreOf j.th % 8 + 1) % 8)
        jobs := c.jobs.filter (fun x => !(x.unit == unit && x.seq == j.seq)) ++ [{ j with st := .accepted }] })
      asThread s j.th (fun s => s.retireWith j.kind.len (fun t =>
        let t := { t with sub := false }
        match j.hd with | some h => t.wh h (.job j.ref) | none => t))

/-- A thread whose submission is still waiting for the arbiter goes on waiting (R356). -/
def awaitSub : M PUnit := do if (← me).sub then hold

/-- Submits a job of the acting thread (R355, R356): it waits while the queue is full. The arbiter may accept it at once when no other
submission is pending. -/
def submitJob (j : Job) : M PUnit := do
  let s ← get
  let cl := clusOf (coreOf s.cur)
  await (decide ((unitJobs s cl j.unit).length < unitQueue))
  let r ← pick (fun s => nextRef s { unit := j.unit, cl := cl })
  let others := (unitJobs s cl j.unit).any (fun x => x.st == .submitted)
  modify (fun s => (s.modClus cl (fun c => { c with jobs := c.jobs ++ [{ j with seq := r.seq, st := .submitted }] })).modMe
    (fun t => { t with sub := true }))
  let c ← pick (fun s => choose s 2)
  if c == 0 && !others then
    modify (fun s => acceptJob s cl j.unit)
    if (← me).sub then hold
    modify (fun s => { s with blocked := false })
  else hold

/-- A job of the acting thread with its card. -/
def newJob (unit : Nat) (kind : JobKind) (card : List Byte) (hd : Option Nat) : M Job := do
  let s ← get
  let t := s.me
  return { seq := 0, unit := unit, kind := kind, th := s.cur, ctx := t.ctx, node := t.node, status := t.status, card := card, hd := hd }

/-! ### Running and completing -/

/-- A fill of a tile ends (R111). -/
def fillDone (s : State) (q n : Nat) (faulted : Bool) : State :=
  modTile s q n (fun x =>
    let flt := x.flt || faulted
    if x.pend ≤ 1 then { x with pend := 0, flt := flt, st := if flt then 0 else 2 } else { x with pend := x.pend - 1, flt := flt })

/-- A job has made its last access: its result is known, and a tile it fills is told (R111). -/
def endJob (s : State) (cl unit seq : Nat) (r : Settled) : State :=
  match jobAt s cl unit seq with
  | none => s
  | some j =>
    if j.result.isSome then s
    else
      let s := modJob s cl unit seq (fun j => { j.commit with st := .ended, park := none, result := some r })
      let s := s.modCore (coreOf j.th) (fun c => { c with stalled := c.stalled.filter (fun x => x.1 != j.agent.who) })
      match j.kind, j.tileD with
      | .copy, some n => fillDone s (coreOf j.th) n (r.state != 1)
      | _, _ => s

/-- Parks a job (R177): without a fault queue it completes faulted at once. -/
def parkJob (s : State) (cl unit seq : Nat) (p : Park) : State :=
  match jobAt s cl unit seq with
  | none => s
  | some j =>
    let d := cl / 32
    if !(s.die d).fqcfg.getLsbD 63 then endJob s cl unit seq { state := 2, cause := p.cause }
    else
      let (s, tok) := faultRecord s d (cl % 32) (coreOf j.th) (unit + 1) seq j.ctx p
      modJob s cl unit seq (fun j => { j with park := some { p with token := tok } })

/-- Runs a job's work from where it stands, the reads of its present part first as they were (R178). A parked job only tries again to have
its fault recorded. -/
def runJob (s : State) (cl unit seq : Nat) (body : Job → J PUnit) : State :=
  match jobAt s cl unit seq with
  | none => s
  | some j =>
    match j.park with
    | some p => if p.token.isNone then parkJob s cl unit seq p else s
    | none =>
      match (body j).run (modJob s cl unit seq (fun j => { j with gotAt := 0 })) with
      | (.ok _, s) => modJob s cl unit seq Job.commit
      | (.error .stall, s) => s
      | (.error (.fail c i), s) => endJob s cl unit seq { state := 2, cause := c, info := i }
      | (.error (.park va c i w), s) =>
        let (s, p) := newPark s (coreOf j.th) j.ctx va c i w
        parkJob s cl unit seq p

/-- Ends a job's work: its result is done. -/
def jDone (j : Job) : J PUnit := modify (fun s => endJob s (clusOf (coreOf j.th)) j.unit j.seq {})

/-- Changes the job that is running. -/
def jMod (j : Job) (f : Job → Job) : J PUnit := modify (fun s => modJob s (clusOf (coreOf j.th)) j.unit j.seq f)

/-- Works through a job's parts in order from the first that is not done yet; between two of them it may stop, by choice, and go on in a
later step (R179). Accesses already performed are not repeated (R178). -/
def jParts (j : Job) (l : List (J PUnit)) : J PUnit := do
  for (u, i) in l.zipIdx do
    if i ≥ j.prog then
      if i > j.prog && (← jpick (fun s => choose s 2)) == 1 then throw .stall
      u
      jMod j (fun j => { j.commit with prog := i + 1 })

/-- A job completes (R195): its writes are performed at their homes, its blocks enter the core's signature (R144), and every handle
that names it settles. -/
def completeJob (s : State) (cl unit seq : Nat) : State :=
  match jobAt s cl unit seq with
  | none => s
  | some j =>
    match j.result with
    | none => s
    | some r =>
      let q := coreOf j.th
      let s := chuteFlush s q
      let s := (List.range 8).foldl (fun s st => nmuAll s st) s
      let s := if j.written.length > 4096 then s.modCore q (fun c => { c with sig := BitVec.allOnes 1024 })
        else j.written.foldl (fun s b => recordSig s q (b * 64)) s
      let s := s.modClus cl (fun c => { c with jobs := c.jobs.filter (fun x => !(x.unit == unit && x.seq == seq)) })
      settle s j.ref r

/-- Cancels an accepted job that has not started (R394): its handles settle as cancelled, a tile it was to fill counts a faulted
fill. -/
def cancelJob (s : State) (cl unit seq : Nat) : State × Bool :=
  match jobAt s cl unit seq with
  | none => (s, false)
  | some j =>
    if j.st == .accepted || (j.unit == 0 && j.st == .prepared) then
      let s := match j.kind, j.tileD with
        | .copy, some n => fillDone s (coreOf j.th) n true
        | _, _ => s
      let s := s.modClus cl (fun c => { c with jobs := c.jobs.filter (fun x => !(x.unit == unit && x.seq == seq)) })
      (settle s j.ref { state := 3 }, true)
    else (s, false)

/-- Reads a record of the card's size for a job instruction (R203 item 2), the thread's earlier local writes included. -/
def cardBytes (o : OpJ) (n : Nat) (t : Thread) : M (List Byte) := recordBytes (OpJ.addr t o) n 64

/-- A local range named by a card (R370, R376): within one local window (ADDR with where it begins), then R103 (PROT). -/
def cardLocal (va len : Nat) : M PUnit := do
  let s ← get
  match localCheck s (coreOf s.cur) s.me.ctx s.me.sup va len with
  | .ok _ => pure ⟨⟩
  | .error f => raise f.cause (if f.cause == cADDR then va else 0)

end Sys2Proof.Machine
end

