-- ==== Sys2Proof/Machine/Message.lean ====
section
/-! DEFINITION. Phases, get and put, counters, tiles, messages, barriers and the clock (R306 to R318). -/
namespace Sys2Proof.Machine

/-- phase (R199, R306). A member that has arrived only waits for the boundary. -/
def execPhase (g : Guard) (o : OpI) (s : State) : Res :=
  scalarOp s g 8 none true (work (do
    let t ← me
    let id := t.node
    let j := o.fn.toNat % 8
    let n := (← get).node id
    demand (j < n.lrec.levels.length) cBARRIER j
    let inst := t.rank / instSize n.lrec.levels j
    let key := phaseKey id j inst
    let sc := groupScope n j (members n j inst)
    let ph := tget {} (← get).phases key
    if !ph.due.contains t.rank && !ph.arrived.contains t.rank then
      releaseSteps sc
      modify (fun s => { s with phases := tmod {} s.phases key (fun p => { p with arrived := p.arrived ++ [t.rank] }) })
      modify (fun s => takeSig s id j inst (coreOf s.cur))
    if groupReady (← get) id j inst then modify (fun s => passBoundary s id j inst)
    let ph := tget {} (← get).phases key
    await (ph.due.contains t.rank)
    modify (fun s => { s with phases := tmod {} s.phases key (fun p => { p with due := p.due.erase t.rank }) })
    acquire sc
    done 8 (fun t => { t with compute := !o.fn[3] }.wg o.rd (BitVec.ofNat 64 ph.count))))

/-- Entries a get/put queue holds (R112). -/
def gpSize : Nat := 64

/-- Places one entry of R112 with the checks of R308 in their order. -/
def transfer (g : Guard) (o : OpJ) (s : State) (put : Bool) : Res :=
  scalarOp s g 16 none false (work (do
    let t ← me
    let a := OpJ.addr t o
    let kind := (o.aux1.extractLsb' 18 2).toNat
    let isTile := o.aux1[17]
    demand (!(kind == 1 && t.status.getLsbD 9 && t.compute)) cREMOTE a.toNat
    let d ← recordBytes a 32 32
    let q := coreOf (← get).cur
    let loc := fld d 0 8
    let far := fld d 8 8
    let dev := fld d 16 4
    let len := fld d 20 4
    let fields := (!isTile || loc < 256) && (kind != 2 || far < 2 ^ 27) && !bit dev 31
      && (kind == 1 || dev == 0)
    demand fields cADDR a.toNat
    let tl := tileOf (← get) q loc
    let start := if isTile then 0xFF00000000000000 + tl.base * 64 else loc
    demand (1 ≤ len && len ≤ 2 ^ 24) cADDR start
    demand (!isTile || len ≤ (tl.lenm1 + 1) * 64) cADDR start
    demand (isLocal start) cADDR start
    let r := localCheck (← get) q t.ctx t.sup start len
    match r with
    | .error f => if f.cause == cADDR then raise cADDR start
    | .ok _ => pure ⟨⟩
    demand (!(kind == 0 && isLocal far)) cADDR far
    let peer := BitVec.ofNat 21 dev
    demand (!(kind == 1 && (peer == (← get).devId || (routeTo (← get) peer).isNone))) cADDR far
    let _ ← liftChk r
    if isTile then
      demand (tl.ctx == t.ctx && !(put && tl.st == 0)) cTILESTATE (tileInfo loc tl.st)
    -- the thread's earlier accesses to the local bytes come first
    settleLocal
    await (((← get).core q).gp.length < gpSize)
    if isTile then
      if put then
        await (tl.st == 2)
        modify (fun s => modTile s q loc (fun x => { x with st := 3, keep := o.aux1[20] }))
      else
        await (tl.st != 3 && !(tl.st == 1 && tl.pend ≥ 255))
        modify (fun s => modTile s q loc (fun x =>
          if x.st == 1 then { x with pend := x.pend + 1 } else { x with st := 1, pend := 1, flt := false }))
    modify (fun s => s.modCore q (fun c => { c with
      gp := c.gp ++ [
        { id := (findNat (fun i => !c.gp.any (fun e => e.id == i)) gpSize 0).getD 0, th := s.cur, ctx := t.ctx, node := t.node, put := put, tile := if isTile then some loc else none, loc := start,
          far := far, dev := dev % 2 ^ 21, fq := bits dev 30 21, len := len, lcc := (o.aux0.extractLsb' 0 6).toNat,
          linc := (o.aux0.extractLsb' 6 16).toNat, fen := o.aux0[28], fcc := (o.aux0.extractLsb' 22 6).toNat,
          finc := (o.aux1.extractLsb' 0 16).toNat, keep := o.aux1[20], kind := kind, bulk := o.aux1[16], launch := fld d 24 8,
          sup := t.sup }] }))
    done 16 id))

/-- get (R307, R308). -/
def execGet (g : Guard) (o : OpJ) (s : State) : Res := transfer g o s false
/-- put (R307, R308). -/
def execPut (g : Guard) (o : OpJ) (s : State) : Res := transfer g o s true

/-- A completion counter's status word (R309). -/
def Counter.word (c : Counter) : Word := BitVec.ofNat 64 (c.cause % 256 * 2 ^ 40 + b2n c.flt * 2 ^ 32 + c.value.toNat)
/-- A completion counter of a core. -/
def counterOf (s : State) (q n : Nat) : Counter := tget {} (s.core q).cc n
/-- Changes a completion counter. -/
def modCounter (s : State) (q n : Nat) (f : Counter → Counter) : State := s.modCore q (fun c => { c with cc := tmod {} c.cc n f })
/-- A counter has reached a value (R114). -/
def Counter.reached (c : Counter) (v : BitVec 32) : Bool := !(c.value - v)[31]

/-- ccwait (R310). -/
def execCcwait (g : Guard) (o : OpI) (s : State) : Res :=
  scalarOp s g 8 none true (work (do
    let t ← me
    let n := o.fn.toNat % 64
    let q := coreOf (← get).cur
    await ((counterOf (← get) q n).reached ((t.rg o.ra).setWidth 32 + o.imm))
    acquire (if o.fn[7] then .system else .die)
    let c := counterOf (← get) q n
    demand (!(o.fn[6] && c.flt)) c.cause n
    done 8 (fun t => t.wg o.rd c.word)))

/-- The counter that a ccop names (R311). -/
def ccNum (o : OpR) : Nat := o.md.toNat % 64

/-- A ccop that changes its counter. -/
def ccChange (g : Guard) (o : OpR) (s : State) (f : Thread → Counter → Counter) : Res :=
  scalarOp s g 8 none false (fun s => (modCounter s (coreOf s.cur) (ccNum o) (f s.me)).retire 8)

/-- ccop.rd (R311). -/
def execCcopRd (g : Guard) (o : OpR) (s : State) : Res :=
  scalarOp s g 8 none false (fun s => s.retireWith 8 (fun t => t.wg o.rd (counterOf s (coreOf s.cur) (ccNum o)).word))
/-- ccop.set (R311). -/
def execCcopSet (g : Guard) (o : OpR) (s : State) : Res := ccChange g o s (fun t _ => { value := (t.rg o.ra).setWidth 32 })
/-- ccop.add (R311). -/
def execCcopAdd (g : Guard) (o : OpR) (s : State) : Res :=
  ccChange g o s (fun t c => { c with value := c.value + (t.rg o.ra).setWidth 32 })
/-- ccop.clr (R311). -/
def execCcopClr (g : Guard) (o : OpR) (s : State) : Res := ccChange g o s (fun _ c => { c with flt := false, cause := 0 })

/-- A context with a crew on a core that is running, held or pre-empted (R111). -/
def ctxOnCore (s : State) (q ctx : Nat) : Bool :=
  s.nodes.any (fun (id, n) => ctxOf id == ctx && (n.st == .dispatched || n.st == .running || (n.st == .ready && n.preempted))
    && n.place.any (fun sh => sh.q == q))

/-- tiledef (R111, R312). -/
def execTiledef (g : Guard) (o : OpR) (s : State) : Res :=
  scalarOp s g 8 none false (work (do
    let t ← me
    let s ← get
    let q := coreOf s.cur
    let n := o.md.toNat
    let x := tileOf s q n
    let off := (t.rg o.ra).toNat
    let len := (t.rg o.rb).toNat
    demand (x.st == 0 || (x.st == 2 && (x.ctx == t.ctx || t.sup || !ctxOnCore s q x.ctx))) cTILESTATE (tileInfo n x.st)
    demand (off % 64 == 0 && len % 64 == 0 && 0 < len && len ≤ 524288 && off + len ≤ ctxBase s q) cADDR off
    demand (loftAllowed s q t.ctx t.sup off len) cPROT 0
    modify (fun s => modTile s q n (fun _ => { ctx := t.ctx, lenm1 := len / 64 - 1, base := off / 64 }))
    done 8 id))

/-- A tile entry as tilest reads it (R110). -/
def Tile.word (x : Tile) : Word :=
  BitVec.ofNat 64 (x.pend * 2 ^ 56 + x.ctx * 2 ^ 48 + b2n x.flt * 2 ^ 43 + b2n x.keep * 2 ^ 42 + x.st * 2 ^ 40 + x.lenm1 * 2 ^ 19 + x.base)

/-- tilest (R313). -/
def execTilest (g : Guard) (o : OpR) (s : State) : Res :=
  scalarOp s g 8 none false (fun s => s.retireWith 8 (fun t => t.wg o.rd (tileOf s (coreOf s.cur) ((t.rg o.ra).toNat % 256)).word))

/-- Device id of a thread address. -/
def devOf (a : Word) : BitVec 21 := a.extractLsb' 0 21

/-- A sender whose last packet is held at its receiving core waits (R117). -/
def heldBack (s : State) (th : Nat) : Bool :=
  let a := threadAddr s th
  s.cores.any (fun e => e.2.asm.any (fun p => p.src == a && p.held))

/-- The checks of an opening send on its destination (R201, R211, R314). -/
def openCheck (dst : Word) (sc : Scope) : M PUnit := do
  let s ← get
  let t := s.me
  demand t.pkt.isNone cPKTOPEN 2
  let peer := devOf dst != s.devId
  demand (!(peer && t.status.getLsbD 9 && t.compute)) cREMOTE (devOf dst).toNat
  demand (dst.toNat < 2 ^ 49 && (!peer || ((routeTo s (devOf dst)).isSome && sc == .system))) cADDR dst.toNat

/-- A timed send holds its thread until its launch time (R125). -/
def launchHold (o : OpR) : M PUnit := do
  let s ← get
  if o.md[3] then await (decide ((s.me.rg o.rc).toNat ≤ (s.dieClock (dieOf (coreOf s.cur))).toNat))

/-- SEND flits of a whole packet to a peer, three beats a flit (R22, R25): ADDR the receiver, OPX the sender and its NF bit. -/
def sendPacket (s : State) (src dst : Word) (nf : Bool) (ctx : Nat) (beats : List Vec) : State :=
  let n := (beats.length + 2) / 3
  (List.range n).foldl (fun s i =>
    let l := (beats.drop (3 * i)).take 3
    (sendFlit s (devOf dst) { zeroFlit with
      addr := dst
      op := 4
      ctx := BitVec.ofNat 8 ctx
      beats := BitVec.ofNat 2 l.length
      last := i + 1 == n
      opx := BitVec.ofNat 128 (src.toNat + b2n nf * 2 ^ 64)
      payload := BitVec.ofNat 1536 (l.foldr (fun v acc => v.toNat + 2 ^ 512 * acc) 0) }).1) s

/-- A beat leaves for its receiving core, or joins a packet to a peer (R117). -/
def beatOut (dst : Word) (first last : Bool) (v : Vec) (s : State) : State :=
  let t := s.me
  let src := threadAddr s s.cur
  let nf := t.status.getLsbD 2
  if devOf dst == s.devId then
    let b : Beat := { src := src, dst := dst, data := v, nf := nf, peer := false, first := first, last := last, ctx := t.ctx }
    let s : State := { s with beats := s.beats ++ [b] }
    s.modMe (fun t => { t with pkt := if last then none else t.pkt.map (fun p => { p with beats := p.beats + 1 }) })
  else
    let data := ((t.pkt.map (·.data)).getD []) ++ [v]
    if last then (sendPacket s src dst nf t.ctx data).modMe (fun t => { t with pkt := none })
    else s.modMe (fun t => { t with pkt := t.pkt.map (fun p => { p with beats := p.beats + 1, data := data }) })

/-- send.open (R314). -/
def execSendOpen (g : Guard) (o : OpR) (s : State) : Res :=
  scalarOp s g 8 none false (work (do
    let t ← me
    let dst := t.rg o.ra
    let sc := scopeOfNum (o.md.toNat % 8)
    openCheck dst sc
    launchHold o
    await (!heldBack (← get) (← get).cur)
    modify (fun s => s.modMe (fun t => { t with pkt := some { dst := dst, beats := 0, count := 0, scope := sc } }))
    modify (beatOut dst true false (t.rv o.rb))
    done 8 id))

/-- send.more (R314): ILLEGAL while no packet is open. -/
def execSendMore (g : Guard) (o : OpR) (s : State) : Res :=
  if s.me.pkt.isNone then .next (trapOf s ⟨cILLEGAL, (firstWord (.sendMore g o)).toNat⟩)
  else scalarOp s g 8 none false (work (do
    let t ← me
    match t.pkt with
    | some p =>
      demand (p.beats < 15) cPKTOPEN 0
      await (!heldBack (← get) (← get).cur)
      modify (beatOut p.dst false false (t.rv o.rb))
      done 8 id
    | none => pure ⟨⟩))

/-- send.close (R314): the release steps come before the end beat. -/
def execSendClose (g : Guard) (o : OpR) (s : State) : Res :=
  if s.me.pkt.isNone then .next (trapOf s ⟨cILLEGAL, (firstWord (.sendClose g o)).toNat⟩)
  else scalarOp s g 8 none false (work (do
    let t ← me
    match t.pkt with
    | some p =>
      await (!heldBack (← get) (← get).cur)
      releaseSteps p.scope
      modify (beatOut p.dst false true (t.rv o.rb))
      done 8 id
    | none => pure ⟨⟩))

/-- send.one (R314). -/
def execSendOne (g : Guard) (o : OpR) (s : State) : Res :=
  scalarOp s g 8 none false (work (do
    let t ← me
    let dst := t.rg o.ra
    let sc := scopeOfNum (o.md.toNat % 8)
    openCheck dst sc
    launchHold o
    await (!heldBack (← get) (← get).cur)
    releaseSteps sc
    modify (beatOut dst true true (t.rv o.rb))
    done 8 id))

/-- SIZE of a thread's receive ring (R116). -/
def Thread.ringSize (t : Thread) : Nat := t.rxsize.toNat % 2 ^ 20
/-- Loft offset of a thread's receive ring (R116). -/
def Thread.ringBase (t : Thread) : Nat := t.rxbase.toNat % 2 ^ 19

/-- The part of recv and rpoll behind the wait (R315, R216): the message at HEAD is checked, acquired and named. -/
def takeMessage (o : OpR) : M PUnit := do
  let t ← me
  let q := coreOf (← get).cur
  let off := t.rxhead.toNat % t.ringSize
  let nf := bytesToNat (locRead (← get) (loftKey q (t.ringBase + off + 9)) 1) % 2 == 1
  demand (nf == t.status.getLsbD 2) cNFMISMATCH off
  acquire (scopeOfNum (o.md.toNat % 8))
  done 8 (fun t => t.wg o.rd (BitVec.ofNat 64 (0xFF00000000000000 + t.ringBase + off)))

/-- recv (R315). -/
def execRecv (g : Guard) (o : OpR) (s : State) : Res :=
  scalarOp s g 8 none true (work (do
    let t ← me
    demand (t.ringSize != 0) cADDR 0
    await (t.rxtail != t.rxhead)
    takeMessage o))

/-- rpoll (R315). -/
def execRpoll (g : Guard) (o : OpR) (s : State) : Res :=
  scalarOp s g 8 none false (work (do
    let t ← me
    demand (t.ringSize != 0) cADDR 0
    if t.rxtail == t.rxhead then done 8 (fun t => t.wg o.rd 0)
    else takeMessage o))

/-- The barrier number of R316. -/
def barNum (t : Thread) (o : OpM) : Word := t.rg o.ra + t.rg o.rb + o.off.signExtend 64

/-- Sends a request to a barrier's home and takes its answer (R120): the home may serve it at once or by a step of its own. -/
def barRequest (op b count : Nat) : M Nat := do
  if (← me).bar.isNone then
    modify (fun s => s.modMe (fun t => { t with bar := some { op := op, b := b, count := count } }))
    let c ← pick (fun s => choose s 2)
    if c == 0 then modify (fun s => barServe s s.cur) else hold
  match (← me).bar with
  | some { reply := some r, .. } =>
    modify (fun s => s.modMe (fun t => { t with bar := none }))
    match r with
    | some x => return x
    | none => raise cBARRIER (b % 1024)
  | _ => hold

/-- The number of a barrier instruction, checked (R316). -/
def barCheck (o : OpM) : M Nat := do
  let b := (barNum (← me) o).toNat
  demand (b < 2 ^ 18) cBARRIER (b % 1024)
  return b

/-- Waits until a barrier's GEN differs from a token (R120), once it has differed at any time since the wait began; then acquires. -/
def barAwait (b : Nat) (tok : Bool) (sc : Scope) : M PUnit := do
  let s ← get
  let q := barHome (coreOf s.cur) b
  let x := barOf s q (b % 1024)
  if s.me.barWait.isNone then
    demand (x.count != 0 && x.ctx == s.me.ctx) cBARRIER (b % 1024)
    modify (fun s => s.modMe (fun t => { t with barWait := some { q := q, id := b % 1024, tok := tok } }))
  await (x.gen != tok || (match s.me.barWait with | some w => w.done | none => false))
  modify (fun s => s.modMe (fun t => { t with barWait := none }))
  acquire sc

/-- barcfg (R316). -/
def execBarcfg (g : Guard) (o : OpM) (s : State) : Res :=
  scalarOp s g 8 none false (work (do
    let b ← barCheck o
    let n := ((← me).rg o.rd).toNat
    demand (1 ≤ n && n ≤ 1024) cBARRIER (b % 1024)
    let _ ← barRequest 0 b n
    done 8 id))

/-- bararr (R316). -/
def execBararr (g : Guard) (o : OpM) (s : State) : Res :=
  scalarOp s g 8 none false (work (do
    let b ← barCheck o
    releaseSteps o.scope
    let tok ← barRequest 1 b 0
    done 8 (fun t => t.wg o.rd (BitVec.ofNat 64 tok))))

/-- barwait (R316). -/
def execBarwait (g : Guard) (o : OpM) (s : State) : Res :=
  scalarOp s g 8 none true (work (do
    let b ← barCheck o
    barAwait b (((← me).rg o.rd).getLsbD 0) o.scope
    done 8 id))

/-- barsync (R316): `prog` 7 tells an instruction that has arrived. -/
def execBarsync (g : Guard) (o : OpM) (s : State) : Res :=
  scalarOp s g 8 none true (work (do
    let b ← barCheck o
    let t ← me
    if t.prog != 7 && !(t.rg o.rd).getLsbD 63 then
      releaseSteps o.scope
      let tok ← barRequest 1 b 0
      modify (fun s => s.modMe (fun t => { t.wg o.rd (BitVec.ofNat 64 (2 ^ 63 + tok)) with prog := 7 }))
    barAwait b (((← me).rg o.rd).getLsbD 0) o.scope
    done 8 (fun t => t.wg o.rd (if (t.rg o.rd).getLsbD 0 then 1 else 0))))

/-- wirebar (R121 to R123, R317). -/
def execWirebar (g : Guard) (o : OpR) (s : State) : Res :=
  scalarOp s g 8 none true (work (do
    let s ← get
    let q := coreOf s.cur
    match s.me.wire with
    | none =>
      demand (wireOk q (slotOf s.cur) (s.core q).wiregrp) cBARRIER 0
      modify (fun s => s.modMe (fun t => { t with wire := some { since := s.clock } }))
      let c ← pick (fun s => choose s 2)
      if c == 0 then modify (fun s => wireDone s (wireCorner s q))
    | some _ => pure ⟨⟩
    match (← me).wire with
    | some { result := some r, .. } =>
      modify (fun s => s.modMe (fun t => { t with wire := none }))
      modify (fun s => wireSettle s q)
      done 8 (fun t => t.wg o.rd (BitVec.ofNat 64 r))
    | _ => hold))

/-- waitclk (R318). -/
def execWaitclk (g : Guard) (o : OpR) (s : State) : Res :=
  scalarOp s g 8 none true (fun s =>
    let v := s.me.rg o.ra
    if v.toNat ≤ (s.dieClock (dieOf (coreOf s.cur))).toNat then s.retireWith 8 (fun t => { t with clkWait := none })
    else (s.modMe (fun t => { t with clkWait := some v })).wait)

/-- rdclk (R318). -/
def execRdclk (g : Guard) (o : OpR) (s : State) : Res :=
  scalarOp s g 8 none false (fun s => s.retireWith 8 (fun t => t.wg o.rd (s.dieClock (dieOf (coreOf s.cur)))))

end Sys2Proof.Machine
end

