-- ==== Sys2Proof/Machine/Local.lean ====
section
/-! DEFINITION. The steps of the get/put queues, packets and rings, barriers, wires, special-function queues and clock waits (R105,
R113 to R125, R177, R213 to R216). A step that is not enabled leaves the state as it is. -/
namespace Sys2Proof.Machine

/-! ### The get/put queue -/

/-- Entry `n` of a core's queue. -/
def gpAt (s : State) (q n : Nat) : Option GpEntry := (s.core q).gp.find? (fun e => e.id == n)
/-- Changes an entry. -/
def modGp (s : State) (q n : Nat) (f : GpEntry → GpEntry) : State :=
  s.modCore q (fun c => { c with gp := c.gp.map (fun e => if e.id == n then f e else e) })
/-- Frees an entry. -/
def dropGp (s : State) (q n : Nat) : State := s.modCore q (fun c => { c with gp := c.gp.filter (fun e => e.id != n) })

/-- An entry's launch time has been reached on its core's clock copy (R125). -/
def launched (s : State) (q : Nat) (e : GpEntry) : Bool := e.launch ≤ (s.dieClock (dieOf q)).toNat

/-- An entry may start (R113): placed, launched, and no earlier placed entry is launched. -/
def mayStart (s : State) (q n : Nat) : Bool :=
  match (s.core q).gp.takeWhile (fun e => e.id != n), gpAt s q n with
  | before, some e => e.st == .placed && launched s q e && before.all (fun x => x.st != .placed || !launched s q x)
  | _, none => false

/-- The link tag of an entry: its core and its place in the queue. -/
def gpTag (q n : Nat) : Nat := q * 64 + n

/-- Local home of an entry's byte `i`. -/
def GpEntry.home (e : GpEntry) (q i : Nat) : Nat := localHome q e.loc + i

/-- Moves an entry forward. -/
def advanceGp (q n m : Nat) : J PUnit := modify (fun s => modGp s q n (fun e => { e with prog := e.prog + m }))

/-- Builds and queues a flit of an entry; without a route the entry faults with ADDR (R29). -/
def entryFlit (dev : Nat) (f : Flit) : J PUnit := do
  if !(← jpick (fun s => sendFlit s (BitVec.ofNat 21 dev) f)) then jfail cADDR 0

/-- A core's round gets a peer (R166): the 65th closes the round at system scope first, and the entry waits for the answers. -/
def joinPeer (q dev : Nat) : J PUnit := do
  let c := (← get).core q
  if !c.cur.peers.contains dev then
    if !c.relWait.isEmpty then throw .stall
    if c.cur.peers.length ≥ 64 then
      let w := peerWaits (← get) q
      modify (fun s => (w.foldl (fun s x => relQuery s q x.2.1 x.1) (closeRound s q)).modCore q (fun c => { c with relWait := w }))
      throw .stall
    modify (fun s => s.modCore q (fun c => { c with cur := { c.cur with peers := c.cur.peers ++ [dev] } }))

/-- PUTDATA flits of an entry from byte `prog` on, three beats each (R22, R25): ADDR the flit's target, AUX the tag and the flit's
length, OPX in the last flit the far counter, its increment, its core and a valid bit. -/
def putFlits (q : Nat) (e : GpEntry) : J PUnit := do
  joinPeer q e.dev
  for i in List.range ((e.len - e.prog + 191) / 192) do
    let off := e.prog + 192 * i
    let m := min 192 (e.len - off)
    let bs := locRead (← get) (e.home q off) m
    let last := off + m == e.len
    entryFlit e.dev { zeroFlit with
      addr := BitVec.ofNat 64 (e.far + off)
      aux := BitVec.ofNat 64 (gpTag q e.id + m * 2 ^ 32)
      op := 1
      tc := if e.bulk then 3 else 2
      ctx := BitVec.ofNat 8 e.ctx
      beats := BitVec.ofNat 2 ((m + 63) / 64)
      last := last
      opx := if last && e.fen then BitVec.ofNat 128 (2 ^ 63 + e.fq * 2 ^ 32 + e.finc * 2 ^ 16 + e.fcc) else 0
      payload := BitVec.ofNat 1536 (bytesToNat bs) }
    modify (fun s => notePeer s e.dev q)
    advanceGp q e.id m

/-- A far Loft range of kind 2 (R307, R308): its core and its home. -/
def farLoft (q : Nat) (e : GpEntry) : J (Nat × Nat) := do
  let s ← get
  let fq := dieOf q * 256 + bits e.far 26 19
  let o := e.far % 2 ^ 19
  if o + e.len > scratch s fq then jfail cADDR 0
  if !loftAllowed s fq e.ctx e.sup o e.len then jfail cPROT 0
  return (fq, loftKey fq o)

/-- Between two of its accesses an entry may stop, by choice, and go on in a later step (R179). -/
def gpPause (first : Bool) : J PUnit := do
  if !first && (← jpick (fun s => choose s 2)) == 1 then throw .stall

/-- Moves an entry's bytes (R113): it goes on where it stood. -/
def moveBytes (q : Nat) (e : GpEntry) : J PUnit := do
  let a : Agent := { q := q, ctx := e.ctx, sup := e.sup, gp := e.id }
  let ps := (if e.put then outPieces else wordPieces) (e.far + e.prog) (e.len - e.prog)
  let at' := fun (v : Nat) => e.home q (v - e.far)
  match e.kind with
  | 0 =>
    for (v, m) in ps do
      gpPause (v == e.far + e.prog)
      if e.put then jWrite a v (locRead (← get) (at' v) m)
      else
        let bs ← jRead a v m
        modify (fun s => locWrite s (at' v) (bs.map some))
      advanceGp q e.id m
    modify (fun s => modGp s q e.id (fun e => { e with st := .moved }))
  | 1 =>
    if e.put then
      putFlits q e
      modify (fun s => modGp s q e.id (fun e => { e with st := .moved }))
    else
      entryFlit e.dev { zeroFlit with
        addr := BitVec.ofNat 64 e.far
        aux := BitVec.ofNat 64 (gpTag q e.id + e.len * 2 ^ 32)
        op := 2
        tc := 1
        ctx := BitVec.ofNat 8 e.ctx
        last := true }
      modify (fun s => modGp s q e.id (fun e => { e with st := .started }))
  | _ =>
    let (_, k) ← farLoft q e
    if e.put then
      let bs := locRead (← get) (e.home q 0) e.len
      let c ← jpick (fun s => choose s 2)
      if c == 0 then modify (fun s => locWrite s k (bs.map some))
      modify (fun s => modGp s q e.id (fun e => { e with st := .moved, buf := if c == 0 then [] else bs }))
    else
      modify (fun s => locWrite s (e.home q 0) ((locRead s k e.len).map some))
      modify (fun s => modGp s q e.id (fun e => { e with st := .moved }))

/-- Parks an entry (R177); without a fault queue it completes faulted. -/
def parkGp (s : State) (q : Nat) (e : GpEntry) (p : Park) : State :=
  if !(s.die (dieOf q)).fqcfg.getLsbD 63 then modGp s q e.id (fun e => { e with st := .moved, fault := some p.cause })
  else
    let (s, tok) := faultRecord s (dieOf q) (clusOf q % 32) (q % 8) 0 e.id e.ctx p
    modGp s q e.id (fun e => { e with st := .started, park := some { p with token := tok } })

/-- Runs an entry: an aborted one is over, a parked one only tries to have its fault recorded. -/
def runGp (s : State) (q : Nat) (e : GpEntry) : State :=
  match e.fault, e.park with
  | some _, _ => (modGp s q e.id (fun e => { e with st := .moved })).modCore q (fun c => { c with
      stalled := c.stalled.filter (fun x => x.1 != 4096 + e.id) })
  | none, some p => if p.token.isNone then parkGp s q e p else s
  | none, none =>
    let s := modGp s q e.id (fun e => { e with st := .started })
    match (moveBytes q e).run s with
    | (.ok _, s) => s
    | (.error .stall, s) => s
    | (.error (.fail c _), s) => modGp s q e.id (fun e => { e with st := .moved, fault := some c })
    | (.error (.park va c i w), s) =>
      let (s, p) := newPark s q e.ctx va c i w
      parkGp s q e p

/-- GETPUT_ENTRY_START (R113): an entry starts, or one that has parked or stalled goes on. A get from a peer waits for its data. -/
def execGetputEntryStart (q n : Nat) (s : State) : Res :=
  .next (match gpAt s q n with
    | none => s
    | some e => if mayStart s q n || (e.st == .started && !(e.kind == 1 && !e.put && e.fault.isNone)) then runGp s q e else s)

/-- TIMED_LAUNCH (R125): an entry's launch time is reached, or, for numbers from 64 on, that of the opening send of a slot's thread. -/
def execTimedLaunch (q n : Nat) (s : State) : Res :=
  .next (if n < gpSize then
      match gpAt s q n with
      | some e => if e.launch != 0 && launched s q e then modGp s q n (fun e => { e with launch := 0 }) else s
      | none => s
    else s.modTh (q * 4 + (n - gpSize) % 4) (fun t => { t with waits := false }))

/-- Flits of an entry that its port still holds: queued, or in the replay buffer (R19, R23). -/
def flitsOut (s : State) (q n : Nat) : Bool :=
  s.ports.any (fun p => (p.2.replay ++ (p.2.tx.map (·.2)).flatten).any (fun f =>
    (f.op == 1 || f.op == 2) && f.aux.toNat % 65536 == gpTag q n))

/-- GETPUT_ENTRY_COMPLETE (R111, R114, R115): a put to a peer first sees its flits acknowledged, since the loss of one faults it (R19). -/
def execGetputEntryComplete (q n : Nat) (s : State) : Res :=
  .next (match gpAt s q n with
    | none => s
    | some e =>
      if e.st == .moved && !(e.kind == 1 && e.put && e.fault.isNone && flitsOut s q n) then
        let s := modCounter s q e.lcc (fun c => { c with
          value := c.value + BitVec.ofNat 32 e.linc
          flt := c.flt || e.fault.isSome
          cause := if c.flt then c.cause else e.fault.getD c.cause })
        let s := match e.tile with
          | none => s
          | some k => if e.put then modTile s q k (fun x => { x with st := if x.keep then 2 else 0 }) else fillDone s q k e.fault.isSome
        if e.put && e.kind == 2 && e.fault.isNone && (e.fen || !e.buf.isEmpty) then modGp s q n (fun e => { e with st := .bump })
        else dropGp s q n
      else s)

/-- FAR_COUNTER_BUMP (R114): a put's bytes are written at the far core, and then its counter there is bumped. -/
def execFarCounterBump (q n : Nat) (s : State) : Res :=
  .next (match gpAt s q n with
    | none => s
    | some e =>
      if e.put && e.kind == 2 && e.fault.isNone && (e.st == .moved || e.st == .bump) && (e.fen || !e.buf.isEmpty) then
        let fq := dieOf q * 256 + bits e.far 26 19
        let s := locWrite s (loftKey fq (e.far % 2 ^ 19)) (e.buf.map some)
        let s := if e.fen then modCounter s fq e.fcc (fun c => { c with value := c.value + BitVec.ofNat 32 e.finc }) else s
        if e.st == .bump then dropGp s q n else modGp s q n (fun e => { e with fen := false, buf := [] })
      else s)

/-! ### Packets -/

/-- The live thread that a thread address names: in its slot, or stopped and displaced from it (R88, R89). -/
def mailbox (s : State) (a : Word) : Option Thread :=
  let th := threadOfAddr a
  let ok := fun (t : Thread) => t.live && t.gen == a.extractLsb' 33 16
  if ok (s.th th) then some (s.th th)
  else (s.nodes.findSome? (fun e => (e.2.kept.find? (fun k => k.1 == th && ok k.2)).map (·.2)))

/-- Changes the live thread that a thread address names. -/
def modMail (s : State) (a : Word) (f : Thread → Thread) : State :=
  let th := threadOfAddr a
  let ok := fun (t : Thread) => t.live && t.gen == a.extractLsb' 33 16
  if ok (s.th th) then s.modTh th f
  else { s with nodes := tmap (fun _ n => { n with kept := tmap (fun k t => if k == th && ok t then f t else t) n.kept }) s.nodes }

/-- The thread address names a thread that is being loaded (R89): its crew is DISPATCHED for the first time. -/
def loading (s : State) (a : Word) : Bool :=
  let th := threadOfAddr a
  s.nodes.any (fun e => e.2.st == .dispatched && !e.2.preempted && e.2.crew.contains th)
    && a.extractLsb' 33 16 == BitVec.ofNat 16 (tget 0 (s.core (coreOf th)).gens (slotOf th) + 1)

/-- The generation of a thread address names a live thread of its slot (R89, R214). -/
def genLive (s : State) (a : Word) : Bool := (mailbox s a).isSome || loading s a

/-- The 64-byte header of a message (R117): `clock` is the receiver's clock or zero, `at18` the bytes from 0x18. -/
def msgHeader (p : Packet) (clock : Word) (at18 : List Byte) : List Byte :=
  natToBytes 8 p.src.toNat ++ [BitVec.ofNat 8 p.beats.length, BitVec.ofNat 8 (b2n p.nf + 2 * b2n p.peer)] ++ List.replicate 6 0
    ++ natToBytes 8 clock.toNat ++ (at18 ++ List.replicate (40 - at18.length) 0)

/-- A write of the device itself: uncharged, and held back by no allowance. -/
def devWrite (a : Agent) (va : Nat) (bs : List Byte) : J PUnit := do
  for (v, m) in wordPieces va bs.length do
    let (pa, pg) ← jTranslate a v .write
    modify (fun s => writeHome s a.q (piece pa ((bs.drop (v - va)).take m) pg false false))

/-- Puts a dead packet into its sender context's ring (R215): the entry before TAIL. -/
def letter (q : Nat) (p : Packet) : J PUnit := do
  let s ← get
  let c := s.ctx p.ctx
  let a : Agent := { q := q, ctx := p.ctx, sup := true }
  let base := c.dlbase.toNat
  let size := c.dlsize.toNat
  let h ← jRead a base 24
  let tail := fld h 0 8
  let need := 64 + 64 * p.beats.length
  let room := size - (tail + 2 ^ 64 - fld h 8 8) % 2 ^ 64
  if size == 0 || room < need then devWrite a (base + 16) (natToBytes 8 (fld h 16 8 + 1))
  else
    let bs := msgHeader p (s.dieClock (dieOf q)) (natToBytes 8 p.dst.toNat) ++ (p.beats.map (fun v => natToBytes 64 v.toNat)).flatten
    for i in List.range (need / 64) do
      devWrite a (base + 64 + (tail + 64 * i) % size) ((bs.drop (64 * i)).take 64)
    modify (fun s => chuteFlush s q)
    devWrite a base (natToBytes 8 (tail + need))
    modify (fun s => chuteFlush s q)

/-- A dead packet of a sender on this module (R214, R215): the ring entry, and the sender's count if it is still live. A ring that
does not translate loses the packet. -/
def deadLetter (s : State) (q : Nat) (p : Packet) : State :=
  let s := ((letter q p).run s).2
  if devOf p.src == s.devId && genLive s p.src then
    modMail s p.src (fun t => { t with dlcount := (t.dlcount + 1) &&& 0xFFFFFFFF })
  else s

/-- A REFUSE for a packet of a peer (R25, R27): ADDR the receiver, AUX the sender, bit 64 of OPX
the sender's NF, which the letter's header needs (R215). -/
def refuseSend (s : State) (src dst : Word) (ctx cause : Nat) (nf : Bool) : State :=
  (sendFlit s (devOf src) { zeroFlit with
    addr := dst
    aux := src
    op := 10
    ctx := BitVec.ofNat 8 ctx
    last := true
    opx := BitVec.ofNat 128 (4 + cause * 256 + b2n nf * 2 ^ 64) }).1

/-- A beat reaches its receiving core (R117, R214): a packet's first beat finds whether it is dead. -/
def beatIn (s : State) (b : Beat) : State :=
  let q := coreOf (threadOfAddr b.dst)
  let mine := fun (p : Packet) => p.src == b.src && !p.ended
  let known := (s.core q).asm.any mine
  let dead := !genLive s b.dst
  let s := if known then
      s.modCore q (fun c => { c with asm := c.asm.map (fun p => if mine p then { p with beats := p.beats ++ [b.data], ended := b.last } else p) })
    else
      let s := if dead && b.peer then refuseSend s b.src b.dst b.ctx 1 b.nf else s
      s.modCore q (fun c => { c with asm := c.asm ++ [
        { src := b.src, dst := b.dst, beats := [b.data], nf := b.nf, peer := b.peer, ended := b.last, dead := dead, ctx := b.ctx,
          port := b.port }] })
  match (s.core q).asm.find? (fun p => p.src == b.src && p.ended && p.dead) with
  | none => s
  | some p =>
    let s := s.modCore q (fun c => { c with asm := c.asm.filter (fun x => !(x.src == b.src && x.ended && x.dead)) })
    if p.peer then s else deadLetter s q p

/-- PACKET_BEAT_RECEIVE (R117): a beat arrives; those of one sender keep their order. -/
def execPacketBeatReceive (n : Nat) (s : State) : Res :=
  .next (match s.beats[n]? with
    | none => s
    | some b => if (s.beats.take n).any (fun x => x.src == b.src) then s else beatIn { s with beats := delAt s.beats n } b)

/-- Tries to place packet `n` of a core (R117, R118): the earlier packets of its sender for its slot come first. A packet whose
receiver is gone by now is dead. -/
def placePacket (s : State) (q n : Nat) : State :=
  match (s.core q).asm[n]? with
  | none => s
  | some p =>
    let gone := fun (s : State) => s.modCore q (fun c => { c with asm := delAt c.asm n })
    let hold := fun (s : State) => s.modCore q (fun c => { c with asm := setAt c.asm n { p with held := true } })
    if !p.ended || ((s.core q).asm.take n).any (fun x => x.src == p.src && x.dst == p.dst) then s
    else
      match mailbox s p.dst with
      | none =>
        -- a thread that is being loaded has no ring yet (R116)
        if loading s p.dst then hold s
        else if p.peer then refuseSend (gone s) p.src p.dst p.ctx 1 p.nf else deadLetter (gone s) q p
      | some t =>
        let size := t.ringSize
        let need := 64 + 64 * p.beats.length
        let used := (t.rxtail.toNat + 2 ^ 32 - t.rxhead.toNat) % 2 ^ 32
        -- a ring that is spilled takes nothing until its refill (R88)
        let spilled := (s.node t.node).preempted && (s.node t.node).imaged.contains q
        if size == 0 || need > size || size - used < need || spilled then hold s
        else
          let off := t.rxtail.toNat % size
          let bs := msgHeader p (s.dieClock (dieOf q)) [] ++ (p.beats.map (fun v => natToBytes 64 v.toNat)).flatten
          let s := (List.range (need / 64)).foldl (fun s i =>
            locWrite s (loftKey q (t.ringBase + (off + 64 * i) % size)) (((bs.drop (64 * i)).take 64).map some)) (gone s)
          modMail s p.dst (fun t => { t with rxtail := BitVec.ofNat 64 ((t.rxtail.toNat + need) % 2 ^ 32) })

/-- PACKET_PLACE (R117). -/
def execPacketPlace (q n : Nat) (s : State) : Res := .next (placePacket s q n)

/-- HELD_PACKET_RETRY (R117). -/
def execHeldPacketRetry (q n : Nat) (s : State) : Res :=
  .next (match (s.core q).asm[n]? with
    | some p => if p.held then placePacket s q n else s
    | none => s)

/-! ### Barriers, wires, results, clocks -/

/-- BARRIER_ARRIVAL_AT_HOME (R120). -/
def execBarrierArrivalAtHome (th : Nat) (s : State) : Res := .next (barServe s th)

/-- WIRE_CORNER_COMPLETION (R122). -/
def execWireCornerCompletion (q : Nat) (s : State) : Res := .next (wireDone s q)

/-- A wirebar's timeout has expired (R121). -/
def wireExpired (s : State) (th : Nat) : Bool :=
  match (s.th th).wire with
  | some w => let tmo := (s.core (coreOf th)).wiretmo.toNat; w.result.isNone && tmo != 0 && w.since + tmo ≤ s.clock
  | none => false

/-- Withdraws a thread's arrival (R123): completion where the corner has all of its rectangle raised, otherwise result 0. -/
def wireWithdraw (s : State) (th : Nat) : State :=
  let s := wireDone s (wireCorner s (coreOf th))
  s.modTh th (fun t => { t with wire := t.wire.map (fun w => if w.result.isNone then { w with result := some 0 } else w) })

/-- WIRE_TIMEOUT (R123). -/
def execWireTimeout (th : Nat) (s : State) : Res := .next (if wireExpired s th then wireWithdraw s th else s)

/-- SFU_RESULT (R213). -/
def execSfuResult (cl : Nat) (s : State) : Res := .next (sfuPop s cl)

/-- CLOCK_WAIT_END (R318): the held thread goes on. -/
def execClockWaitEnd (th : Nat) (s : State) : Res :=
  .next (match (s.th th).clkWait with
    | some v =>
      if v.toNat ≤ (s.dieClock (dieOf (coreOf th))).toNat then asThread s th (fun s => s.retireWith 8 (fun t => { t with clkWait := none }))
      else s
    | none => s)

/-- LOFTSPLIT_APPLY (R105): with no thread, no reserved range and no pinned range on the core; the cache portion's dirty words go to
their slices first. -/
def execLoftsplitApply (q : Nat) (s : State) : Res :=
  let c := s.core q
  let busy := (List.range 4).any (fun k => (s.th (q * 4 + k)).live)
    || s.nodes.any (fun e => (e.2.place ++ e.2.chosen.getD []).any (fun x => x.q == q))
  .next (if busy || c.loftReq == c.loftCur then s
    else
      let s := c.l1.foldl (fun s e => l1Drop s q e.1) s
      s.modCore q (fun c => { c with loftCur := c.loftReq }))

end Sys2Proof.Machine
end

