-- ==== Sys2Proof/Machine/Vector.lean ====
section
/-! DEFINITION. Vector instructions (R319 to R330), the special-function unit (R338, R339) and random numbers (R340). -/
namespace Sys2Proof.Machine

/-- Operand b, element `j` of width `w` (R320): IMM32B, a broadcast g register, or a vector element. -/
def bElem (t : Thread) (o : OpR) (w j : Nat) : Nat :=
  match o.x with
  | some i => i.toNat % 2 ^ w
  | none => if o.md[6] then (t.rg o.rb).toNat % 2 ^ w else elemAt (t.rv o.rb) w j

/-- The elements of a vector register. -/
def elems (w : Nat) (v : Vec) : List Nat := (List.range (nElem w)).map (elemAt v w)

/-- Writes computed elements of width `w` to v[RD] (R243, R320): `r` gives for each element its value and flags, `on` the
governed ones; the others are zeroed under Z or keep their value. -/
def Thread.wElems (t : Thread) (rd : BitVec 5) (w : Nat) (z : Bool) (on : Nat → Bool) (r : Nat → Nat × Flags) : Thread :=
  let old := t.rv rd
  let l := (List.range (nElem w)).map (fun j => if on j then r j else (if z then 0 else elemAt old w j, 0))
  (t.wv rd (vecOf w (l.map (·.1)))).raise (l.foldl (fun a x => a ||| x.2) 0)

/-- Element instructions of R321 under the mask: OPC selects the operation. -/
def vecOp (g : Guard) (o : OpR) (s : State) (opc : Nat) : Res :=
  elemOp s (fun s => s.retireWith (lenX o.x) (fun t =>
    let n := numMode t.status
    let w := o.ty.width
    let fn := o.fn.toNat
    let rounds := isF o.ty && (opc ≤ 0x75 || (opc == 0x76 && fn == 5))
    let mode := if rounds then rmOf t o.md else 0
    let m := t.mask g
    let va := t.rv o.ra
    let vc := t.rv o.rc
    let (ds, t') := drawsFor t mode (nElem w)
    t'.wElems o.rd w o.md[5] (elemOn m w)
      (fun j => elemVal n o.ty opc fn mode ((ds[j]?).getD 0) o.md[4] (elemAt va w j) (bElem t o w j) (elemAt vc w j))))

/-- vadd (R321). -/
def execVadd (g : Guard) (o : OpR) (s : State) : Res := vecOp g o s 0x70
/-- vsub (R321). -/
def execVsub (g : Guard) (o : OpR) (s : State) : Res := vecOp g o s 0x71
/-- vmul (R321). -/
def execVmul (g : Guard) (o : OpR) (s : State) : Res := vecOp g o s 0x72
/-- vfma (R321). -/
def execVfma (g : Guard) (o : OpR) (s : State) : Res := vecOp g o s 0x73
/-- vmin (R321). -/
def execVmin (g : Guard) (o : OpR) (s : State) : Res := vecOp g o s 0x74
/-- vmax (R321). -/
def execVmax (g : Guard) (o : OpR) (s : State) : Res := vecOp g o s 0x75
/-- vun (R321). -/
def execVun (g : Guard) (o : OpR) (s : State) : Res := vecOp g o s 0x76
/-- vand (R321). -/
def execVand (g : Guard) (o : OpR) (s : State) : Res := vecOp g o s 0x77
/-- vor (R321). -/
def execVor (g : Guard) (o : OpR) (s : State) : Res := vecOp g o s 0x78
/-- vxor (R321). -/
def execVxor (g : Guard) (o : OpR) (s : State) : Res := vecOp g o s 0x79
/-- vsh (R321). -/
def execVsh (g : Guard) (o : OpR) (s : State) : Res := vecOp g o s 0x7A

/-- A comparison of two elements (R267, R279). -/
def cmpElem (n : NumMode) (t : Ty) (fn a b : Nat) : Bool × Flags :=
  if isF t then (fcmpCond fn (decF n t a) (decF n t b), cmpFlags fn (decF n t a) (decF n t b))
  else (cmpCond fn (valT t a) (valT t b), 0)

/-- vcmp (R322). -/
def execVcmp (g : Guard) (o : OpR) (s : State) : Res :=
  elemOp s (fun s => s.retireWith (lenX o.x) (fun t =>
    let n := numMode t.status
    let w := o.ty.width
    let m := t.mask g
    let va := t.rv o.ra
    let l := (List.range (nElem w)).map (fun j => if elemOn m w j then cmpElem n o.ty o.fn.toNat (elemAt va w j) (bElem t o w j) else (false, 0))
    (t.wp o.rd.toNat (BitVec.ofNat 64 (l.foldr (fun x acc => b2n x.1 + 2 * acc) 0))).raise (l.foldl (fun a x => a ||| x.2) 0)))

/-- vsel (R322). -/
def execVsel (g : Guard) (o : OpR) (s : State) : Res :=
  elemOp s (fun s => s.retireWith (lenX o.x) (fun t =>
    let w := o.ty.width
    let m := t.mask g
    let va := t.rv o.ra
    t.wElems o.rd w false (fun _ => true) (fun j => (if elemOn m w j then elemAt va w j else bElem t o w j, 0))))

/-- vbcast (R322). -/
def execVbcast (g : Guard) (o : OpR) (s : State) : Res :=
  elemOp s (fun s => s.retireWith (lenX o.x) (fun t =>
    let w := o.ty.width
    let v := if o.fn == 1 then elemAt (t.rv o.ra) w ((t.rg o.rb).toNat % nElem w)
      else match o.x with | some i => i.toNat % 2 ^ w | none => (t.rg o.ra).toNat % 2 ^ w
    t.wElems o.rd w o.md[5] (elemOn (t.mask g) w) (fun _ => (v, 0))))

/-- vext (R322). -/
def execVext (g : Guard) (o : OpR) (s : State) : Res :=
  elemOp s (fun s => s.retireWith 8 (fun t =>
    let w := o.ty.width
    let k := (t.rg o.rb).toNat % nElem w
    if elemOn (t.mask g) w k then
      if o.fn == 0 then
        let x := elemAt (t.rv o.ra) w k
        t.wg o.rd (if o.ty.isInt then extT o.ty x else BitVec.ofNat 64 x)
      else t.wv o.rd (vecOf w (setAt (elems w (t.rv o.rd)) k ((t.rg o.ra).toNat % 2 ^ w)))
    else t))

/-- The mask bits of vcvt's conversions (R323): bit k governs conversion k. A conversion from e2m1 to e2m1 numbers 128 and a mask has 64 bits:
what governs the upper 64 is a free value, but for p0, whose bits are all ones (log 92). -/
def cvtMask (t : Thread) (g : Guard) (cnt : Nat) (hi : Word) : List Bool :=
  (List.range cnt).map (fun k => if k < 64 then (t.mask g).getLsbD k else if g.pg == 0 then !g.pgn else hi.getLsbD (k - 64))

/-- vcvt (R323). -/
def execVcvt (g : Guard) (o : OpR) (s : State) : Res :=
  elemOp s (fun s =>
    let (s, hi) := if o.fn.toNat % 64 == Ty.code .e2m1 && o.ty == .e2m1 then free s else (s, 0)
    s.retireWith 8 (fun t =>
    let n := numMode t.status
    let src := (Ty.ofCode (o.fn.toNat % 64)).getD .f32
    let ws := src.width
    let wd := o.ty.width
    let cnt := 512 / max ws wd
    let part := o.rc.toNat
    let m := cvtMask t g cnt hi
    let mode := if src.isInt && o.ty.isInt then 0 else rmOf t o.md
    let va := t.rv o.ra
    let (ds, t') := drawsFor t mode cnt
    let from' := fun k => if ws ≤ wd then part * cnt + k else k
    let lo := if ws ≤ wd then 0 else part * cnt
    let old := elems wd (t.rv o.rd)
    let r := (List.range cnt).map (fun k =>
      if (m[k]?).getD false then cvtVal n src o.ty mode ((ds[k]?).getD 0) o.md[4] (elemAt va ws (from' k))
      else (if o.md[5] then 0 else (old[lo + k]?).getD 0, 0))
    (t'.wv o.rd (vecOf wd (old.take lo ++ r.map (·.1) ++ old.drop (lo + cnt)))).raise (r.foldl (fun a x => a ||| x.2) 0)))

/-- The signedness swap of `.mix` (R324). -/
def mixTy (t : Ty) : Ty :=
  match t with
  | .i8 => .n8 | .n8 => .i8 | .i4 => .n4 | .n4 => .i4 | t => t

/-- vdot (R324, R235). -/
def execVdot (g : Guard) (o : OpR) (s : State) : Res :=
  elemOp s (fun s => s.retireWith (lenX o.x) (fun t =>
    let n := numMode t.status
    let w := o.ty.width
    let k := 32 / w
    let isFl := isF o.ty
    let mode := if isFl then rmOf t o.md else 0
    let m := t.mask g
    let va := t.rv o.ra
    let acc := t.rv o.rd
    let grp := fun (lane : Nat) => match o.x with
      | some i => i.toNat
      | none => if o.md[6] then (t.rg o.rb).toNat % 2 ^ 32 else elemAt (t.rv o.rb) 32 lane
    let (ds, t') := drawsFor t mode 16
    t'.wElems o.rd 32 o.md[5] (fun j => m.getLsbD j) (fun j =>
      let as := (List.range k).map (fun i => elemAt va w (j * k + i))
      let bs := (List.range k).map (fun i => grp j / 2 ^ (w * i) % 2 ^ w)
      let c := elemAt acc 32 j
      if isFl then
        let ps := List.zipWith (fun a b => fmul (decF n o.ty a) (decF n o.ty b)) as bs
        let c' := decF n .f32 c
        let (x, fl) := fsum (mode == 2) (c' :: ps.map (·.1))
        let (p, f) := fRes n .f32 mode ((ds[j]?).getD 0) (c' :: (as.map (decF n o.ty) ++ bs.map (decF n o.ty))) (x, fl)
        (p, ps.foldl (fun a q => a ||| q.2) f)
      else
        let tb := if o.fn == 1 then mixTy o.ty else o.ty
        iRes .i32 o.md[4] ((List.zipWith (fun a b => valT o.ty a * valT tb b) as bs).foldl (· + ·) (valT .i32 c)))))

/-- The identity of a reduction as a pattern (R325): 0 add, 1 min, 2 max, 3 and, 4 or, 5 xor. -/
def redIdent (t : Ty) (op : Nat) : Nat :=
  match op with
  | 1 => if isF t then (fmtOf t false).inf.getD 0 else patT t (maxT t)
  | 2 => if isF t then (fmtOf t false).inf.getD 0 + 2 ^ (t.width - 1) else patT t (minT t)
  | 3 => 2 ^ t.width - 1
  | _ => 0

/-- One integer step of min, max, and, or, xor on patterns. -/
def redStep (t : Ty) (op a b : Nat) : Nat :=
  match op with
  | 1 => if valT t b < valT t a then b else a
  | 2 => if valT t a < valT t b then b else a
  | 3 => a &&& b
  | 4 => a ||| b
  | _ => a ^^^ b

/-- A reduction into a float pattern (R325): the exact sum rounded once, or the fold of fminmax in ascending order. -/
def redFloat (n : NumMode) (t : Ty) (op mode rand : Nat) (l : List Nat) : Nat × Flags :=
  match op with
  | 0 => let vs := l.map (decF n t); fRes n t mode rand vs (fsum (mode == 2) vs)
  | _ =>
    match l with
    | [] => (redIdent t op, 0)
    | a :: _ => l.foldl (fun (acc : Nat × Flags) x => let (p, f) := fMinMax n t (op == 2) acc.1 x; (p, acc.2 ||| f)) (a, 0)

/-- A reduction of elements into a g register (R325). -/
def redG (n : NumMode) (t : Ty) (op mode rand : Nat) (l : List Nat) : Word × Flags :=
  if isF t then
    let (p, f) := redFloat n t op mode rand l
    (BitVec.ofNat 64 p, f)
  else if op == 0 then (BitVec.ofInt 64 ((l.map (valT t)).foldl (· + ·) 0), 0)
  else (extT t ((l.foldl (redStep t op) (redIdent t op) : Nat) : Int), 0)

/-- vred (R325). -/
def execVred (g : Guard) (o : OpR) (s : State) : Res :=
  elemOp s (fun s => s.retireWith 8 (fun t =>
    let w := o.ty.width
    let op := o.fn.toNat
    let m := t.mask g
    let va := t.rv o.ra
    let l := ((List.range (nElem w)).filter (elemOn m w)).map (elemAt va w)
    let mode := if isF o.ty && op == 0 && !l.isEmpty then rmOf t o.md else 0
    let (ds, t') := drawsFor t mode 1
    let (x, f) := redG (numMode t.status) o.ty op mode (ds.headD 0) l
    (t'.wg o.rd x).raise f))

/-- One step s op y of a scan (R326). -/
def scanStep (n : NumMode) (t : Ty) (op mode rand : Nat) (sat : Bool) (a b : Nat) : Nat × Flags :=
  match op with
  | 0 => elemVal n t 0x70 0 mode rand sat a b 0
  | 1 => elemVal n t 0x74 0 mode rand sat a b 0
  | _ => elemVal n t 0x75 0 mode rand sat a b 0

/-- The loop of R326 over one segmented run: for each element its head bit, its value (the identity when masked) and its draw; the
outputs in order and the flags. -/
def scanLoop (n : NumMode) (t : Ty) (op mode : Nat) (sat excl : Bool) : List (Bool × Nat × Nat) → Nat → List Nat × Flags
  | [], _ => ([], 0)
  | (head, y, rand) :: l, acc =>
    let before := if head then redIdent t op else acc
    let (after, f) := if head then (y, 0) else scanStep n t op mode rand sat before y
    let (out, f') := scanLoop n t op mode sat excl l after
    ((if excl then before else after) :: out, f ||| f')

/-- vscan (R326). -/
def execVscan (g : Guard) (o : OpR) (s : State) : Res :=
  elemOp s (fun s => s.retireWith 8 (fun t =>
    let w := o.ty.width
    let op := o.fn.toNat % 4
    let mode := if isF o.ty then rmOf t o.md else 0
    let m := t.mask g
    let va := t.rv o.ra
    let heads := t.rp o.rc.toNat
    let (ds, t') := drawsFor t mode (nElem w)
    let items := (List.range (nElem w)).map (fun j =>
      (j == 0 || heads.getLsbD j, if elemOn m w j then elemAt va w j else redIdent o.ty op, (ds[j]?).getD 0))
    let (out, f) := scanLoop (numMode t.status) o.ty op mode o.md[4] o.fn[2] items (redIdent o.ty op)
    (t'.wElems o.rd w o.md[5] (elemOn m w) (fun j => ((out[j]?).getD 0, 0))).raise f))

/-- vperm (R327). -/
def execVperm (g : Guard) (o : OpR) (s : State) : Res :=
  elemOp s (fun s => s.retireWith 8 (fun t =>
    let w := o.ty.width
    let n := nElem w
    let va := t.rv o.ra
    let vb := t.rv o.rb
    let vc := t.rv o.rc
    t.wElems o.rd w o.md[5] (elemOn (t.mask g) w) (fun j =>
      let i := elemAt vb w j
      if o.fn == 0 then (elemAt va w (i % n), 0)
      else let i := i % (2 * n); (if i < n then elemAt va w i else elemAt vc w (i - n), 0))))

/-- Source of element k of vshuf (R327): whether it is b's, and the index. -/
def shufIdx (fn n rot k : Nat) : Bool × Nat :=
  match fn with
  | 0 => (k % 2 == 1, k / 2)
  | 1 => (k % 2 == 1, k / 2 + n / 2)
  | 2 => if k < n / 2 then (false, 2 * k) else (true, 2 * k - n)
  | 3 => if k < n / 2 then (false, 2 * k + 1) else (true, 2 * k - n + 1)
  | 4 => (false, n - 1 - k)
  | _ => (false, (k + rot) % n)

/-- vshuf (R327). -/
def execVshuf (g : Guard) (o : OpR) (s : State) : Res :=
  elemOp s (fun s => s.retireWith 8 (fun t =>
    let w := o.ty.width
    let n := nElem w
    let va := t.rv o.ra
    let vb := t.rv o.rb
    let rot := (t.rg o.rb).toNat
    t.wElems o.rd w o.md[5] (elemOn (t.mask g) w) (fun k =>
      let (b, i) := shufIdx o.fn.toNat n rot k
      (elemAt (if b then vb else va) w i, 0))))

/-- Strict order of sort keys (R236, R328): NaNs above +infinity and equal to one another. -/
def keyLt (t : Ty) (a b : Nat) : Bool :=
  if t == .f32 then
    let x := f32v a
    let y := f32v b
    if x.isNan then false else if y.isNan then true else fltOrd x y
  else decide (valT t a < valT t b)

/-- Stable insertion of a pair behind every pair that is not above it. -/
def sortIns (lt : Nat → Nat → Bool) (x : Nat × Nat) : List (Nat × Nat) → List (Nat × Nat)
  | [] => [x]
  | y :: l => if lt x.1 y.1 then x :: y :: l else y :: sortIns lt x l

/-- vsort (R328). -/
def execVsort (g : Guard) (o : OpR) (s : State) : Res :=
  elemOp s (fun s => s.retireWith 8 (fun t =>
    let m := t.mask g
    let rp := o.rd + 1
    let ks := elems 32 (t.rv o.rd)
    let ps := elems 32 (t.rv rp)
    let on := (List.range 16).filter (fun j => m.getLsbD j)
    let lt := fun a b => if o.fn == 1 then keyLt o.ty b a else keyLt o.ty a b
    let sorted := (on.map (fun j => ((ks[j]?).getD 0, (ps[j]?).getD 0))).foldl (fun acc x => sortIns lt x acc) []
    let (ks, ps) := (on.zip sorted).foldl (fun (acc : List Nat × List Nat) (j, k, p) => (setAt acc.1 j k, setAt acc.2 j p)) (ks, ps)
    (t.wv o.rd (vecOf 32 ks)).wv rp (vecOf 32 ps)))

/-- emax of a narrow type (R231). -/
def emaxT (n : NumMode) (t : Ty) : Int :=
  match t with
  | .e4m3 => if n.nf then 7 else 8
  | .e5m2 => 15
  | _ => 2

/-- A value times a power of two. -/
def FVal.scale (x : FVal) (k : Int) : FVal :=
  match x with
  | .fin s m e => .fin s m (e + k)
  | x => x

/-- Quantises a block (R231): the e8m0 scale, the elements and the flags. A scaled magnitude above the largest finite value
saturates even where T has infinity. -/
def quantBlock (n : NumMode) (t : Ty) (mode : Nat) (ds : List Nat) (vs : List FVal) : Nat × List Nat × Flags :=
  if vs.any (fun v => !v.isFin) then (0xFF, vs.map (fun _ => 0), sigFl vs)
  else
    let amax := vs.foldl (fun a v => if fltOrd a v.abs then v.abs else a) (.fin false 0 0)
    let x : Int := if amax.isZero then 127 else min 254 (max 0 (log2v amax - emaxT n t + 127))
    let f := fmtOf t n.nf
    let top := f.dec f.top
    let r := vs.zipIdx.map (fun (v, j) =>
      let y := v.scale (127 - x)
      if fltOrd top y.abs then (f.top + (if y.isNeg then 2 ^ (f.eb + f.fb) else 0), flOF ||| flNX ||| flSAT)
      else rndF n t mode ((ds[j]?).getD 0) y)
    (x.toNat, r.map (·.1), r.foldl (fun a q => a ||| q.2) 0)

/-- vquant (R329). -/
def execVquant (_g : Guard) (o : OpR) (s : State) : Res :=
  elemOp s (fun s => s.retireWith 8 (fun t =>
    let n := numMode t.status
    let src := (Ty.ofCode (o.fn.toNat % 64)).getD .f32
    let ws := src.width
    let wd := o.ty.width
    let part := o.md.toNat / 16 % 4
    let l := if src == .f32 then elems 32 (t.rv o.ra) ++ elems 32 (t.rv (o.ra + 1)) else elems ws (t.rv o.ra)
    let vs := l.map (decF n src)
    let mode := if vs.any (fun v => !v.isFin) then 0 else rmOf t o.md
    let (ds, t') := drawsFor t mode 32
    let (x, es, f) := quantBlock n o.ty mode ds vs
    let old := elems wd (t.rv o.rd)
    ((t'.wv o.rd (vecOf wd (old.take (part * 32) ++ es ++ old.drop (part * 32 + 32)))).wg o.rc (BitVec.ofNat 64 x)).raise f))

/-- vdeq (R330). -/
def execVdeq (_g : Guard) (o : OpR) (s : State) : Res :=
  elemOp s (fun s => s.retireWith 8 (fun t =>
    let n := numMode t.status
    let src := (Ty.ofCode (o.fn.toNat % 64)).getD .e4m3
    let ws := src.width
    let part := o.md.toNat / 16 % 4
    let mode := rmOf t o.md
    let x := (t.rg o.rb).toNat % 256
    let (ds, t') := drawsFor t mode 32
    let es := ((elems ws (t.rv o.ra)).drop (part * 32)).take 32
    let r := es.zipIdx.map (fun (y, j) =>
      if x == 0xFF then (canonNan n o.ty, 0)
      else rndF n o.ty mode ((ds[j]?).getD 0) ((decF n src y).scale ((x : Int) - 127)))
    let out := r.map (·.1)
    let fl := r.foldl (fun a q => a ||| q.2) 0
    if o.ty == .f32 then ((t'.wv o.rd (vecOf 32 (out.take 16))).wv (o.rd + 1) (vecOf 32 (out.drop 16))).raise fl
    else (t'.wv o.rd (vecOf o.ty.width out)).raise fl))

/-- rng (R340). -/
def execRng (g : Guard) (o : OpR) (s : State) : Res :=
  elemOp s (fun s => s.retireWith 8 (fun t =>
    let blocks := (List.range 4).map (fun i => (philox t.rngkey (t.rngctr + BitVec.ofNat 128 i)).toNat)
    let word := fun j => (blocks[j / 4]?).getD 0 / 2 ^ (32 * (j % 4)) % 2 ^ 32
    let t' := { t with rngctr := t.rngctr + 4 }
    t'.wElems o.rd 32 o.md[5] (elemOn (t.mask g) 32) (fun j =>
      (if o.fn == 0 then word j else ((fmtOf .f32 false).round 0 0 false (.fin false (word j / 256) (-24))).1, 0))))

/-- An integer value, if the number is one: its magnitude's parity and itself as an integer. -/
def FVal.toInt? (x : FVal) : Option Int :=
  match x with
  | .fin s m e =>
    if m == 0 then some 0
    else if e ≥ 0 then some ((if s then -1 else 1) * (m * 2 ^ e.toNat : Nat))
    else if m % 2 ^ (-e).toNat == 0 then some ((if s then -1 else 1) * (m / 2 ^ (-e).toNat : Nat))
    else none
  | _ => none

/-- 2^k as an f32 pattern, with the overflow flag; what lies below the format is left to the unit's pattern. -/
def pow2Pat (x : Nat) (k : Int) : Nat × Flags :=
  if k < -149 then ((Config.sfuPattern 0 (BitVec.ofNat 32 x)).toNat, 0)
  else
    let (p, f) := (fmtOf .f32 false).round 0 0 false (.fin false 1 k)
    (p, f &&& flOF)

/-- 1/√(m × 2^e) rounded to nearest even (R339): with e even it is √(2^200 / m) × 2^(−100 − e/2), whose root keeps a sticky bit. -/
def rsqrt (v : FVal) : Nat :=
  match v with
  | .fin _ m e =>
    let (m, e) := if e % 2 == 0 then (m, e) else (2 * m, e - 1)
    let root := isqrtLoop (2 ^ 200 / m) 101 0
    rne32 (.fin false (2 * root + (if root * root * m == 2 ^ 200 then 0 else 1)) (-101 - e / 2))
  | _ => 0

/-- The f32 result of a special function (R339): the exact and special cases, the correctly rounded rcp and rsqrt, and otherwise
the unit's fixed pattern. -/
def sfuVal (fn : Nat) (x : Nat) (v : FVal) : Nat × Flags :=
  let inf := 0x7F800000
  let one := 0x3F800000
  let nan := 0x7FC00000
  let pat := ((Config.sfuPattern fn (BitVec.ofNat 32 x)).toNat, 0)
  let sgn := fun (b : Bool) => if b then 2 ^ 31 else 0
  match v with
  | .nan sg => (nan, if sg then flINV else 0)
  | .inf neg =>
    (match fn with
     | 0 | 1 => (if neg then 0 else inf, 0)
     | 2 | 3 => if neg then (nan, flINV) else (inf, 0)
     | 4 => (sgn neg, 0)
     | 5 => if neg then (nan, flINV) else (0, 0)
     | 6 | 7 => (nan, flINV)
     | 8 => (one + sgn neg, 0)
     | _ => (if neg then 0 else one, 0))
  | .fin neg m _ =>
    if m == 0 then
      (match fn with
       | 0 | 1 | 7 => (one, 0)
       | 2 | 3 => (inf + 2 ^ 31, flDZ)
       | 4 | 5 => (inf + sgn neg, flDZ)
       | 6 => (0, 0)
       | 8 => (sgn neg, 0)
       | _ => (0x3F000000, 0))
    else
      (match fn with
       | 0 =>
         (match v.toInt? with
          | some k => if k ≥ 128 then (inf, flOF) else pow2Pat x k
          | none => if !neg && fltOrd (.fin false 128 0) v then (inf, flOF) else pat)
       | 1 =>
         -- ln(2^128) lies between the values of 0x42B17217 and 0x42B17218
         if !neg && x % 2 ^ 31 > 0x42B17217 then (inf, flOF) else pat
       | 2 => if neg then (nan, flINV)
              else if m == 2 ^ Nat.log2 m then (rne32 (.ofInt (log2v v)), 0) else pat
       | 3 => if neg then (nan, flINV) else if x == one then (0, 0) else pat
       | 4 => let (p, f) := (fmtOf .f32 false).round 0 0 false (fdiv (.fin false 1 0) v).1; (p, f &&& flOF)
       | 5 => if neg then (nan, flINV) else (rsqrt v, 0)
       | 6 => (match v.toInt? with | some _ => (0, 0) | none => pat)
       | 7 => (match v.toInt? with
          | some k => (if k % 2 == 0 then one else one + 2 ^ 31, 0)
          | none => (match (v.scale 1).toInt? with | some _ => (0, 0) | none => pat))
       | _ => pat)

/-- The result of a special function for one element (R339): bf16 is widened exactly and its f32 result rounded again. -/
def sfuElem (n : NumMode) (t : Ty) (fn x : Nat) : Nat × Flags :=
  let v := decF n t x
  let x32 := if t == .bf16 then (match v with | .nan _ => 0x7FC00000 | _ => ((fmtOf .f32 false).round 0 0 false v).1) else flushed n .f32 x
  let (p, f) := sfuVal fn x32 v
  let p := if n.fz && (fmtOf .f32 false).subnormal p then p / 2 ^ 31 * 2 ^ 31 else p
  if t == .bf16 then
    let (q, f') := rndF n .bf16 0 0 (f32v p)
    (q, f ||| (f' &&& flOF))
  else (p, f)

/-- sfu (R338, R213): the thread waits while it holds four requests or the cluster's queue is full. -/
def execSfu (g : Guard) (o : OpR) (s : State) : Res :=
  elemOp s (fun s =>
    let cl := clusOf (coreOf s.cur)
    let l := (s.clus cl).sfu
    if l.length ≥ 32 || (l.filter (fun e => e.1 == s.cur)).length ≥ 4 then s.wait
    else
      let t := s.me
      let n := numMode t.status
      let w := o.ty.width
      let va := t.rv o.ra
      let t' := t.wElems o.rd w o.md[5] (elemOn (t.mask g) w) (fun j => sfuElem n o.ty o.fn.toNat (elemAt va w j))
      let s := s.modClus cl (fun c => { c with sfu := c.sfu ++ [(s.cur, o.rd.toNat, t'.rv o.rd)] })
      s.retireWith 8 (fun t => { t with status := t'.status }))

end Sys2Proof.Machine
end

