-- ==== Sys2Proof/Machine/Matrix.lean ====
section
/-! DEFINITION. The matrix engine and the copy unit (R346 to R371): claims, cards, matrix arithmetic, curves, drains and copies. -/
namespace Sys2Proof.Machine

/-! ### Claims -/

/-- The numbers of the set bits of a mask below `n`. -/
def maskBits (m n : Nat) : List Nat := (List.range n).filter (fun i => bit m i)

/-- The owner of a slot or accumulator tile as node + 1; 0 when it is unclaimed. -/
def ownerOf (c : Cluster) (acc : Bool) (i : Nat) : Nat := tget 0 (if acc then c.accOwn else c.slotOwn) i

/-- Sets the owner of every resource of a mask. -/
def setOwner (c : Cluster) (acc : Bool) (m v : Nat) : Cluster :=
  let put := fun (t : Table Nat) => (maskBits m 32).foldl (fun t i => tset 0 t i v) t
  if acc then { c with accOwn := put c.accOwn } else { c with slotOwn := put c.slotOwn }

/-- Every resource of a mask is unclaimed or held by a node already (R350). -/
def claimFree (c : Cluster) (acc : Bool) (m node : Nat) : Bool :=
  (maskBits m 32).all (fun i => ownerOf c acc i == 0 || ownerOf c acc i == node + 1)

/-- Slots and accumulator tiles that a job reads or writes. -/
def Job.uses (j : Job) : List Nat × List Nat :=
  let codes := fun (off n : Nat) => ((j.card.drop off).take n).map (fun b => b.toNat)
  match j.kind with
  | .mx =>
    let nch := bits (fld j.card 0 8) 31 28 + 1
    ((codes 0x08 nch).map (· / 8) ++ (codes 0x18 nch).map (· % 32), j.scoreboard.2)
  | .drain => ([], j.scoreboard.1)
  | .zero => ([], j.scoreboard.2)
  | .copy =>
    let ctl := fld j.card 0x20 4
    ((if bits ctl 21 20 == 1 then [fld j.card 0 8 / 8] else []) ++ (if bits ctl 23 22 == 1 then [fld j.card 8 8 / 8] else []), [])
  | _ => ([], [])

/-- An accepted, uncompleted job of a cluster uses a resource of a mask (R350). -/
def claimBusy (c : Cluster) (acc : Bool) (m : Nat) : Bool :=
  c.jobs.any (fun j => j.st != .submitted && (maskBits m 32).any (fun i => (if acc then j.uses.2 else j.uses.1).contains i))

/-- Takes a thread's request out of a cluster's waiting ones. -/
def dropClaim (c : Cluster) (th : Nat) : Cluster := { c with claims := c.claims.filter (fun x => x.th != th) }

/-- The oldest waiting claim of a cluster that can be granted. -/
def claimNext (s : State) (cl : Nat) : Option Claim :=
  (s.clus cl).claims.find? (fun x => !x.rel && claimFree (s.clus cl) x.acc x.mask (s.th x.th).node)

/-- The oldest waiting release of a cluster that can take place. -/
def releaseNext (s : State) (cl : Nat) : Option Claim :=
  (s.clus cl).claims.find? (fun x => x.rel && !claimBusy (s.clus cl) x.acc x.mask)

/-- Grants a waiting claim (R350). -/
def grantClaim (s : State) (cl : Nat) (x : Claim) : State :=
  let s := s.modClus cl (fun c => setOwner (dropClaim c x.th) x.acc x.mask ((s.th x.th).node + 1))
  asThread s x.th (fun s => s.retireWith 8 (fun t => t.wg (BitVec.ofNat 5 x.rd) (BitVec.ofNat 64 x.mask)))

/-- Performs a waiting release (R350). -/
def performRelease (s : State) (cl : Nat) (x : Claim) : State :=
  let s := s.modClus cl (fun c => setOwner (dropClaim c x.th) x.acc x.mask 0)
  asThread s x.th (fun s => s.retire 8)

/-- The mask of R350. -/
def maskOp (t : Thread) (o : OpI) : Nat := ((t.rg o.ra).setWidth 32 ||| o.imm).toNat

/-- MXSLOT for a mask that names accumulator tiles above a7 (R350, R366). -/
def accMask (m : Nat) : M PUnit := demand (m < 256) cMXSLOT m

/-- MXSLOT's sr.EINFO for a slot or tile (R349). -/
def mxInfo (acc : Bool) (i : Nat) : Nat := if acc then 0x100 + i else i

/-- MXSLOT unless the acting thread's crew holds the resource (R349). -/
def needClaim (acc : Bool) (i : Nat) : M PUnit := do
  let s ← get
  demand (ownerOf (s.clus (clusOf (coreOf s.cur))) acc i == s.me.node + 1) cMXSLOT (mxInfo acc i)

/-- mxclaim (R350). -/
def execMxclaim (g : Guard) (o : OpI) (s : State) : Res :=
  scalarOp s g 8 none false (work (do
    let t ← me
    let m := maskOp t o
    let acc := o.fn[0]
    if acc then accMask m
    let s ← get
    let cl := clusOf (coreOf s.cur)
    let c := s.clus cl
    let older := (c.claims.takeWhile (fun x => x.th != s.cur)).any (fun x => !x.rel && x.acc == acc && x.mask &&& m != 0
      && (s.th x.th).node != t.node && claimFree c x.acc x.mask (s.th x.th).node)
    if claimFree c acc m t.node && !older then
      modify (fun s => s.modClus cl (fun c => setOwner (dropClaim c s.cur) acc m (t.node + 1)))
      done 8 (fun t => t.wg o.rd (BitVec.ofNat 64 m))
    else if o.fn[1] then done 8 (fun t => t.wg o.rd 0)
    else
      modify (fun s => s.modClus cl (fun c =>
        if c.claims.any (fun x => x.th == s.cur) then c
        else { c with claims := c.claims ++ [{ th := s.cur, rd := o.rd.toNat, acc := acc, rel := false, mask := m }] }))
      hold))

/-- mxrel (R350). -/
def execMxrel (g : Guard) (o : OpI) (s : State) : Res :=
  scalarOp s g 8 none false (work (do
    let t ← me
    let m := maskOp t o
    let acc := o.fn[0]
    if acc then accMask m
    for i in maskBits m 32 do needClaim acc i
    let s ← get
    let cl := clusOf (coreOf s.cur)
    if claimBusy (s.clus cl) acc m then
      modify (fun s => s.modClus cl (fun c =>
        if c.claims.any (fun x => x.th == s.cur) then c
        else { c with claims := c.claims ++ [{ th := s.cur, rd := 0, acc := acc, rel := true, mask := m }] }))
      hold
    else
      modify (fun s => s.modClus cl (fun c => setOwner (dropClaim c s.cur) acc m 0))
      done 8 id))

/-- MXCLAIM_GRANT (R350): the oldest waiting claim that can be granted. -/
def execMxclaimGrant (cl : Nat) (s : State) : Res :=
  .next (match claimNext s cl with | some x => grantClaim s cl x | none => s)

/-- MXREL_RELEASE (R350). -/
def execMxrelRelease (cl : Nat) (s : State) : Res :=
  .next (match releaseNext s cl with | some x => performRelease s cl x | none => s)

/-! ### The job card -/

/-- A native step (R351): the type of A, of B, units of A, and N. -/
structure MxShape where
  ta    : Ty
  tb    : Ty
  units : Nat
  n     : Nat
  deriving DecidableEq, Repr

/-- The native steps of R351, by the types and the KIND. -/
def mxShape (ta tb : Ty) (kind : Nat) : Option MxShape :=
  let fp8 := fun (t : Ty) => t == .e4m3 || t == .e5m2
  let i8 := fun (t : Ty) => t == .i8 || t == .n8
  if fp8 ta && fp8 tb then (if kind != 2 then some ⟨ta, tb, 4, 256⟩ else none)
  else if (ta == .bf16 || ta == .f16) && tb == ta then (if kind == 0 then some ⟨ta, tb, 8, 128⟩ else none)
  else if ta == .e2m1 && tb == .e2m1 then (if kind == 0 || kind == 3 then some ⟨ta, tb, 2, 512⟩ else none)
  else if i8 ta && i8 tb then (if kind == 2 then some ⟨ta, tb, 4, 256⟩ else none)
  else none

/-- The fields of a job card (R352, R353). -/
structure MxCard where
  k0    : Nat
  tapt  : Nat
  cbase : Nat
  nch   : Nat
  acc   : Nat
  sh    : MxShape
  half  : Nat
  tap   : Bool
  zero  : Bool
  dend  : Bool
  kind  : Nat
  alist : List Nat
  blist : List Nat
  bmap  : List Nat
  sa    : Nat
  sb    : Nat
  saver : Nat
  sbver : Nat
  row0  : Nat
  col0  : Nat
  deriving DecidableEq, Repr

/-- Reads a job card's fields; none when the types or the KIND are not those of R351. -/
def readMxCard (bs : List Byte) : Option MxCard :=
  let c := fld bs 0 8
  let kind := bits c 1 0
  match Ty.ofCode (bits c 13 8), Ty.ofCode (bits c 21 16) with
  | some ta, some tb =>
    match mxShape ta tb kind with
    | some sh => some {
        k0 := bits c 63 48, tapt := bits c 47 40, cbase := bits c 35 32, nch := bits c 31 28 + 1, acc := bits c 26 24, sh := sh,
        half := bits c 7 7, tap := bit c 6, zero := bit c 5, dend := bit c 4, kind := kind,
        alist := (List.range 16).map (fun k => fld bs (0x08 + k) 1), blist := (List.range 16).map (fun k => fld bs (0x18 + k) 1),
        bmap := (List.range 16).map (fun k => bits (fld bs 0x28 8) (4 * k + 3) (4 * k)),
        sa := fld bs 0x30 2, sb := fld bs 0x32 2, saver := fld bs 0x34 4, sbver := fld bs 0x38 4, row0 := fld bs 0x3C 2,
        col0 := fld bs 0x3E 2 }
    | none => none
  | _, _ => none

/-- The used branches of a card, ascending (R361). -/
def MxCard.used (c : MxCard) : List Nat := (List.range 16).filter (fun b => (c.bmap.take c.nch).contains b)
/-- NBR (R355). -/
def MxCard.nbr (c : MxCard) : Nat := (c.used.foldl max 0) + 1
/-- The accumulator tiles of a card (R351). -/
def MxCard.tiles (c : MxCard) : List Nat := if c.sh.ta == .e2m1 then [c.acc, c.acc + 1] else [c.acc]
/-- Bytes of the taps (R355). -/
def MxCard.tapBytes (c : MxCard) : Nat := 128 * c.sh.n * c.nbr * 4

/-- The field checks of R355. -/
def mxCardOk (bs : List Byte) (c : MxCard) : Bool :=
  let w := fld bs 0 8
  bits w 39 36 == 0 && !bit w 27 && bits w 23 22 == 0 && bits w 15 14 == 0 && bits w 3 2 == 0
    && c.blist.all (· < 32)
    && !(c.sh.ta == .e2m1 && c.acc % 2 == 1)
    && !(c.half == 1 && c.sh.ta.width != 16)
    && !(c.dend && c.kind == 2) && !(c.tap && !c.dend)
    && (c.bmap.drop c.nch).all (· == 0) && (c.dend || c.bmap.all (· == 0))
    && (c.alist.drop c.nch).all (· == 0) && (c.blist.drop c.nch).all (· == 0)
    && (c.alist.take c.nch).all (fun a => a % 8 + c.sh.units ≤ 8)
    && !footBad bs 0x40
    && (c.kind == 1 || c.kind == 3
      || (c.sa == 0 && c.sb == 0 && c.saver == 0 && c.sbver == 0 && c.row0 == 0 && c.col0 == 0 && c.k0 == 0))

/-- The start of a tile's range as an own-Loft address. -/
def tileStart (x : Tile) : Nat := 0xFF00000000000000 + x.base * 64

/-- mxjob (R355). -/
def execMxjob (g : Guard) (o : OpJ) (s : State) : Res :=
  scalarOp s g 16 none false (work (do
    awaitSub
    awaitHandle o.rd.toNat
    let t ← me
    let a := (OpJ.addr t o).toNat
    let bs ← cardBytes o 128 t
    match readMxCard bs with
    | none => raise cADDR a
    | some c =>
      demand (mxCardOk bs c) cADDR a
      let s ← get
      let q := coreOf s.cur
      if c.tap then demand (c.tapBytes ≤ ((tileOf s q c.tapt).lenm1 + 1) * 64) cADDR a
      for x in c.alist.take c.nch do needClaim false (x / 8)
      for x in c.blist.take c.nch do needClaim false x
      for x in c.tiles do needClaim true x
      if c.tap then let _ ← tileUse c.tapt
      let j ← newJob 0 .mx bs (some o.rd.toNat)
      submitJob { j with foot := cardFoot q bs 0x40, dst := tileStart (tileOf s q c.tapt) }))

/-! ### Preparation -/

/-- The job as it stands now. -/
def jCur (j : Job) : J Job := do return (jobAt (← get) (clusOf (coreOf j.th)) j.unit j.seq).getD j

/-- The address of a tensor table entry of a job's context (R64, R67). -/
def entryVa (s : State) (ctx idx : Nat) : Nat := (s.ctx ctx).ttbase.toNat + idx * 64

/-- Reads a tensor table entry at the die home (R68, R193); HANDLE for an index at or beyond TTCOUNT. -/
def readEntry (j : Job) (idx : Nat) : J (List Byte) := do
  let s ← get
  if idx ≥ (s.ctx j.ctx).ttcount.toNat then jfail cHANDLE idx
  jRead j.agent (entryVa s j.ctx idx) 64

/-- VALID, SMODE, LAYOUT and TY of an entry (R67). -/
def entValid (e : List Byte) : Bool := bit (fld e 0x24 4) 17
/-- SMODE. -/
def entSmode (e : List Byte) : Nat := bits (fld e 0x24 4) 13 12
/-- LAYOUT. -/
def entLayout (e : List Byte) : Nat := bits (fld e 0x24 4) 9 8
/-- TY. -/
def entTy (e : List Byte) : Nat := bits (fld e 0x24 4) 5 0

/-- Whether an entry serves a scaled operand (R358 step 1). -/
def entOk (e : List Byte) (ty : Ty) (smode : Nat) : Bool :=
  entValid e && entLayout e ≤ 1 && entTy e == ty.code && entSmode e == smode

/-- The parts of a job's scale reads (R359): a row of A's scales each, then B's; each appends to scaleA or scaleB. -/
def scaleParts (j : Job) (c : MxCard) : List (J PUnit) :=
  let up := fun (x d : Nat) => (x + d - 1) / d
  let readA := fun (m : Nat) => do
    let j ← jCur j
    let n0 := fld j.entA 8 4
    let base := fld j.entA 0x28 8
    let va := if c.kind == 1 then base + ((c.row0 * 128 + m) * up n0 128 + c.k0) * 4
      else base + (c.row0 * 128 + m) * up n0 32 + c.k0 * 4
    let bs ← jRead j.agent va (c.nch * 4)
    jMod j (fun j => { j with scaleA := j.scaleA ++ bs })
  let readB := fun (i : Nat) => do
    let j ← jCur j
    let n0 := fld j.entB 8 4
    let base := fld j.entB 0x28 8
    let (va, n) := if c.kind == 1 then (base + ((c.k0 + i) * up n0 128 + c.col0) * 4, c.sh.n / 128 * 4)
      else (base + (c.k0 * 128 + i) * up n0 32 + c.col0 * 4, c.sh.n / 32)
    let bs ← jRead j.agent va n
    jMod j (fun j => { j with scaleB := j.scaleB ++ bs })
  (List.range 128).map readA ++ (List.range (if c.kind == 1 then c.nch else c.nch * 128)).map readB

/-- The curve of a branch (R353). -/
def MxCard.curve (c : MxCard) (b : Nat) : Nat := (c.cbase + b) % 16

/-- Whether a curve counts as loaded in preparation (R358 step 3): it is, or an earlier mxcurve entry to it is still to be applied. -/
def curveSoon (s : State) (cl seq c : Nat) : Bool :=
  (tget {} (s.clus cl).curves c).loaded
    || ((unitJobs s cl 0).takeWhile (fun j => j.seq != seq)).any (fun j => j.kind == .curve && j.arg == c && j.st != .submitted)

/-- A die-home engine read that follows takes a new stamp first (R358 step 4). -/
def engineAcquire (s : State) (cl : Nat) : State :=
  let s := advanceStamp s (cl / 32)
  s.modClus cl (fun c => { c with stamp := (s.die (cl / 32)).stamp })

/-- Steps 1 to 4 of R358, as parts that a parked job resumes. -/
def prepareParts (j : Job) (c : MxCard) : List (J PUnit) :=
  let scaled := c.kind == 1 || c.kind == 3
  let cl := clusOf (coreOf j.th)
  let first : List (J PUnit) := if !scaled then [] else [
    do let e ← readEntry j c.sa; jMod j (fun j => { j with entA := e }),
    do let e ← readEntry j c.sb; jMod j (fun j => { j with entB := e }),
    do
      let j ← jCur j
      if !entOk j.entA c.sh.ta (if c.kind == 1 then 2 else 1) then jfail cHANDLE c.sa
      if !entOk j.entB c.sh.tb (if c.kind == 1 then 3 else 1) then jfail cHANDLE c.sb
      if fld j.entA 0x30 4 != c.saver then jfail cSTALESCALE (c.sa + fld j.entA 0x30 4 * 2 ^ 32)
      if fld j.entB 0x30 4 != c.sbver then jfail cSTALESCALE (c.sb + fld j.entB 0x30 4 * 2 ^ 32)]
  let curves : List (J PUnit) := if !c.dend then [] else [
    do
      let s ← get
      match c.used.find? (fun b => !curveSoon s cl j.seq (c.curve b)) with
      | some b => jfail cCURVE (c.curve b)
      | none => pure ⟨⟩]
  let scales := if !scaled then [] else modify (fun s => engineAcquire s cl) :: scaleParts j c
  first ++ curves ++ scales

/-- MXJOB_PREPARE (R358): an accepted job prepares. -/
def execMxjobPrepare (cl n : Nat) (s : State) : Res :=
  .next (match jobAt s cl 0 n with
    | some j =>
      if j.kind == .mx && j.st == .accepted then
        runJob s cl 0 n (fun j =>
          match readMxCard j.card with
          | some c => do
            jParts j (prepareParts j c)
            jMod j (fun j => { j with st := .prepared, prog := 0 })
          | none => jfail cADDR 0)
      else s
    | none => s)

/-! ### Matrix arithmetic -/

/-- Bytes of an operand slot. -/
def slotSize : Nat := 32768

/-- Element `i` of width `w` of a region that starts at byte `base` (R219, R351). -/
def slotElem (m : Mem) (base w i : Nat) : Nat :=
  let a := base + i * w / 8
  if w == 4 then (tget 0 m a).toNat / (if i % 2 == 1 then 16 else 1) % 16 else bytesToNat (mread 0 m a (w / 8))

/-- A's element (row, k) and B's element (k, column) of chunk `ch` (R351). -/
def mxA (m : Mem) (c : MxCard) (ch row k : Nat) : Nat :=
  let a := (c.alist[ch]?).getD 0
  slotElem m (a / 8 * slotSize + a % 8 * 4096) c.sh.ta.width (row * 128 + k)
/-- B's element (k, column). -/
def mxB (m : Mem) (c : MxCard) (ch k col : Nat) : Nat :=
  slotElem m ((c.blist[ch]?).getD 0 * slotSize) c.sh.tb.width (k * c.sh.n + col)

/-- e8m0 scale of a value (R230). -/
def e8m0 (x : Nat) (v : FVal) : FVal := if x == 0xFF then .nan false else v.scale ((x : Int) - 127)

/-- A chunk's term u of R233 as an f36 pattern. -/
def mxChunk (j : Job) (m : Mem) (c : MxCard) (ch row col : Nat) : Nat :=
  let n := numMode j.status
  let xa := fun (k : Nat) => fld j.scaleA (row * (c.nch * 4) + ch * 4 + k / 32) 1
  let xb := fun (k : Nat) => fld j.scaleB ((ch * 128 + k) * (c.sh.n / 32) + col / 32) 1
  let prods := (List.range 128).map (fun k =>
    let a := decF n c.sh.ta (mxA m c ch row k)
    let b := decF n c.sh.tb (mxB m c ch k col)
    if c.kind == 3 then (fmul (e8m0 (xa k) a) (e8m0 (xb k) b)).1 else (fmul a b).1)
  let t := rne36 (fsum false prods).1
  if c.kind == 1 then
    let sa := fld j.scaleA ((row * c.nch + ch) * 4) 4
    let sb := fld j.scaleB ((ch * (c.sh.n / 128) + col / 128) * 4) 4
    rne36 (fmul (f36v t) (f32v (mul32 sa sb))).1
  else t

/-- Sat_i36(acc + psum) of a chunk (R234), on 36-bit patterns. -/
def mxInt (m : Mem) (c : MxCard) (ch row col acc : Nat) : Nat :=
  let p := ((List.range 128).map (fun k => valT c.sh.ta (mxA m c ch row k) * valT c.sh.tb (mxB m c ch k col))).foldl (· + ·) 0
  patT .i36 (satT .i36 (valT .i36 acc + p))

/-- The segment of a value in a curve (R362). -/
def Curve.segment (c : Curve) (v : FVal) : Nat :=
  ((List.range c.nseg).filter (fun j => match fcmpv (f32v ((c.x[j]?).getD 0).toNat) v with
    | some .lt => true | some .eq => true | _ => false)).foldl max 0

/-- y_b and the tap of a branch sum (R361), as f32 patterns. -/
def Curve.apply (c : Curve) (s : Nat) : Nat × Nat :=
  let v := rne32 (f36v s)
  if (f32v v).isNan then (0x7FC00000, 0x7FC00000)
  else
    let j := c.segment (f32v v)
    let x := ((c.x[j]?).getD 0).toNat
    let y := ((c.y[j]?).getD 0).toNat
    let m := ((c.m[j]?).getD 0).toNat
    let d := rne32 (fadd false (f32v v) (f32v x).neg).1
    (fma32 d m y, mul32 c.gain.toNat m)

/-- One output element (R360, R361): its new accumulator pattern, and the taps of its used branches. -/
def mxElement (j : Job) (cl : Cluster) (c : MxCard) (row col old : Nat) : Nat × List (Nat × Nat) :=
  let chunks := List.range c.nch
  let start := if c.zero then 0 else old
  if c.kind == 2 then (chunks.foldl (fun acc k => mxInt cl.slots c k row col acc) start, [])
  else if !c.dend then (chunks.foldl (fun acc k => add36 acc (mxChunk j cl.slots c k row col)) start, [])
  else
    let branch := fun (b : Nat) =>
      let s := (chunks.filter (fun k => (c.bmap[k]?).getD 0 == b)).foldl (fun a k => add36 a (mxChunk j cl.slots c k row col)) 0
      (tget {} cl.curves (c.curve b)).apply s
    let r := c.used.map (fun b => (b, branch b))
    let out := r.foldl (fun o (b, y) =>
      let gain := (tget {} cl.curves (c.curve b)).gain.toNat
      add36 o (rne36 (fmul (f32v gain) (f32v y.1)).1)) 0
    (if c.zero then out else add36 old out, r.map (fun (b, y) => (b, y.2)))

/-- Where output element (row, column) lies in the accumulator memory (R351). -/
def accKey (c : MxCard) (row col : Nat) : Nat :=
  let n := if c.sh.n == 128 then c.half * 128 + col else col
  (c.acc + n / 256) * 32768 + row * 256 + n % 256

/-- Runs a prepared matrix job (R360 to R363): every output element, then the taps at their local home. -/
def mxRun (s : State) (cl : Nat) (j : Job) (c : MxCard) : State :=
  let k := s.clus cl
  let idx := (List.range (128 * c.sh.n)).map (fun i => (i / c.sh.n, i % c.sh.n))
  let res := idx.map (fun (r, n) => (r, n, mxElement j k c r n (tget 0 k.acc (accKey c r n)).toNat))
  let s := s.modClus cl (fun x => { x with
    acc := res.foldl (fun a (r, n, e) => tset 0 a (accKey c r n) (BitVec.ofNat 36 e.1)) x.acc })
  if c.tap then
    res.foldl (fun s (r, n, e) => (List.range c.nbr).foldl (fun s b =>
      let v := ((e.2.find? (fun p => p.1 == b)).map (·.2)).getD 0
      locWrite s (localHome (coreOf j.th) (j.dst + ((b * 128 + r) * c.sh.n + n) * 4)) ((natToBytes 4 v).map some)) s) s
  else s

/-- A prepared job that may run now: its edges are met, and no older prepared one's are (R358). -/
def mxReady (s : State) (cl n : Nat) : Bool :=
  edgesMet s cl 0 n && !((unitJobs s cl 0).takeWhile (fun j => j.seq != n)).any (fun j => j.kind == .mx && j.st == .prepared
    && edgesMet s cl 0 j.seq)

/-- MXJOB_RUN (R358, R360): the curves are checked once more, then the job runs. -/
def execMxjobRun (cl n : Nat) (s : State) : Res :=
  .next (match jobAt s cl 0 n with
    | some j =>
      if j.kind == .mx && j.st == .prepared && mxReady s cl n then
        match readMxCard j.card with
        | some c =>
          match if c.dend then c.used.find? (fun b => !(tget {} (s.clus cl).curves (c.curve b)).loaded) else none with
          | some b => endJob s cl 0 n { state := 2, cause := cCURVE, info := c.curve b }
          | none => endJob (mxRun s cl j c) cl 0 n {}
        | none => s
      else s
    | none => s)

/-! ### Curves and clearing -/

/-- An f32 pattern that is NaN or infinite. -/
def notFin (x : Nat) : Bool := !(f32v x).isFin

/-- Reads a curve record (R364, R365); none when it is bad. -/
def readCurve (bs : List Byte) : Option Curve :=
  let n := fld bs 4 4
  let col := fun (off : Nat) => (List.range 32).map (fun i => fld bs (off + 4 * i) 4)
  let x := col 0x10
  let y := col 0x90
  let m := col 0x110
  let rest := fun (l : List Nat) => (l.drop n).all (· == 0)
  let rise := (List.range (min n 32 - 1)).all (fun i => fcmpv (f32v ((x[i]?).getD 0)) (f32v ((x[i + 1]?).getD 0)) == some .lt)
  if 1 ≤ n && n ≤ 32 && zeroFld bs 8 8 && rest x && rest y && rest m
      && !(fld bs 0 4 :: (x.take n ++ y.take n ++ m.take n)).any notFin && rise then
    some { loaded := true, gain := BitVec.ofNat 32 (fld bs 0 4), nseg := n, x := (x.take n).map (BitVec.ofNat 32),
           y := (y.take n).map (BitVec.ofNat 32), m := (m.take n).map (BitVec.ofNat 32) }
  else none

/-- mxcurve (R365). -/
def execMxcurve (g : Guard) (o : OpJ) (s : State) : Res :=
  scalarOp s g 16 none false (work (do
    awaitSub
    let bs ← cardBytes o 400 (← me)
    let c := o.aux0.toNat % 16
    demand (readCurve bs).isSome cCURVE c
    let j ← newJob 0 .curve bs none
    submitJob { j with arg := c }))

/-- MXCURVE_APPLY (R365): the entry replaces its curve once its edges are met. -/
def execMxcurveApply (cl n : Nat) (s : State) : Res :=
  .next (match jobAt s cl 0 n with
    | some j =>
      if j.kind == .curve && j.st == .accepted && edgesMet s cl 0 n then
        match readCurve j.card with
        | some c => s.modClus cl (fun x => { x with
            curves := tset {} x.curves j.arg c
            jobs := x.jobs.filter (fun y => !(y.unit == 0 && y.seq == n)) })
        | none => s
      else s
    | none => s)

/-- mxzero (R366). -/
def execMxzero (g : Guard) (o : OpI) (s : State) : Res :=
  scalarOp s g 8 none false (work (do
    awaitSub
    let m := maskOp (← me) o
    accMask m
    for i in maskBits m 8 do needClaim true i
    let j ← newJob 0 .zero [] none
    submitJob { j with arg := m }))

/-- MXZERO_APPLY (R366). -/
def execMxzeroApply (cl n : Nat) (s : State) : Res :=
  .next (match jobAt s cl 0 n with
    | some j =>
      if j.kind == .zero && j.st == .accepted && edgesMet s cl 0 n then
        s.modClus cl (fun x => { x with
          acc := x.acc.filter (fun e => !bit j.arg (e.1 / 32768))
          jobs := x.jobs.filter (fun y => !(y.unit == 0 && y.seq == n)) })
      else s
    | none => s)

/-! ### Draining -/

/-- The fields of a drain card (R367). -/
structure DrainCard where
  dst   : Nat
  pitch : Nat
  rm    : Nat
  dty   : Ty
  tile  : Bool
  srci  : Bool
  acc   : Nat
  deriving DecidableEq, Repr

/-- Reads a drain card; none when R368 refuses its fields. -/
def readDrain (bs : List Byte) : Option DrainCard :=
  let c := fld bs 0x0C 4
  let srci := bit c 3
  let pitch := fld bs 8 4
  match Ty.ofCode (bits c 13 8) with
  | none => none
  | some ty =>
    let okTy := if srci then [Ty.i32, Ty.i16, Ty.i8, Ty.f32, Ty.i36].contains ty
      else [Ty.f32, Ty.bf16, Ty.f16, Ty.e4m3, Ty.e5m2, Ty.f36].contains ty
    if okTy && bits c 31 19 == 0 && bits c 15 14 == 0 && bits c 7 5 == 0 && bits c 18 16 < 6 && pitch % 64 == 0
        && 256 * esize ty ≤ pitch && zeroFld bs 0x10 48 && (!bit c 4 || fld bs 0 8 < 256) then
      some { dst := fld bs 0 8, pitch := pitch, rm := bits c 18 16, dty := ty, tile := bit c 4, srci := srci, acc := bits c 2 0 }
    else none

/-- Bytes of a drain's output range. -/
def DrainCard.span (c : DrainCard) : Nat := 127 * c.pitch + 256 * esize c.dty

/-- A device range within the address space, or a local one within its window and R103 (R368, R370). -/
def spanCheck (va len : Nat) : M PUnit := do
  if isLocal va then cardLocal va len else demand (va + len ≤ 2 ^ 55) cADDR va

/-- mxdrain (R368). -/
def execMxdrain (g : Guard) (o : OpJ) (s : State) : Res :=
  scalarOp s g 16 none false (work (do
    awaitSub
    awaitHandle o.rd.toNat
    let t ← me
    let a := (OpJ.addr t o).toNat
    let bs ← cardBytes o 64 t
    match readDrain bs with
    | none => raise cADDR a
    | some c =>
      let s ← get
      let q := coreOf s.cur
      let x := tileOf s q c.dst
      let dst := if c.tile then tileStart x else c.dst
      if c.tile then demand (c.span ≤ (x.lenm1 + 1) * 64) cADDR dst
      spanCheck dst c.span
      needClaim true c.acc
      if c.tile then let _ ← tileUse c.dst
      let j ← newJob 0 .drain bs (some o.rd.toNat)
      submitJob { j with dst := dst, foot := (mkRegion q true dst c.span).toList }))

/-- One drained element (R368), as its output bytes. -/
def drainElem (n : NumMode) (c : DrainCard) (x : Nat) : List Byte :=
  let v := match c.dty with
    | .f36 => x
    | .i36 => (extT .i36 (valT .i36 x)).toNat
    | ty =>
      if c.srci then (if ty == .f32 then (rndF n .f32 c.rm 0 (.ofInt (valT .i36 x))).1 else patT ty (satT ty (valT .i36 x)))
      else (rndF n ty c.rm 0 (f36v x)).1
  natToBytes (esize c.dty) v

/-- MXDRAIN_RUN (R368): row by row. -/
def execMxdrainRun (cl n : Nat) (s : State) : Res :=
  .next (match jobAt s cl 0 n with
    | some j =>
      if j.kind == .drain && (j.st == .running || (j.st == .accepted && edgesMet s cl 0 n)) then
        runJob (modJob s cl 0 n (fun j => { j with st := .running })) cl 0 n (fun j => do
          match readDrain j.card with
          | some c =>
            if c.rm == 5 then jfail cHANDLE 0
            let row := fun (m : Nat) => outPieces (j.dst + m * c.pitch) (256 * esize c.dty)
            jParts j (((List.range 128).map (fun m => (row m).map (fun (va, len) => do
              let acc := ((← get).clus cl).acc
              let bs := ((List.range 256).map (fun k => drainElem (numMode j.status) c
                (tget 0 acc (c.acc * 32768 + m * 256 + k)).toNat)).flatten
              jWrite j.agent va ((bs.drop (va - (j.dst + m * c.pitch))).take len)))).flatten)
            jDone j
          | none => jfail cADDR 0)
      else s
    | none => s)

/-! ### The copy unit -/

/-- The fields of a copy card (R369). -/
structure CopyCard where
  src    : Nat
  dst    : Nat
  rows   : Nat
  cols   : Nat
  spitch : Nat
  dpitch : Nat
  dkind  : Nat
  skind  : Nat
  trans  : Bool
  rm     : Nat
  dty    : Ty
  sty    : Ty
  deriving DecidableEq, Repr

/-- Rows of the destination. -/
def CopyCard.drows (c : CopyCard) : Nat := if c.trans then c.cols else c.rows
/-- Elements of a destination row. -/
def CopyCard.dcols (c : CopyCard) : Nat := if c.trans then c.rows else c.cols
/-- Bytes of a source row. -/
def CopyCard.srow (c : CopyCard) : Nat := c.cols * c.sty.width / 8
/-- Bytes of a destination row. -/
def CopyCard.drow (c : CopyCard) : Nat := c.dcols * c.dty.width / 8
/-- Bytes of the source extent. -/
def CopyCard.sspan (c : CopyCard) : Nat := (c.rows - 1) * c.spitch + c.srow
/-- Bytes of the destination extent. -/
def CopyCard.dspan (c : CopyCard) : Nat := (c.drows - 1) * c.dpitch + c.drow

/-- Reads a copy card; none when a field, a type or a row fails R370. -/
def readCopy (bs : List Byte) : Option CopyCard :=
  let w := fld bs 0x20 4
  match Ty.ofCode (bits w 13 8), Ty.ofCode (bits w 5 0) with
  | some dty, some sty =>
    let c : CopyCard := {
      src := fld bs 0 8, dst := fld bs 8 8, rows := fld bs 0x10 4, cols := fld bs 0x14 4, spitch := fld bs 0x18 4,
      dpitch := fld bs 0x1C 4, dkind := bits w 23 22, skind := bits w 21 20, trans := bit w 19, rm := bits w 18 16, dty := dty, sty := sty }
    if bits w 31 29 == 0 && bits w 15 14 == 0 && bits w 7 6 == 0 && zeroFld bs 0x24 28 && c.dkind < 3 && c.skind < 3 && c.rm < 6
        && bits w 28 24 ≤ 16 && 1 ≤ c.rows && c.rows ≤ 65536 && 1 ≤ c.cols && c.cols ≤ 65536
        && (c.skind == 0 || c.src < 256) && (c.dkind == 0 || c.dst < 256)
        && dty != .f36 && dty != .i36 && sty != .f36 && sty != .i36 && (sty == dty || (sty.inCvt && dty.inCvt))
        && c.cols * sty.width % 8 == 0 && c.dcols * dty.width % 8 == 0 && c.drow ≤ c.dpitch && c.srow ≤ c.spitch then some c
    else none
  | _, _ => none

/-- Where an end of a copy starts: an address, a place in the operand memory, or a tile's range. -/
def copyStart (s : State) (q kind v : Nat) : Nat :=
  match kind with
  | 0 => v
  | 1 => v / 8 * slotSize + v % 8 * 4096
  | _ => tileStart (tileOf s q v)

/-- The alignment and granule rule of a transposition (R370). -/
def CopyCard.transOk (c : CopyCard) (src dst : Nat) : Bool :=
  let g := 512 / min c.sty.width c.dty.width
  !c.trans || (c.rows % g == 0 && c.cols % g == 0 && src % 64 == 0 && dst % 64 == 0 && c.spitch % 64 == 0 && c.dpitch % 64 == 0)

/-- The extent check of one end (R370). -/
def copyExtent (kind v start len card : Nat) : M PUnit := do
  let s ← get
  match kind with
  | 0 => spanCheck start len
  | 1 => demand (start % slotSize + len ≤ slotSize) cADDR card
  | _ =>
    demand (len ≤ ((tileOf s (coreOf s.cur) v).lenm1 + 1) * 64) cADDR start
    cardLocal start len

/-- The footprint region of one end: operand memory stands behind the local homes. -/
def copyRegion (q kind : Nat) (write : Bool) (start len : Nat) : List Region :=
  if kind == 1 then [{ write := write, loc := true, lo := 2 ^ 40 + start, len := len }] else (mkRegion q write start len).toList

/-- cpjob (R370). -/
def execCpjob (g : Guard) (o : OpJ) (s : State) : Res :=
  scalarOp s g 16 none false (work (do
    awaitSub
    awaitHandle o.rd.toNat
    let t ← me
    let a := (OpJ.addr t o).toNat
    let bs ← cardBytes o 64 t
    match readCopy bs with
    | none => raise cADDR a
    | some c =>
      let s ← get
      let q := coreOf s.cur
      let src := copyStart s q c.skind c.src
      let dst := copyStart s q c.dkind c.dst
      demand (c.transOk src dst) cADDR a
      copyExtent c.skind c.src src c.sspan a
      copyExtent c.dkind c.dst dst c.dspan a
      if c.skind == 1 then needClaim false (c.src / 8)
      if c.dkind == 1 then needClaim false (c.dst / 8)
      if c.skind == 2 then tileCheck c.src
      let x := tileOf s q c.dst
      if c.dkind == 2 then demand (x.ctx == t.ctx) cTILESTATE (tileInfo c.dst x.st)
      if c.skind == 2 then let _ ← tileUse c.src
      await (decide ((unitJobs s (clusOf q) 1).length < unitQueue))
      if c.dkind == 2 then
        await (x.st != 3 && !(x.st == 1 && x.pend ≥ 255))
        modify (fun s => modTile s q c.dst (fun x =>
          if x.st == 1 then { x with pend := x.pend + 1 } else { x with st := 1, pend := 1, flt := false }))
      let j ← newJob 1 .copy bs (some o.rd.toNat)
      submitJob { j with
        src := src
        dst := dst
        tileD := if c.dkind == 2 then some c.dst else none
        foot := copyRegion q c.skind false src c.sspan ++ copyRegion q c.dkind true dst c.dspan }))

/-- Reads source bytes of a copy. -/
def copyRead (j : Job) (c : CopyCard) (off n : Nat) : J (List Byte) := do
  if c.skind == 1 then jLog j.agent (return mread 0 ((← get).clus (clusOf (coreOf j.th))).slots (j.src + off) n)
  else jRead j.agent (j.src + off) n

/-- One converted destination element (R371): row and column of the destination. -/
def copyElem (j : Job) (c : CopyCard) (r k : Nat) : J Nat := do
  let (i, l) := if c.trans then (k, r) else (r, k)
  let w := c.sty.width
  let bs ← copyRead j c (i * c.spitch + l * w / 8) ((w + 7) / 8)
  let x := if w == 4 then bytesToNat bs / (if l % 2 == 1 then 16 else 1) % 16 else bytesToNat bs
  return if c.sty == c.dty then x else (cvt (numMode j.status) c.sty c.dty c.rm 0 x).1

/-- Bytes [off, off + n) of destination row `r`. -/
def copyBytes (j : Job) (c : CopyCard) (r off n : Nat) : J (List Byte) := do
  let w := c.dty.width
  let first := off * 8 / w
  let last := ((off + n) * 8 + w - 1) / w
  let mut v := 0
  for k in List.range (last - first) do
    let x ← copyElem j c r (first + k)
    v := v + x % 2 ^ w * 2 ^ (w * k)
  return natToBytes n (v / 2 ^ (off * 8 - first * w))

/-- CPJOB_RUN (R371): every destination word is written once. -/
def execCpjobRun (cl n : Nat) (s : State) : Res :=
  .next (match jobAt s cl 1 n with
    | some j =>
      if j.kind == .copy && (j.st == .running || (j.st == .accepted && edgesMet s cl 1 n)) then
        runJob (modJob s cl 1 n (fun j => { j with st := .running })) cl 1 n (fun j => do
          match readCopy j.card with
          | some c =>
            if c.rm == 5 then jfail cHANDLE 0
            jParts j (((List.range c.drows).map (fun r =>
              let start := j.dst + r * c.dpitch
              (outPieces start c.drow).map (fun (va, len) => do
                let bs ← copyBytes j c r (va - start) len
                if c.dkind == 1 then
                  modify (fun s => s.modClus cl (fun x => { x with slots := mwrite 0 x.slots va bs }))
                else jWrite j.agent va bs))).flatten)
            jDone j
          | none => jfail cADDR 0)
      else s
    | none => s)

/-- ENGINE_JOB_ACCEPT (R356). -/
def execEngineJobAccept (cl unit : Nat) (s : State) : Res := .next (acceptJob s cl unit)

/-- JOB_COMPLETE (R195). -/
def execJobComplete (cl unit n : Nat) (s : State) : Res := .next (completeJob s cl unit n)

end Sys2Proof.Machine
end

