-- ==== Sys2Proof/Machine/Pool.lean ====
section
/-! DEFINITION. The ready pool (R56 to R63, R73 to R76, R84, R93): launch records, acceptance, effective priority, the ends of nodes
and their completion records, cancellation. -/
namespace Sys2Proof.Machine

/-- The fields of a launch record (R61, R62). -/
def readLaunch (bs : List Byte) : Launch :=
  let ctl := fld bs 0xA8 8
  { entry := BitVec.ofNat 64 (fld bs 0 8), arg := BitVec.ofNat 64 (fld bs 8 8), done := BitVec.ofNat 64 (fld bs 0x10 8),
    coord := (List.range (bits ctl 22 20)).map (fun i => fld bs (0x18 + 4 * i) 4),
    pred := (List.range (bits ctl 19 16)).map (fun i => fld bs (0x28 + 8 * i) 8),
    levels := (List.range (bits ctl 15 12)).map (fun i =>
      let d := fld bs (0x68 + 8 * i) 8
      { count := bits d 23 8, spill := bit d 7, scope := bits d 5 3, domain := bits d 2 0 }),
    loft := bits ctl 39 32, contfail := bit ctl 23, threads := bits ctl 9 8, prio := bits ctl 5 0 }

/-- COUNT's bound in a domain (R63). -/
def countMax (domain threads : Nat) : Nat :=
  match domain with
  | 0 => threads + 1
  | 1 => 8
  | 2 => 32
  | 3 => 4
  | _ => 1

/-- The checks of R63 on a record's 256 bytes. -/
def launchOk (bs : List Byte) : Bool :=
  let ctl := fld bs 0xA8 8
  let l := readLaunch bs
  let n := l.levels.length
  bits ctl 63 40 == 0 && bits ctl 31 24 == 0 && bits ctl 11 10 == 0 && bits ctl 7 6 == 0 && zeroFld bs 0xB0 72
    && bits ctl 22 20 ≤ 4 && bits ctl 19 16 ≤ 8 && 1 ≤ n && n ≤ 8
    && (List.range 8).all (fun i => let d := fld bs (0x68 + 8 * i) 8; if i < n then bits d 63 24 == 0 && !bit d 6 else d == 0)
    && (List.range 8).all (fun i => let p := fld bs (0x28 + 8 * i) 8
        if i < l.pred.length then p < 2 ^ 48 && p % 2 ^ 40 != 0 else p == 0)
    && (List.range 4).all (fun i => i < l.coord.length || fld bs (0x18 + 4 * i) 4 == 0)
    && l.done.toNat % 16 == 0 && l.entry.toNat % 4 == 0 && l.entry.toNat < 2 ^ 55
    && l.levels.all (fun x => x.domain ≤ x.scope && x.scope ≤ 5 && 1 ≤ x.count && x.count ≤ countMax x.domain l.threads
        && (x.domain != 0 || x.count == l.threads + 1))
    && (l.levels.zip (l.levels.drop 1)).all (fun (a, b) => decide (b.domain < a.domain))
    && (l.levels.any (fun x => x.domain == 0) || l.threads == 0)
    && (l.levels.map (·.count)).foldl (· * ·) 1 ≤ 4096 && l.loft ≤ 124

/-- EN, POOLMAX, AGEINT and CEIL of a context (R64). -/
def Ctx.en (c : Ctx) : Bool := c.ctl.getLsbD 0
/-- POOLMAX. -/
def Ctx.poolmax (c : Ctx) : Nat := bits c.ctl.toNat 47 32
/-- AGEINT. -/
def Ctx.ageint (c : Ctx) : Nat := bits c.ctl.toNat 31 16
/-- CEIL. -/
def Ctx.ceil (c : Ctx) : Nat := bits c.ctl.toNat 13 8

/-- Live nodes of a context (R64). -/
def liveOf (s : State) (c : Nat) : Nat := (s.nodes.filter (fun e => ctxOf e.1 == c && !e.2.st.ended)).length
/-- Live nodes in the pool (R76). -/
def liveAll (s : State) : Nat := (s.nodes.filter (fun e => !e.2.st.ended)).length

/-- LASTNODE of a context (R57). -/
def lastNodeOf (s : State) (c : Nat) : Nat := if (s.ctx c).count == 0 then 0 else c * 2 ^ 40 + (s.ctx c).count

/-- The outcome code of R56 from CTXOFF onward for a record's 256 bytes; `complete` and `sealOk` are what the window knows of its
granules and of the writing access. -/
def poolCode (s : State) (c : Nat) (bs : List Byte) (complete sealOk : Bool) : Nat :=
  let x := s.ctx c
  let sw := fld bs 0xF8 8
  let l := readLaunch bs
  if !x.en then 4
  else if !complete then 1
  else if !sealOk || bits sw 63 48 != 0x5EA1 || bits sw 47 32 != 0 then 2
  else if !launchOk bs then 5
  else if x.ceil < l.prio then 6
  else if l.pred.any (fun p => p % 2 ^ 40 > (s.ctx (ctxOf p)).count) then 7
  else if x.poolmax ≤ liveOf s c || 65536 ≤ liveAll s then 8
  else 0

/-- A predecessor has ended (R74), or is older than its context's last 65,536 nodes, which R58 takes as DONE. -/
def predEnded (s : State) (p : Nat) : Bool := nodeOld s p || !nodeKept s p || (s.node p).st.ended
/-- A predecessor has ended FAULTED or CANCELLED. -/
def predFailed (s : State) (p : Nat) : Bool :=
  !nodeOld s p && nodeKept s p && ((s.node p).st == .faulted || (s.node p).st == .cancelled)

/-- The home cluster of a record, 0 to 127 (R78). -/
def homeCluster (l : Launch) (k : Nat) : Nat :=
  let c := fun (i : Nat) => (l.coord[i]?).getD 0
  let c0 := if l.coord.isEmpty then k % 2 ^ 32 else c 0
  (c0 * 0x9E3779B1 + c 1 * 0x85EBCA77 + c 2 * 0xC2B2AE3D + c 3 * 0x27D4EB2F) % 2 ^ 32 / 2 ^ 25

/-- The 16 bytes of a completion record (R60). -/
def completionBytes (id : Nat) (n : Node) : List Byte :=
  let st := match n.st with | .done => 4 | .faulted => 5 | _ => 6
  natToBytes 8 (st * 2 ^ 56 + n.cause % 256 * 2 ^ 48 + id % 2 ^ 48) ++ natToBytes 8 n.endedAt

/-- Writes an ended node's completion record: a posted write to the host, or a Chute write for a spawned node, which waits for its
budget and is lost when its address fails (R60, R93). -/
def writeCompletion (s : State) (id : Nat) : State :=
  let n := s.node id
  let a := n.lrec.done.toNat
  let paid := fun (s : State) => s.modNode id (fun n => { n with owed := false })
  if a == 0 then paid s
  else if !n.spawned then paid (s.modHost (fun h => { h with mem := mwrite 0 h.mem a (completionBytes id n) }))
  else
    match (jWrite { q := n.die * 256 + n.k * 8, ctx := ctxOf id, sup := false } a (completionBytes id n)).run s with
    | (.error .stall, s) => s
    | (_, s) => paid s

/-- A node's end (R60, R73): its handles settle and its completion record is due. -/
def finishNode (s : State) (id : Nat) (st : NodeState) (cause : Nat) : State :=
  let s := s.modNode id (fun n => { n with st := st, cause := cause, endedAt := s.clock, owed := true, victimOf := none })
  let s := settleNode s id (s.node id).settled
  writeCompletion s id

/-- READYCLK (R84). -/
def Node.ready (n : Node) (now : Nat) : Nat := n.readyClk + (if n.st == .ready then now - n.readyAt else 0)

/-- A node becomes READY, at a start cluster (R73, R81). -/
def makeReady (s : State) (id : Nat) : State :=
  s.modNode id (fun n => { n with st := .ready, readyAt := s.clock, movedAt := s.clock })

/-- Accepts a record (R58, R73): the new node's id. -/
def acceptNode (s : State) (c : Nat) (bs : List Byte) (spawned : Bool) : State × Nat :=
  let l := readLaunch bs
  let k := (s.ctx c).count + 1
  let id := c * 2 ^ 40 + k
  let home := homeCluster l k
  let s := s.modCtx c (fun x => { x with count := k })
  let s := { s with
    nodes := s.nodes.filter (fun e => !(ctxOf e.1 == c && e.2.st.ended && !e.2.owed && nodeOld s e.1))
    accepts := s.accepts + 1 }
  let s := s.setNode id { lrec := l, spawned := spawned, prio := l.prio, ep := l.prio, order := s.accepts, die := home / 32, k := home % 32 }
  if !l.contfail && l.pred.any (predFailed s) then (finishNode s id .cancelled 0, id)
  else if l.pred.all (predEnded s) then (makeReady s id, id)
  else (s, id)

/-- aged(n) of R84. -/
def agedOf (s : State) (id : Nat) : Nat :=
  let n := s.node id
  let c := s.ctx (ctxOf id)
  if c.ageint == 0 || c.ceil < n.prio then n.prio else min c.ceil (n.prio + n.ready s.clock / (c.ageint * 1024))

/-- The waiters of a node (R84): WAITING nodes that name it, and crews with a thread that awaits its end, in a slot or displaced. -/
def waitersOf (s : State) (id : Nat) : List Nat :=
  (s.nodes.filter (fun e => e.2.st == .waiting && e.2.lrec.pred.contains id)).map (·.1)
    ++ (s.threads.filter (fun e => e.2.live && e.2.waitOn == some id)).map (·.2.node)
    ++ (s.nodes.filter (fun e => e.2.kept.any (fun k => k.2.waitOn == some id))).map (·.1)

/-- EP of a node (R84), inheritance reaching through as many edges as there are nodes. -/
def epFuel (s : State) : Nat → Nat → Nat
  | 0, id => max (s.node id).prio (agedOf s id)
  | f + 1, id => ((waitersOf s id).map (epFuel s f)).foldl max (max (s.node id).prio (agedOf s id))

/-- EP of a node (R84). -/
def epOf (s : State) (id : Nat) : Nat := epFuel s s.nodes.length id

/-- Releases every MXE claim of a node (R349). -/
def releaseClaims (s : State) (id : Nat) : State :=
  let drop := fun (t : Table Nat) => t.filter (fun e => e.2 != id + 1)
  { s with clusters := tmap (fun _ c => { c with slotOwn := drop c.slotOwn, accOwn := drop c.accOwn }) s.clusters }

/-- Frees a node's place (R77, R394): its slots hold no thread, its ranges no crew. -/
def freePlace (s : State) (id : Nat) : State :=
  let n := s.node id
  let s := n.crew.foldl (fun s th => s.modTh th (fun t => if t.node == id then { t with st := .free } else t)) s
  s.modNode id (fun n => { n with
    place := [], crew := [], gone := [], spill := [], imaged := [], preempted := false, chosen := none, kept := [] })

/-- Tiles bound within a freed Loft range become EMPTY unless a fill or drain of them is outstanding, which then ends EMPTY (R394). -/
def dropTiles (s : State) (sh : Share) : State :=
  let drop := fun (x : Tile) =>
    if sh.base ≤ x.base * 64 && x.base * 64 < sh.base + sh.size then
      (match x.st with
       | 2 => { x with st := 0 }
       | 1 => { x with flt := true }
       | 3 => { x with keep := false }
       | _ => x)
    else x
  s.modCore sh.q (fun c => { c with tiles := tmap (fun _ x => drop x) c.tiles })

/-- The crew's slots that still hold its threads. -/
def ownSlots (s : State) (id : Nat) : List Nat := (s.node id).crew.filter (fun th => (s.th th).node == id)

/-- Every write of a crew's threads is performed and its Chute rounds close (R60, R75): their store buffers drain, the dirty words of its
cores are written back, and the Chute queues and the near-memory units run empty. -/
def crewDrain (s : State) (id : Nat) : State :=
  let s := (ownSlots s id).foldl drainAll s
  let s := (((s.node id).place.map (·.q)).eraseDups).foldl (fun s q => chuteFlush (pushDirty s q) q) s
  (List.range 8).foldl (fun s st => nmuAll s st) s

/-- Cancels a WAITING or READY node (R66, R394): a pre-empted crew's threads end in the slots that they still hold, and its record is
written behind the close of its rounds (R60). -/
def cancelNode (s : State) (id : Nat) : State × Bool :=
  let n := s.node id
  if nodeKept s id && (n.st == .waiting || n.st == .ready) then
    let s := if n.preempted then
        n.place.foldl (fun s sh => dropTiles s sh) (releaseClaims ((ownSlots s id).foldl threadEnds (crewDrain s id)) id)
      else s
    (freePlace (finishNode s id .cancelled 0) id, true)
  else (s, false)

end Sys2Proof.Machine
end

