-- ==== Sys2Proof/Machine/Fabric.lean ====
section
/-! DEFINITION. The Broene ports: training and loss (R18 to R20), flits and their check (R21, R22), sending (R23, R24) and receiving
(R23, R25, R27). A step that is not enabled leaves the state as it is. -/
namespace Sys2Proof.Machine

/-! ### Flits -/

/-- The 448-bit header of a flit (R22). -/
def flitHeader (f : Flit) : BitVec 448 :=
  f.addr ++ f.aux ++ f.route ++ f.hops ++ f.hopix ++ f.dst ++ f.src ++ f.ctx ++ f.op ++ f.tc ++ f.beats ++ BitVec.ofBool f.last
    ++ f.seq ++ f.ack ++ f.credit ++ f.kind ++ (0 : BitVec 45) ++ f.opx

/-- One bit of the CRC-64 of ECMA-182 (R21). -/
def crcBit (c : BitVec 64) (b : Bool) : BitVec 64 :=
  if c.getLsbD 63 != b then (c <<< 1) ^^^ 0x42F0E1EBA9EA3693 else c <<< 1

/-- One byte of the CRC, most significant bit first. -/
def crcByte (c : BitVec 64) (x : Byte) : BitVec 64 :=
  crcBit (crcBit (crcBit (crcBit (crcBit (crcBit (crcBit (crcBit c (x.getLsbD 7)) (x.getLsbD 6)) (x.getLsbD 5)) (x.getLsbD 4))
    (x.getLsbD 3)) (x.getLsbD 2)) (x.getLsbD 1)) (x.getLsbD 0)

/-- The CRC of a flit: header bytes, then payload bytes (R21). -/
def flitCrc (f : Flit) : BitVec 64 :=
  ~~~((natToBytes 56 (flitHeader f).toNat ++ natToBytes 192 f.payload.toNat).foldl crcByte (BitVec.allOnes 64))

/-! ### Ports -/

/-- Counts in one of a port's counters (R20): 0 corrected, 1 uncorrectable, 2 replayed, 3 discarded, 4 lost, 5 REFUSE for AMO. -/
def countPort (s : State) (p i n : Nat) : State := s.modPort p (fun x => { x with cnt := tmod 0 x.cnt i (· + BitVec.ofNat 64 n) })

/-- The get/put entry that a tag names for a peer is faulted with ADDR (R19, R27). -/
def faultTag (s : State) (tag dev : Nat) : State :=
  modGp s (tag / 64 % 1024) (tag % 64) (fun e =>
    if e.kind == 1 && e.dev == dev then { e with fault := some (e.fault.getD cADDR), st := .moved } else e)

/-- A PUTDATA or AMO flit that is lost counts no longer among those sent (R19, R166). -/
def unsend (s : State) (f : Flit) : State :=
  if f.op == 1 || f.op == 5 then
    { s with peerSent := tmod 0 s.peerSent (peerKey f.dst.toNat (f.aux.toNat / 64 % 1024)) (· - 1) }
  else s

/-- What leaving UP8 or UP4 loses (R19). -/
def linkLost (s : State) (p : Nat) : State :=
  let x := s.port p
  let fs := x.replay ++ (x.tx.map (·.2)).flatten
  let s := fs.foldl (fun s f => unsend (if f.op == 1 || f.op == 2 then faultTag s (f.aux.toNat % 65536) f.dst.toNat else s) f) s
  let s := countPort s p 4 (fs.filter (fun f => f.op == 4 || f.op == 5)).length
  let s := s.modPort p (fun x => { x with tx := [], replay := [], resend := [], needReplay := false, discard := false, refused := [] })
  { s with cores := tmap (fun _ c => { c with asm := c.asm.filter (fun k => k.ended || k.port != p) }) s.cores }

/-- Moves a port to a state that carries no flits. -/
def portDown (s : State) (p st : Nat) : State :=
  let s := if portUp (s.port p) then linkLost s p else s
  s.modPort p (fun x => { x with st := st, tries := 0, half := false, laneok := 0 })

/-- A port may train: enabled, and the device id is assigned (R28). -/
def mayTrain (s : State) (p : Nat) : Bool := (s.port p).en && s.mgmt.devId.isSome

/-- PORT_RETRAIN (R20). -/
def execPortRetrain (p : Nat) (s : State) : Res := .next (if mayTrain s p then portDown s p 1 else s)

/-- PORT_ENABLE_WRITE (R20). -/
def execPortEnableWrite (p : Nat) (en : Bool) (s : State) : Res :=
  let s := s.modPort p (fun x => { x with en := en })
  .next (if !en then portDown s p 0
    else if (s.port p).st == 0 && mayTrain s p then portDown s p 1 else s)

/-- Receive buffers of each class that a link starts with. -/
def linkCredits : Nat := 64

/-- PORT_TRAINING_DONE (R18): an attempt ends. `found` holds the lanes that pass at both ends, none where no port answers. A port without
a partner is DOWN; a partner that appears trains with it. -/
def execPortTrainingDone (p : Nat) (found : Option (BitVec 8)) (s : State) : Res :=
  let up := fun (lanes : BitVec 8) (st : Nat) (half : Bool) => s.modPort p (fun x => { x with
    st := st
    half := half
    laneok := lanes
    tries := 0
    seq := 0
    ackTo := 0xFFF
    rxLast := 0xFFF
    credits := (List.range 4).map (fun i => (i, linkCredits))
    freed := [] })
  .next (if (s.port p).st ≥ 2 || !mayTrain s p then s
    else match found with
    | none => portDown s p 0
    | some lanes =>
      if lanes == 0xFF then up lanes 2 false
      else if lanes &&& 0xF == 0xF then up lanes 3 false
      else if lanes &&& 0xF0 == 0xF0 then up lanes 3 true
      else s.modPort p (fun x => { x with laneok := lanes, tries := x.tries + 1, st := if x.tries + 1 ≥ 3 then 4 else 1 }))

/-- PORT_LINK_LOSS (R19): the port leaves UP8 or UP4 and trains again. -/
def execPortLinkLoss (p : Nat) (s : State) : Res := .next (if portUp (s.port p) then portDown s p 1 else s)

/-! ### Sending -/

/-- Flits a replay buffer holds (R23). -/
def replaySize : Nat := 1024

/-- A class has a flit to send and a credit for it. -/
def canSend (x : Port) (c : Nat) : Bool := !(tget [] x.tx c).isEmpty && tget 0 x.credits c > 0

/-- The class that sends next and the position of the round-robin behind it (R24): within one round four turns of TC1, then three of TC2,
then one of TC3 (DESIGN CHOICE, log 95). -/
def pickClass (weights : List Nat) (x : Port) : Option (Nat × Nat) :=
  if canSend x 0 then some (0, x.wrr)
  else
    let turns := ((List.range weights.length).map (fun i => List.replicate ((weights[i]?).getD 0) (i + 1))).flatten
    let n := turns.length
    match findNat (fun i => canSend x ((turns[(x.wrr + i) % n]?).getD 1)) n 0 with
    | some i => some ((turns[(x.wrr + i) % n]?).getD 1, (x.wrr + i + 1) % n)
    | none => none

/-- The CREDIT field for a port's freed buffers, and what is left (R22). -/
def creditField (x : Port) : BitVec 24 × Table Nat :=
  let n := fun (i : Nat) => min 63 (tget 0 x.freed i)
  (BitVec.ofNat 24 (n 0 + n 1 * 64 + n 2 * 4096 + n 3 * 262144),
   (List.range 4).foldl (fun t i => tset 0 t i (tget 0 x.freed i - n i)) x.freed)

/-- TX_FLIT_SLOT (R23, R24): a replay request that is due, a flit to resend, the next data flit, or an idle flit. -/
def execTxFlitSlot (p : Nat) (s : State) : Res :=
  let x := s.port p
  let (cr, freed) := creditField x
  let stamp := fun (f : Flit) => { f with ack := x.rxLast, credit := cr }
  let idle := { zeroFlit with kind := 0 }
  .next (if !portUp x then s
    else if x.needReplay then
      s.modPort p (fun x => { x with needReplay := false, freed := freed, last := some (stamp { zeroFlit with kind := 2 }) })
    else
      match x.resend with
      | f :: l =>
        let s := countPort s p 2 1
        s.modPort p (fun x => { x with resend := l, freed := freed, last := some (stamp f) })
      | [] =>
        match if x.replay.length < replaySize then pickClass s.mgmt.weights x else none with
        | none => s.modPort p (fun x => { x with freed := freed, last := some (stamp idle) })
        | some (c, wrr) =>
          match tget [] x.tx c with
          | [] => s
          | f :: l =>
            let f := { f with seq := x.seq, kind := 1 }
            s.modPort p (fun x => { x with
              tx := tset [] x.tx c l
              replay := x.replay ++ [f]
              seq := x.seq + 1
              credits := tmod 0 x.credits c (· - 1)
              wrr := wrr
              freed := freed
              last := some (stamp f) }))

/-! ### Receiving -/

/-- A received flit's ACK and CREDIT (R23). -/
def takeAck (s : State) (p : Nat) (f : Flit) : State :=
  s.modPort p (fun x => { x with
    replay := x.replay.dropWhile (fun g => (f.ack - g.seq).toNat < 2048)
    resend := x.resend.dropWhile (fun g => (f.ack - g.seq).toNat < 2048)
    ackTo := f.ack
    credits := (List.range 4).foldl (fun t i => tmod 0 t i (· + bits f.credit.toNat (6 * i + 5) (6 * i))) x.credits })

/-- A flit is discarded, and with it every later data flit until the replay (R23): a damaged flit asks for a replay each time, so that a
resent one that is damaged again is sent once more; a flit out of order asks once. -/
def discardFlit (s : State) (p : Nat) (damaged : Bool) : State :=
  s.modPort p (fun x => { x with needReplay := x.needReplay || damaged || !x.discard, discard := true })

/-- A data flit received in order (R23, R27): what is not in order is discarded, what is for another device is counted and dropped. -/
def rxData (s : State) (p : Nat) (f : Flit) (op : Nat) (k : State → State) : Res :=
  .next (if !portUp (s.port p) || f.kind != 1 then s
    else if f.seq != (s.port p).rxLast + 1 then discardFlit s p false
    else
      let s := takeAck s p f
      let s := s.modPort p (fun x => { x with rxLast := f.seq, discard := false, freed := tmod 0 x.freed f.tc.toNat (· + 1) })
      if f.dst != s.devId || f.op.toNat != op then countPort s p 3 1 else k s)

/-- A flit's context is resident (R27); none is without the dies and stacks (R16). -/
def resident (s : State) (f : Flit) : Bool := s.powered && (s.ctx f.ctx.toNat).en

/-- REFUSE for a request (R25, R27): AUX its tag. -/
def refuse (s : State) (f : Flit) (cause : Nat) : State :=
  (sendFlit s f.src { zeroFlit with
    aux := f.aux &&& 0xFFFF
    op := 10
    ctx := f.ctx
    last := true
    opx := BitVec.ofNat 128 (f.op.toNat + cause * 256) }).1

/-- Who makes the accesses of a peer's request: user mode of its context, translated as by the first core. -/
def peerAgent (f : Flit) : Agent := { q := 0, ctx := f.ctx.toNat, sup := false }

/-- A request of a resident context; one that faults is refused, and so is one of a context that is not resident (R27, R308). -/
def peerWork (s : State) (f : Flit) (w : J PUnit) : State :=
  if resident s f then
    match w.run s with
    | (.ok _, s) => s
    | (.error _, s) => refuse s f 0
  else refuse s f 0

/-- Counts a PUTDATA or AMO flit of a peer's core that is over, performed or refused (R166). -/
def peerCount (s : State) (f : Flit) : State :=
  { s with peerArr := tmod 0 s.peerArr (peerKey f.src.toNat (f.aux.toNat / 64 % 1024)) (· + 1) }

/-- A put of a peer as its device and tag name it. -/
def putName (f : Flit) : Nat × Nat := (f.src.toNat, f.aux.toNat % 65536)

/-- RX_REPLAY_REQUEST (R23). -/
def execRxReplayRequest (p : Nat) (f : Flit) (s : State) : Res :=
  .next (if portUp (s.port p) && f.kind == 2 then
      let s := takeAck s p f
      s.modPort p (fun x => { x with resend := x.replay })
    else s)

/-- RX_ACK_CREDIT (R23): an idle or acknowledging flit, with the codewords that the FEC has corrected (R20). -/
def execRxAckCredit (p : Nat) (a : AckFlit) (s : State) : Res :=
  .next (if portUp (s.port p) && (a.flit.kind == 0 || a.flit.kind == 3) then countPort (takeAck s p a.flit) p 0 a.fec else s)

/-- Writes a PUTDATA flit's bytes at the homes. -/
def writePut (f : Flit) : J PUnit := do
  let n := min 192 (f.aux.toNat / 2 ^ 32)
  let bs := natToBytes n f.payload.toNat
  for (v, m) in wordPieces f.addr.toNat n do
    let (pa, pg) ← jTranslate (peerAgent f) v .write
    modify (fun s => homeWrite s pa (((bs.drop (v - f.addr.toNat)).take m).map some) pg.ctx pg.key pg.cls false)

/-- RX_PUTDATA (R25): written at the homes; the last flit of a put whose flits have all been written bumps a far counter (R114, R115). -/
def execRxPutdata (p : Nat) (f : Flit) (s : State) : Res :=
  rxData s p f 1 (fun s =>
    let r := if resident s f then (writePut f).run s else (.error .stall, s)
    let ok := match r.1 with | .ok _ => true | .error _ => false
    let s := peerCount (if ok then r.2 else refuse r.2 f 0) f
    let bad := !ok || s.peerBad.contains (putName f)
    let x := f.opx.toNat
    if f.last then
      let s := { s with peerBad := s.peerBad.filter (· != putName f) }
      if !bad && bit x 63 then
        modCounter s (bits x 41 32) (bits x 5 0) (fun c => { c with value := c.value + BitVec.ofNat 32 (bits x 31 16) })
      else s
    else if bad && !s.peerBad.contains (putName f) then { s with peerBad := putName f :: s.peerBad }
    else s)

/-- RX_GETREQ (R25): read at the homes and answered by GETDATA flits. -/
def execRxGetreq (p : Nat) (f : Flit) (s : State) : Res :=
  rxData s p f 2 (fun s => peerWork s f (do
    let len := f.aux.toNat / 2 ^ 32
    let bs ← jReadHome (peerAgent f) f.addr.toNat len
    for i in List.range ((len + 191) / 192) do
      let l := (bs.drop (192 * i)).take 192
      entryFlit f.src.toNat { zeroFlit with
        aux := f.aux &&& 0xFFFF
        op := 3
        tc := 1
        ctx := f.ctx
        beats := BitVec.ofNat 2 ((l.length + 63) / 64)
        last := 192 * (i + 1) ≥ len
        opx := BitVec.ofNat 128 (192 * i)
        payload := BitVec.ofNat 1536 (bytesToNat l) }))

/-- RX_GETDATA (R25, R27). -/
def execRxGetdata (p : Nat) (f : Flit) (s : State) : Res :=
  rxData s p f 3 (fun s =>
    let q := f.aux.toNat / 64 % 1024
    let n := f.aux.toNat % 64
    match gpAt s q n with
    | none => s
    | some e =>
      if e.kind == 1 && !e.put && e.st == .started then
        let off := f.opx.toNat
        let m := min 192 (e.len - off)
        let s := locWrite s (e.home q off) ((natToBytes m f.payload.toNat).map some)
        modGp s q n (fun e => { e with prog := e.prog + m, st := if e.prog + m ≥ e.len then .moved else .started })
      else s)

/-- RX_SEND (R25, R27, R117, R214). -/
def execRxSend (p : Nat) (f : Flit) (s : State) : Res :=
  rxData s p f 4 (fun s =>
    let src : Word := f.opx.setWidth 64
    let nf := f.opx.getLsbD 64
    let key := (src, f.addr)
    if (s.port p).refused.contains key then
      if f.last then s.modPort p (fun x => { x with refused := x.refused.erase key }) else s
    else if !resident s f then
      let s := refuseSend s src f.addr f.ctx.toNat 0 nf
      if f.last then s else s.modPort p (fun x => { x with refused := key :: x.refused })
    else
      (List.range f.beats.toNat).foldl (fun s i => beatIn s {
        src := src
        dst := f.addr
        data := f.payload.extractLsb' (512 * i) 512
        nf := nf
        peer := true
        first := false
        last := f.last && i + 1 == f.beats.toNat
        ctx := f.ctx.toNat
        port := p }) s)

/-- RX_AMO (R304): performed at the near-memory unit. -/
def execRxAmo (p : Nat) (f : Flit) (s : State) : Res :=
  rxData s p f 5 (fun s => peerCount (peerWork s f (do
    let a := f.addr.toNat
    let aop := bits f.aux.toNat 39 32
    match Ty.ofCode (bits f.aux.toNat 47 40) with
    | none => jfail cADDR 0
    | some t =>
      let n := aopSize aop t
      if n == 0 || a % n != 0 then jfail cALIGN 0
      let (pa, pg) ← jTranslate (peerAgent f) a .write
      modify (fun s => nmuAll s (stackOf pa))
      modify (fun s => (nmuDo s pa pg.ctx pg.key pg.cls (.amo aop t f.opx.toNat) false).1))) f)

/-- RX_COUNT (R25): AUX holds the counter number in [5:0] and the increment in [31:16], OPX the core. -/
def execRxCount (p : Nat) (f : Flit) (s : State) : Res :=
  rxData s p f 6 (fun s => modCounter s (f.opx.toNat % 1024) (bits f.aux.toNat 5 0)
    (fun c => { c with value := c.value + BitVec.ofNat 32 (bits f.aux.toNat 31 16) }))

/-- RX_RELQUERY (R166): every flit received before has been performed; the answer tells how many of the core's have arrived. -/
def execRxRelquery (p : Nat) (f : Flit) (s : State) : Res :=
  rxData s p f 7 (fun s => (sendFlit s f.src { zeroFlit with
    aux := f.aux
    op := 8
    last := true
    opx := BitVec.ofNat 128 (tget 0 s.peerArr (peerKey f.src.toNat (bits f.aux.toNat 31 16))) }).1)

/-- RX_RELREPLY (R166): AUX names the round and its core. The peer is done with the round once it has counted every flit sent to it; until
then it is asked again. -/
def execRxRelreply (p : Nat) (f : Flit) (s : State) : Res :=
  rxData s p f 8 (fun s =>
    let q := bits f.aux.toNat 31 16
    let n := f.aux.toNat % 65536
    let mine := fun (w : Nat × Nat × Nat) => w.1 == f.src.toNat && w.2.1 == n
    let met := fun (w : Nat × Nat × Nat) => mine w && w.2.2 ≤ f.opx.toNat
    let late := (s.core q).relWait.any (fun w => mine w && !met w)
      || (List.range 4).any (fun k => (s.th (q * 4 + k)).relStage == 3 && (s.th (q * 4 + k)).sysWait.any (fun w => mine w && !met w))
    let s := s.modCore q (fun c => { c with relWait := c.relWait.filter (fun w => !met w) })
    let s := (List.range 4).foldl (fun s k => s.modTh (q * 4 + k) (fun t => { t with
      sysWait := if t.relStage == 3 then t.sysWait.filter (fun w => !met w) else t.sysWait })) s
    if late then relQuery s q n f.src.toNat else s)

/-- RX_MGMT (R25): handed to the management tunnel. -/
def execRxMgmt (p : Nat) (f : Flit) (s : State) : Res :=
  rxData s p f 9 (fun s => s.modMgmt (fun m => { m with tunnel := m.tunnel ++ [f] }))

/-- RX_REFUSE (R27, R214). -/
def execRxRefuse (p : Nat) (f : Flit) (s : State) : Res :=
  rxData s p f 10 (fun s =>
    match f.opx.toNat % 256 with
    | 1 => faultTag s (f.aux.toNat % 65536) f.src.toNat
    | 2 => faultTag s (f.aux.toNat % 65536) f.src.toNat
    | 4 =>
      let q := coreOf (threadOfAddr f.aux)
      deadLetter s q { src := f.aux, dst := f.addr, beats := [], nf := f.opx.getLsbD 64, peer := false, ended := true, ctx := f.ctx.toNat }
    | 5 => countPort s p 5 1
    | _ => s)

/-- RX_UNKNOWN_OR_FOREIGN_FLIT (R25, R27). -/
def execRxUnknownOrForeignFlit (p : Nat) (f : Flit) (s : State) : Res :=
  if 1 ≤ f.op.toNat && f.op.toNat ≤ 10 && f.dst == s.devId then .next s else rxData s p f 64 id

/-- RX_FLIT_CRC_FAILURE (R23): `crc` is the CRC that came with the flit, `fecBad` an uncorrectable codeword. -/
def execRxFlitCrcFailure (p : Nat) (f : Flit) (crc : BitVec 64) (fecBad : Bool) (s : State) : Res :=
  .next (if !portUp (s.port p) || (!fecBad && crc == flitCrc f) then s
    else
      let s := if fecBad then countPort s p 1 1 else s
      discardFlit s p true)

end Sys2Proof.Machine
end

