-- ==== Sys2Proof/Machine/Chain.lean ====
section
/-! DEFINITION. The chain unit (R69, R70, R373 to R386, R198): virtual tensors, chain jobs, table switches, optimiser commands. -/
namespace Sys2Proof.Machine

/-! ### Tensor table entries and virtual tensors -/

/-- A virtual tensor's descriptor (R69): radices, output dimensions, ranks and factor bases of its d factors. -/
structure VTensor where
  d    : Nat
  n    : List Nat
  m    : List Nat
  c    : List Nat
  fb   : List Nat
  bf   : Bool
  deriving DecidableEq, Repr

/-- The eight factor bases of a pair (R69). -/
def pairBases (e : List Byte) : List Nat := (List.range 8).map (fun i => fld e (if i < 6 then 0x30 + 8 * i else 0x68 + 8 * (i - 6)) 8)

/-- A base list that R70 accepts for d factors. -/
def basesOk (fb : List Nat) (d : Nat) : Bool := (fb.take d).all (fun b => b % 64 == 0) && (fb.drop d).all (· == 0)

/-- Reads a descriptor pair; none when it is malformed (R69, R70). -/
def readVTensor (e : List Byte) : Option VTensor :=
  let desc := fld e 0x21 1
  let d := desc % 16
  let n := (List.range 8).map (fun i => fld e (2 * i) 2)
  let m := (List.range 8).map (fun i => fld e (0x10 + i) 1)
  let cs := (List.range 9).map (fun i => fld e (0x18 + i) 1)
  let fb := pairBases e
  if 2 ≤ d && d ≤ 8 && bits desc 6 4 == 0 && cs[0]? == some 1 && cs[d]? == some 1
      && (n.drop d).all (· == 0) && (m.drop d).all (· == 0) && (cs.drop (d + 1)).all (· == 0)
      && (n.take d).all (fun x => 2 ≤ x && x ≤ 4096) && (m.take d).all (fun x => 1 ≤ x && x ≤ 64)
      && (cs.take (d + 1)).all (fun x => 1 ≤ x && x ≤ 32)
      && (m.take d).foldl (· * ·) 1 ≤ 8192 && (n.take d).foldl (· * ·) 1 ≤ 2 ^ 48 && basesOk fb d then
    some { d := d, n := n.take d, m := m.take d, c := cs.take (d + 1), fb := fb.take d, bf := bit desc 7 }
  else none

/-- D (R70). -/
def VTensor.dim (v : VTensor) : Nat := v.m.foldl (· * ·) 1
/-- NR (R373). -/
def VTensor.rows (v : VTensor) : Nat := v.n.foldl (· * ·) 1
/-- Digit i_k of row `i`, k from 1 (R373). -/
def VTensor.digit (v : VTensor) (i k : Nat) : Nat := i / (v.n.drop k).foldl (· * ·) 1 % (v.n[k - 1]?).getD 1
/-- c_k. -/
def VTensor.rank (v : VTensor) (k : Nat) : Nat := (v.c[k]?).getD 1
/-- m_k, k from 1. -/
def VTensor.out (v : VTensor) (k : Nat) : Nat := (v.m[k - 1]?).getD 1
/-- Bytes of a factor element (R373). -/
def VTensor.fs (v : VTensor) : Nat := if v.bf then 2 else 4
/-- Elements of a slice of factor k (R373). -/
def VTensor.slice (v : VTensor) (k : Nat) : Nat := v.rank (k - 1) * v.out k * v.rank k
/-- Element number of the first element of factor k's slice for row `i` (R373). -/
def VTensor.first (v : VTensor) (i k : Nat) : Nat := v.digit i k * v.slice k

/-- The f32 pattern of a stored element (R374). -/
def widen (t : Ty) (x : Nat) : Nat :=
  match t with
  | .bf16 => x * 65536
  | .f16 => rne32 ((fmtOf .f16 false).dec x)
  | _ => x

/-- Elements of width `w` bytes from bytes. -/
def splitBytes (w n : Nat) (bs : List Byte) : List Nat := (List.range n).map (fun i => fld bs (w * i) w)

/-- The factor slices of row `i`, factor 1 first (R198, R373): as f32 patterns. -/
def readSlices (a : Agent) (v : VTensor) (i : Nat) : J (List (List Nat)) := do
  let mut out := []
  for k in (List.range v.d).map (· + 1) do
    let n := v.slice k
    let bs ← jReadHome a ((v.fb[k - 1]?).getD 0 + v.first i k * v.fs) (n * v.fs)
    out := out ++ [(splitBytes v.fs n bs).map (widen (if v.bf then .bf16 else .f32))]
  return out

/-- Element of a slice (b, j, a) of factor k. -/
def sliceAt (v : VTensor) (g : List (List Nat)) (k b j a : Nat) : Nat :=
  (((g[k - 1]?).getD [])[(b * v.out k + j) * v.rank k + a]?).getD 0

/-- The left product L_k of R374: for each prefix its values over a; L_0 is 1. -/
def leftProd (v : VTensor) (g : List (List Nat)) : Nat → List (List Nat)
  | 0 => [[0x3F800000]]
  | k + 1 =>
    let p := leftProd v g k
    (p.map (fun row => (List.range (v.out (k + 1))).map (fun j => (List.range (v.rank (k + 1))).map (fun a =>
      if k == 0 then sliceAt v g 1 0 j a
      else (List.range (v.rank k)).foldl (fun t b => fma32 ((row[b]?).getD 0) (sliceAt v g (k + 1) b j a) t) 0)))).flatten

/-- The row of R374. -/
def evalRow (v : VTensor) (g : List (List Nat)) : List Nat := (leftProd v g v.d).map (fun r => (r[0]?).getD 0)

/-- The right product Q_k of R379, counted from the end: `i` factors stand to its right end. -/
def rightProd (v : VTensor) (g : List (List Nat)) : Nat → List (List Nat)
  | 0 => [[0x3F800000]]
  | i + 1 =>
    let k := v.d - i
    let q := rightProd v g i
    let rest := ((q[0]?).getD []).length
    (List.range (v.rank (k - 1))).map (fun b => ((List.range (v.out k)).map (fun j => (List.range rest).map (fun r =>
      (List.range (v.rank k)).foldl (fun t a => fma32 (sliceAt v g k b j a) ((((q[a]?).getD [])[r]?).getD 0) t) 0))).flatten)

/-- The contribution C_k of R379 to factor k's slice, in memory order. -/
def contrib (v : VTensor) (g : List (List Nat)) (dy : List Nat) (k : Nat) : List Nat :=
  let l := leftProd v g (k - 1)
  let q := rightProd v g (v.d - k)
  let rest := ((q[0]?).getD []).length
  ((List.range (v.rank (k - 1))).map (fun b => ((List.range (v.out k)).map (fun j => (List.range (v.rank k)).map (fun a =>
    let terms := ((List.range l.length).map (fun p => (List.range rest).map (fun r =>
      let x := (fmul (f32v ((((l[p]?).getD [])[b]?).getD 0)) (f32v ((dy[(p * v.out k + j) * rest + r]?).getD 0))).1
      (fmul x (f32v ((((q[a]?).getD [])[r]?).getD 0))).1))).flatten
    rne32 (fsum false terms).1))).flatten)).flatten

/-! ### Chain cards and their jobs -/

/-- The fields of a chain card (R375). -/
structure ChainCard where
  count : Nat
  tidx  : Nat
  dty   : Ty
  list  : Nat
  data  : Nat
  pitch : Nat
  lr    : Nat
  wgt   : Nat
  offs  : Nat
  gbl   : Nat
  deriving DecidableEq, Repr

/-- Reads a chain card; none when R376 refuses its fields for the kind of job. -/
def readChain (kind : JobKind) (bs : List Byte) : Option ChainCard :=
  let c : ChainCard := {
    count := fld bs 0 4, tidx := fld bs 4 2, dty := if fld bs 6 1 % 64 == Ty.bf16.code then .bf16 else .f32, list := fld bs 8 8,
    data := fld bs 0x10 8, pitch := fld bs 0x18 4, lr := fld bs 0x1C 4, wgt := fld bs 0x20 8, offs := fld bs 0x28 8, gbl := fld bs 0x30 8 }
  let dty := fld bs 6 1
  let own := match kind with
    | .chst true => c.gbl == 0 && c.wgt == 0 && c.offs == 0
    | .chst false => c.lr == 0 && c.gbl != 0 && c.wgt == 0 && c.offs == 0
    | .gpool => c.lr == 0 && c.gbl == 0
    | _ => c.lr == 0 && c.gbl == 0 && c.wgt == 0 && c.offs == 0
  if (dty == Ty.f32.code || dty == Ty.bf16.code) && zeroFld bs 7 1 && zeroFld bs 0x38 8 && 1 ≤ c.count && c.count ≤ 65536 && own
      && c.list % 8 == 0 && c.data % 64 == 0 && c.pitch % 64 == 0 && c.pitch != 0 && c.wgt % 4 == 0 && c.offs % 4 == 0
      && c.gbl % 64 == 0 && !footBad bs 0x40 then some c
  else none

/-- A local range that a card sizes (R376). -/
def cardRange (va len : Nat) : M PUnit := if isLocal va then cardLocal va len else pure ⟨⟩

/-- The gradient base list of chst.acc (R375, R376): 64 bytes in the own Loft window. -/
def baseList (gbl card : Nat) : M (List Byte) := do
  let s ← get
  demand (isLocal gbl && gbl % 2 ^ 56 + 64 ≤ scratch s (coreOf s.cur)) cADDR card
  let bs ← recordBytes (BitVec.ofNat 64 gbl) 64 64
  demand ((List.range 8).all (fun i => fld bs (8 * i) 8 % 64 == 0)) cADDR card
  return bs

/-- A chain-unit job instruction (R376). -/
def chainJob (g : Guard) (o : OpJ) (s : State) (kind : JobKind) : Res :=
  scalarOp s g 16 none false (work (do
    awaitSub
    awaitHandle o.rd.toNat
    let t ← me
    let a := (OpJ.addr t o).toNat
    let bs ← cardBytes o 128 t
    match readChain kind bs with
    | none => raise cADDR a
    | some c =>
      let gb ← if kind == .chst false then baseList c.gbl a else pure []
      cardRange c.data (c.count * c.pitch)
      if kind == .gpool then cardRange c.offs ((c.count + 1) * 4) else cardRange c.list (c.count * 8)
      let j ← newJob 2 kind bs (some o.rd.toNat)
      submitJob { j with foot := cardFoot (coreOf (← get).cur) bs 0x40, entB := gb }))

/-- chld (R376, R378). -/
def execChld (g : Guard) (o : OpJ) (s : State) : Res := chainJob g o s .chld
/-- chst.acc (R376, R380). -/
def execChstAcc (g : Guard) (o : OpJ) (s : State) : Res := chainJob g o s (.chst false)
/-- chst.apply (R376, R380). -/
def execChstApply (g : Guard) (o : OpJ) (s : State) : Res := chainJob g o s (.chst true)
/-- gpool (R376, R381). -/
def execGpool (g : Guard) (o : OpJ) (s : State) : Res := chainJob g o s .gpool

/-- A plain entry that gpool can read (R381). -/
def plainOk (e : List Byte) : Bool :=
  entLayout e == 0 && entSmode e == 0 && [Ty.f32.code, Ty.bf16.code, Ty.f16.code].contains (entTy e)
    && fld e 0x10 4 == 1 && fld e 0x14 4 == 1 && fld e 8 4 ≤ 8192

/-- A pair of entries as one virtual tensor's halves (R68, R69, R377), neither with a reserved type code. MS and the other Zero fields are not
tested: the manual names no consequence (DESIGN CHOICE, log 101). -/
def pairOk (e : List Byte) : Bool :=
  entLayout e == 2 && entValid (e.drop 64) && entLayout (e.drop 64) == 3
    && (Ty.ofCode (entTy e)).isSome && (Ty.ofCode (entTy (e.drop 64))).isSome

/-- Reads the tensor entry or pair of a starting job at its memory home, once and as one event (R68, R377). -/
def startEntry (j : Job) (c : ChainCard) : J (List Byte) := do
  let s ← get
  let x := s.ctx j.ctx
  let va := entryVa s j.ctx c.tidx
  if c.tidx ≥ x.ttcount.toNat then jfail cHANDLE 0
  let fits := c.tidx + 1 < x.ttcount.toNat && va % 512 + 128 ≤ 512
  let e ← jReadEntry j.agent va (fun e => entValid e && entLayout e == 2 && fits)
  if !entValid e then jfail cHANDLE 0
  if j.kind == .gpool && entLayout e == 0 then
    if plainOk e then return e else jfail cHANDLE 0
  else
    if entLayout e == 2 && fits && pairOk e then return e else jfail cHANDLE 0

/-- Elements of an output row: D of the virtual tensor, or n0 of a plain entry. -/
def outDim (e : List Byte) : Nat :=
  if entLayout e == 0 then fld e 8 4 else ((readVTensor e).map VTensor.dim).getD 0

/-- The checks of R377 before any write. -/
def startChecks (j : Job) (c : ChainCard) (e : List Byte) : J PUnit := do
  if entLayout e == 2 then
    match readVTensor e with
    | none => jfail cCHAIN 0
    | some v =>
      match j.kind with
      | .chst true => if v.bf then jfail cCHAIN 0
      | .chst false =>
        let gb := (List.range 8).map (fun i => fld j.entB (8 * i) 8)
        if (gb.take v.d).any (· == 0) || (gb.drop v.d).any (· != 0) then jfail cCHAIN 0
      | _ => pure ⟨⟩
  if outDim e * (c.dty.width / 8) > c.pitch then jfail cADDR 0
  if !isLocal c.data && c.data + c.count * c.pitch > 2 ^ 55 then jfail cADDR 0

/-- A list entry or weight at a local address outside its window or barred by R103 (R377). -/
def listCheck (j : Job) (va n q : Nat) : J PUnit := do
  if isLocal va then
    match localCheck (← get) (coreOf j.th) j.ctx (j.status.getLsbD 0) va n with
    | .ok _ => pure ⟨⟩
    | .error f => jfail f.cause q

/-- A row of the table as f32 patterns (R373, R374, R381): CHAIN with the list position when it is out of range. -/
def tableRow (j : Job) (e : List Byte) (i q : Nat) : J (List Nat) := do
  if entLayout e == 0 then
    if i ≥ fld e 12 4 then jfail cCHAIN q
    let ty := (Ty.ofCode (entTy e)).getD .f32
    let n := fld e 8 4
    let bs ← jRead j.agent (fld e 0 8 + i * fld e 0x18 4 * esize ty) (n * esize ty)
    return (splitBytes (esize ty) n bs).map (widen ty)
  else
    match readVTensor e with
    | none => jfail cCHAIN 0
    | some v =>
      if i ≥ v.rows then jfail cCHAIN q
      return evalRow v (← readSlices j.agent v i)

/-- An f32 pattern stored as DTY (R378). -/
def storeAs (t : Ty) (x : Nat) : List Byte :=
  if t == .bf16 then natToBytes 2 ((fmtOf .bf16 false).round 0 0 false (f32v x)).1 else natToBytes 4 x

/-- One row of chld: its output bytes (R378). -/
def loadRow (j : Job) (c : ChainCard) (p : Nat) : J (List Byte) := do
  let i := bytesToNat (← jRead j.agent (c.list + 8 * p) 8)
  return ((← tableRow j j.entA i p).map (storeAs c.dty)).flatten

/-- One bag of gpool: its output bytes (R381). -/
def poolBag (j : Job) (c : ChainCard) (b : Nat) : J (List Byte) := do
  let o := bytesToNat (← jRead j.agent (c.offs + 4 * b) 4)
  let e := bytesToNat (← jRead j.agent (c.offs + 4 * b + 4) 4)
  if o > e then jfail cCHAIN b
  let mut acc := List.replicate (outDim j.entA) 0
  for k in List.range (e - o) do
    let q := o + k
    listCheck j (c.list + 8 * q) 8 q
    if c.wgt != 0 then listCheck j (c.wgt + 4 * q) 4 q
    let i := bytesToNat (← jRead j.agent (c.list + 8 * q) 8)
    let x ← tableRow j j.entA i q
    let w ← if c.wgt == 0 then pure 0x3F800000 else do pure (bytesToNat (← jRead j.agent (c.wgt + 4 * q) 4))
    acc := List.zipWith (fun x a => fma32 w x a) x acc
  return (acc.map (storeAs c.dty)).flatten

/-- The parts of a row or bag: its bytes are computed, then written. -/
def outParts (j : Job) (c : ChainCard) (p : Nat) (make : J (List Byte)) : List (J PUnit) :=
  let start := c.data + p * c.pitch
  (do let bs ← make; jMod j (fun j => { j with scaleA := bs }))
    :: (outPieces start (outDim j.entA * (c.dty.width / 8))).map (fun (va, len) => do
      let bs := (← jCur j).scaleA
      jWrite j.agent va ((bs.drop (va - start)).take len))

/-- Reads row p of a chst and forms its adds, factor d first (R379, R380). -/
def storeRow (j : Job) (c : ChainCard) (v : VTensor) (apply : Bool) : J PUnit := do
  let p := j.prog
  let i := bytesToNat (← jRead j.agent (c.list + 8 * p) 8)
  if i ≥ v.rows then jfail cCHAIN p
  let g ← readSlices j.agent v i
  let w := c.dty.width / 8
  let dy := (splitBytes w v.dim (← jRead j.agent (c.data + p * c.pitch) (v.dim * w))).map (widen c.dty)
  let adds := ((List.range v.d).map (fun r =>
    let k := v.d - r
    let base := if apply then (v.fb[k - 1]?).getD 0 else fld j.entB (8 * (k - 1)) 8
    (contrib v g dy k).zipIdx.map (fun (x, e) =>
      (k, base + (v.first i k + e) * 4, BitVec.ofNat 32 (if apply then mul32 (c.lr ^^^ 0x80000000) x else x))))).flatten
  jMod j (fun j => { j.commit with adds := adds, factor := v.d })

/-- Sends one return-free f32 add through the die slice (R138, R167, R380). -/
def sendAdd (a : Agent) (va : Nat) (x : BitVec 32) : J PUnit := do
  let (pa, pg) ← jTranslate a va .write
  jCharge a [stackOf pa]
  modify (noteBlock a pa)
  modify (fun s => writeHome s a.q { mkWrite pa [] a.ctx pg.key pg.cls true true with op := some (.amo 7 .f32 x.toNat), chain := true })

/-- Sends the remaining adds of the current factor (R380). -/
def sendAdds (j : Job) : J PUnit := do
  for (k, va, x) in j.adds do
    if k == j.factor then
      sendAdd j.agent va x
      jMod j (fun j => { j with adds := j.adds.drop 1 })

/-- The work of a chain job from where it stands (R377 to R381). -/
def chainWork (j : Job) : J PUnit := do
  match readChain j.kind j.card with
  | none => jfail cADDR 0
  | some c =>
    if j.entA.isEmpty then
      let e ← startEntry j c
      startChecks j c e
      jMod j (fun j => { j.commit with entA := e })
    let j ← jCur j
    match j.kind with
    | .chst apply =>
      match readVTensor j.entA with
      | none => jfail cCHAIN 0
      | some v =>
        if j.factor == 0 then storeRow j c v apply
        sendAdds (← jCur j)
    | .gpool =>
      jParts j (((List.range c.count).map (fun b => outParts j c b (poolBag j c b))).flatten)
      jDone j
    | _ =>
      jParts j (((List.range c.count).map (fun p => outParts j c p (loadRow j c p))).flatten)
      jDone j

/-- CHAIN_JOB_START (R377): a job whose edges are met reads its entry and works; a job that was held up goes on. -/
def execChainJobStart (cl n : Nat) (s : State) : Res :=
  .next (match jobAt s cl 2 n with
    | some j =>
      if j.kind != .opt && (j.st == .running || (j.st == .accepted && edgesMet s cl 2 n)) then
        runJob (modJob s cl 2 n (fun j => { j with st := .running })) cl 2 n chainWork
      else s
    | none => s)

/-- The adds of the current factor have been sent and are counted at their homes (R380): the next factor's follow, then the next
row, then the end. -/
def factorCounted (s : State) (cl n : Nat) : State :=
  match jobAt s cl 2 n with
  | none => s
  | some j =>
    if j.st != .running || j.factor == 0 || j.park.isSome then s
    else if j.adds.any (fun x => x.1 == j.factor) then runJob s cl 2 n chainWork
    else
      let q := coreOf j.th
      let s := chuteFlush s q
      let s := (List.range 8).foldl (fun s st => (nmuAll s st).modStack st (fun k => { k with chain := tdel q k.chain })) s
      if j.factor > 1 then runJob (modJob s cl 2 n (fun j => { j with factor := j.factor - 1 })) cl 2 n chainWork
      else
        let s := modJob s cl 2 n (fun j => { j with factor := 0, prog := j.prog + 1 })
        if ((readChain j.kind j.card).map (·.count)).getD 0 ≤ j.prog + 1 then endJob s cl 2 n {}
        else runJob s cl 2 n chainWork

/-- CHST_FACTOR_COUNTED (R380). -/
def execChstFactorCounted (cl n : Nat) (s : State) : Res := .next (factorCounted s cl n)

/-! ### Events at an entry's home -/

/-- Lets the writes of core `q`'s die to a range of words reach their homes, and its copies leave, as a device-scope atomic does (R138). -/
def toHome (s : State) (q pa n : Nat) : State :=
  let ps := (List.range ((n + 31) / 32)).map (· + pa / 32)
  let s := ps.foldl (fun s p => trimWord (l1Release s q p) (dieOf q) p) s
  let s := ps.foldl (fun s p => fwdWait s (dieOf q) p) s
  nmuAll s (stackOf pa)

/-- One event at the home of `n` bytes within one frame (R301, R382, R402): it sees them as they stand, behind the acting thread's own earlier
accesses to them, and may write them. -/
def homeEvent {α : Type} (pa : Nat) (pg : Page) (va n : Nat) (f : List Byte → M (α × Option (List Byte))) : M α := do
  let q := coreOf (← get).cur
  let k ← nowSeq
  for i in List.range ((n + 31) / 32) do
    let w := (false, pa / 32 + i)
    modify (fun s => readsWord (forceWord s s.cur w k) s.cur w k)
    let s ← get
    await (!(s.me.sb.any (fun e => e.on w k)) && !((s.core q).reads.any (fun r => r.on s.cur w k)))
  modify (fun s => toHome s q pa n)
  match ← pick (fun s => homeRead s pa n pg.ctx pg.key pg.cls) with
  | none => raise cPOISON va
  | some bs =>
    let (r, w) ← f bs
    match w with
    | some new =>
      for (x, m) in wordPieces pa n do
        modify (fun s => writeHome (recordSig s q x) q (piece x ((new.drop (x - pa)).take m) pg true true))
      modify (fun s => toHome s q pa n)
    | none => pure ⟨⟩
    return r

/-- Replaces bytes of a list. -/
def putBytes (l : List Byte) (off : Nat) (bs : List Byte) : List Byte := l.take off ++ bs ++ l.drop (off + bs.length)

/-- Translates the address of a tensor table entry of the acting thread's context. -/
def entryPlace (idx n : Nat) (acc : Acc) : M (Nat × Nat × Page) := do
  let s ← get
  let t := s.me
  let va := entryVa s t.ctx idx
  demand (va % 512 + n ≤ 512) cHANDLE (idx % 65536)
  let (pa, pg) ← act (fun s => translate s (coreOf s.cur) t.ctx t.sup va acc)
  return (va, pa, pg)

/-- An index that names an entry, or the pair behind it (R382, R402): HANDLE otherwise. -/
def entryIndex (idx n : Nat) : M PUnit := do
  let s ← get
  demand (idx + n ≤ (s.ctx s.me.ctx).ttcount.toNat && idx < 65536) cHANDLE (idx % 65536)

/-- tblswap and tblswap.v (R382). -/
def execTblswap (g : Guard) (o : OpR) (s : State) : Res :=
  scalarOp s g 8 none false (work (do
    let t ← me
    let idx := (t.rg o.ra).toNat
    let base := (t.rg o.rb).toNat
    let v := o.fn == 1
    demand (idx < 65536) cHANDLE idx
    entryIndex idx (if v then 2 else 1)
    let list ← if v then recordBytes (t.rg o.rb) 64 64 else do
      demand (base < 2 ^ 55) cADDR base
      pure []
    let (va, pa, pg) ← entryPlace idx (if v then 128 else 64) .write
    if t.prog == 0 then charge (List.replicate (if v then 3 else 2) (stackOf pa))
    releaseSteps .device
    let old ← homeEvent pa pg va (if v then 128 else 64) (fun e => do
      demand (entValid e && (if v then pairOk e else decide (entLayout e ≤ 1))) cHANDLE (idx % 65536)
      let fb := (List.range 8).map (fun i => fld list (8 * i) 8)
      if v then demand (basesOk fb (fld e 0x21 1 % 16)) cCHAIN idx
      else demand (base % esize ((Ty.ofCode (entTy e)).getD .i8) == 0) cALIGN base
      let off := if v then 0x28 else 0x34
      let ver := fld e off 4
      if o.rc != 0 && ver != (t.rg o.rc).toNat % 2 ^ 32 then return (ver, none)
      let e := if v then putBytes (putBytes e 0x30 (list.take 48)) 0x68 (list.drop 48) else putBytes e 0 (natToBytes 8 base)
      return (ver, some (putBytes e off (natToBytes 4 (ver + 1)))))
    done 8 (fun t => t.wg o.rd (BitVec.ofNat 64 old))))

/-! ### Optimiser commands -/

/-- The fields of an optimiser card (R383); parameters are f32 patterns. -/
structure OptCard where
  nel    : Nat
  kind   : Nat
  shadow : Bool
  clrg   : Bool
  w      : Nat
  g      : Nat
  m1     : Nat
  m2     : Nat
  s1     : Nat
  s2     : Nat
  sh     : Nat
  lr     : Nat
  wd     : Nat
  b1     : Nat
  ob1    : Nat
  b2     : Nat
  ob2    : Nat
  eps    : Nat
  c1     : Nat
  c2     : Nat
  deriving DecidableEq, Repr

/-- Bytes of an array of the command: element size times the elements, or one scale a block. -/
def OptCard.arrays (c : OptCard) : List (Nat × Nat × Bool) :=
  let e := if c.kind == 2 then 1 else 4
  [(c.w, 4 * c.nel, true), (c.g, 4 * c.nel, c.clrg), (c.m1, e * c.nel, true)]
    ++ (if c.kind == 0 then [] else [(c.m2, e * c.nel, true)])
    ++ (if c.kind == 2 then [(c.s1, c.nel / 128 * 4, true), (c.s2, c.nel / 128 * 4, true)] else [])
    ++ (if c.shadow then [(c.sh, 2 * c.nel, true)] else [])

/-- Reads an optimiser card; none when R383 or R384 refuses it. -/
def readOpt (bs : List Byte) : Option OptCard :=
  let ctl := fld bs 4 1
  let p := fun (i : Nat) => fld bs (0x40 + 4 * i) 4
  let a := fun (i : Nat) => fld bs (8 + 8 * i) 8
  let c : OptCard := {
    nel := fld bs 0 4, kind := ctl % 4, shadow := bit ctl 2, clrg := bit ctl 3, w := a 0, g := a 1, m1 := a 2, m2 := a 3, s1 := a 4,
    s2 := a 5, sh := a 6, lr := p 0, wd := p 1, b1 := p 2, ob1 := p 3, b2 := p 4, ob2 := p 5, eps := p 6, c1 := p 7, c2 := p 8 }
  let zeros0 := c.kind != 0 || (c.m2 == 0 && [c.ob1, c.b2, c.ob2, c.eps, c.c1, c.c2].all (· == 0))
  let zeros2 := c.kind == 2 || (c.s1 == 0 && c.s2 == 0)
  if c.kind < 3 && ctl < 16 && zeroFld bs 5 3 && zeroFld bs 0x64 28 && zeros0 && zeros2 && (c.shadow || c.sh == 0)
      && 1 ≤ c.nel && c.nel ≤ 2 ^ 24 && (c.kind != 2 || c.nel % 128 == 0)
      && c.arrays.all (fun (b, n, _) => !isLocal b && b + n ≤ 2 ^ 55)
      && [c.w, c.g, c.m1, c.m2, c.s1, c.s2].all (· % 4 == 0) && c.sh % 2 == 0
      && (c.kind != 2 || (c.m1 % 128 == 0 && c.m2 % 128 == 0)) then some c
  else none

/-- optjob (R376, R384). -/
def execOptjob (g : Guard) (o : OpJ) (s : State) : Res :=
  scalarOp s g 16 none false (work (do
    awaitSub
    awaitHandle o.rd.toNat
    let t ← me
    let bs ← cardBytes o 128 t
    match readOpt bs with
    | none => raise cADDR (OpJ.addr t o).toNat
    | some c =>
      let j ← newJob 2 .opt bs (some o.rd.toNat)
      submitJob { j with foot := c.arrays.filterMap (fun (b, n, w) => mkRegion 0 w b n) }))

/-- The new moments and weight of one element (R385), as f32 patterns: w, first and second moment. -/
def optElement (c : OptCard) (w g m v : Nat) : Nat × Nat × Nat :=
  let neg := fun (x : Nat) => x ^^^ 0x80000000
  if c.kind == 0 then
    let v' := fma32 c.b1 m g
    (fma32 (neg c.lr) (fma32 c.wd w v') w, v', 0)
  else
    let m' := fma32 c.b1 m (mul32 c.ob1 g)
    let v' := fma32 c.b2 v (mul32 c.ob2 (mul32 g g))
    let den := add32 (rne32 (fsqrt (f32v (mul32 v' c.c2))).1) c.eps
    let u := rne32 (fdiv (f32v (mul32 m' c.c1)) (f32v den)).1
    (fma32 (neg c.lr) (fma32 c.wd w u) w, m', v')

/-- A block's moment decoded (R386). -/
def momentOf (b scale : Nat) : Nat := rne32 (fmul ((fmtOf .e4m3 false).dec b) (f32v scale)).1

/-- A moment block requantised (R386): its scale and bytes. -/
def requant (xs : List Nat) : Nat × List Nat :=
  if xs.any notFin then (0x7FC00000, xs.map (fun _ => 0x7F))
  else
    let a := (xs.map (· % 2 ^ 31)).foldl max 0
    let scale := if a == 0 then 0x3F800000 else rne32 (fdiv (f32v a) (.fin false 448 0)).1
    (scale, xs.map (fun x => ((fmtOf .e4m3 false).round 0 0 false (fdiv (f32v x) (f32v scale)).1).1))

/-- A place of an array at its homes: word by word, translated for writing when the command writes it. -/
def optPlace (a : Agent) (va n : Nat) (w : Bool) : J (List (Nat × Page × Nat)) := do
  let mut out := []
  for (v, m) in wordPieces va n do
    let (pa, pg) ← jTranslate a v (if w then .write else .read)
    out := out ++ [(pa, pg, m)]
  return out

/-- Reads a place at its homes. -/
def optRead (a : Agent) (l : List (Nat × Page × Nat)) : J (List Byte) := do
  let mut out := []
  for (pa, pg, n) in l do
    modify (fun s => toHome s a.q pa n)
    match ← jpick (fun s => homeRead s pa n pg.ctx pg.key pg.cls) with
    | some bs => out := out ++ bs
    | none => jfail cPOISON 0
  return out

/-- Writes a place at its homes, as charged Chute writes that are performed with the event (R159, R385). -/
def optWrite (a : Agent) (l : List (Nat × Page × Nat)) (bs : List Byte) : J PUnit := do
  let mut rest := bs
  for (pa, pg, n) in l do
    let now := rest.take n
    rest := rest.drop n
    modify (noteBlock a pa)
    modify (fun s => fwdWait (writeHome s a.q (piece pa now pg true true)) (dieOf a.q) (pa / 32))

/-- Secures and spends the words that an event writes, all before any of it (R161, R162, R169). -/
def optCharge (a : Agent) (l : List (Nat × Page × Nat)) : J PUnit := jCharge a (l.map (fun x => stackOf x.1))

/-- One event of an optimiser command (R385, R386): element `i`, or block `i` of 128 elements under KIND 2. -/
def optEvent (a : Agent) (c : OptCard) (i : Nat) : J PUnit := do
  let n := if c.kind == 2 then 128 else 1
  let e := if c.kind == 2 then 1 else 4
  let pw ← optPlace a (c.w + 4 * n * i) (4 * n) true
  let pg ← optPlace a (c.g + 4 * n * i) (4 * n) c.clrg
  let p1 ← optPlace a (c.m1 + e * n * i) (e * n) true
  let p2 ← if c.kind == 0 then pure [] else optPlace a (c.m2 + e * n * i) (e * n) true
  let q1 ← if c.kind == 2 then optPlace a (c.s1 + 4 * i) 4 true else pure []
  let q2 ← if c.kind == 2 then optPlace a (c.s2 + 4 * i) 4 true else pure []
  let ps ← if c.shadow then optPlace a (c.sh + 2 * n * i) (2 * n) true else pure []
  optCharge a (pw ++ p1 ++ p2 ++ q1 ++ q2 ++ ps ++ (if c.clrg then pg else []))
  let w := splitBytes 4 n (← optRead a pw)
  let g := splitBytes 4 n (← optRead a pg)
  let b1 := splitBytes e n (← optRead a p1)
  let b2 ← if c.kind == 0 then pure (List.replicate n 0) else do pure (splitBytes e n (← optRead a p2))
  let s1 := bytesToNat (← optRead a q1)
  let s2 := bytesToNat (← optRead a q2)
  let m := if c.kind == 2 then b1.map (momentOf · s1) else b1
  let v := if c.kind == 2 then b2.map (momentOf · s2) else b2
  let r := (List.range n).map (fun k => optElement c ((w[k]?).getD 0) ((g[k]?).getD 0) ((m[k]?).getD 0) ((v[k]?).getD 0))
  let flat := fun (k : Nat) (l : List Nat) => (l.map (natToBytes k)).flatten
  optWrite a pw (flat 4 (r.map (·.1)))
  let ms := r.map (·.2.1)
  let vs := r.map (·.2.2)
  if c.kind == 2 then
    optWrite a p1 (flat 1 (requant ms).2)
    optWrite a q1 (natToBytes 4 (requant ms).1)
    optWrite a p2 (flat 1 (requant vs).2)
    optWrite a q2 (natToBytes 4 (requant vs).1)
  else
    optWrite a p1 (flat 4 ms)
    if c.kind == 1 then optWrite a p2 (flat 4 vs)
  if c.shadow then optWrite a ps (flat 2 (r.map (fun x => ((fmtOf .bf16 false).round 0 0 false (f32v x.1)).1)))
  if c.clrg then optWrite a pg (flat 4 (List.replicate n 0))

/-- OPTJOB_RUN (R385): an accepted command whose edges are met runs its events in order. -/
def execOptjobRun (cl n : Nat) (s : State) : Res :=
  .next (match jobAt s cl 2 n with
    | some j =>
      if j.kind == .opt && (j.st == .running || (j.st == .accepted && edgesMet s cl 2 n)) then
        runJob (modJob s cl 2 n (fun j => { j with st := .running })) cl 2 n (fun j => do
          match readOpt j.card with
          | none => jfail cADDR 0
          | some c =>
            jParts j ((List.range (if c.kind == 2 then c.nel / 128 else c.nel)).map (optEvent j.agent c))
            jDone j)
      else s
    | none => s)

end Sys2Proof.Machine
end

