-- ==== Sys2Proof/Machine/System.lean ====
section
/-! DEFINITION. Special registers, traps and returns, translation invalidation, keys, the tensor table, pinned windows, capabilities
(R398 to R405) and the registers' own rules (R95, R105, R106, R116, R121, R160, R178, R206, R215, R254, R341). -/
namespace Sys2Proof.Machine

/-! ### Reading special registers -/

/-- The share of the acting thread's crew on its core (R95). -/
def myShare (s : State) : Share :=
  ((s.node s.me.node).place.find? (fun x => x.q == coreOf s.cur)).getD { q := coreOf s.cur, slots := [], base := 0, size := 0 }

/-- Ring bytes that a packet needs (R117): a header, then its beats. -/
def Packet.need (p : Packet) : Nat := 64 + 64 * p.beats.length

/-- A packet for the acting thread's slot is held because it exceeds its ring (R116). -/
def heldTooBig (s : State) : Bool :=
  (s.core (coreOf s.cur)).asm.any (fun p => p.held && threadOfAddr p.dst == s.cur && p.need > s.me.rxsize.toNat % 2 ^ 20)

/-- sr.CHUTE (R166). -/
def chuteReg (c : Core) : Nat :=
  ((c.stalled.map (·.2)).eraseDups.map (fun st => 2 ^ st)).foldl (· + ·) 0 * 2 ^ 40 + (c.rounds.length + 1) * 2 ^ 32 + c.round * 2 ^ 28 + c.out % 2 ^ 19

/-- The value of a special register for the acting thread (R398). -/
def readSr (s : State) (ix : Nat) : Word :=
  let t := s.me
  let q := coreOf s.cur
  let c := s.core q
  let d := s.die (dieOf q)
  let n := s.node t.node
  match ix with
  | 0x000 => t.status
  | 0x001 => threadAddr s s.cur
  | 0x002 => BitVec.ofNat 64 t.node
  | 0x003 => n.lrec.arg
  | 0x004 => BitVec.ofNat 64 (t.idx.foldr (fun i acc => i % 256 + 256 * acc) 0)
  | 0x005 => BitVec.ofNat 64 (agedOf s t.node * 65536 + n.ep * 256 + n.prio)
  | 0x006 => BitVec.ofNat 64 ((myShare s).size * 2 ^ 32 + (myShare s).base)
  | 0x007 => s.dieClock (dieOf q)
  | 0x008 => t.dlcount
  | 0x009 => t.rngkey
  | 0x00A => t.rngctr.extractLsb' 0 64
  | 0x00B => t.rngctr.extractLsb' 64 64
  | 0x010 => t.rxbase
  | 0x011 => BitVec.ofNat 64 (t.rxsize.toNat % 2 ^ 20 + b2n (heldTooBig s) * 2 ^ 31)
  | 0x012 => t.rxhead
  | 0x013 => t.rxtail
  | 0x020 => t.epc
  | 0x021 => t.ebt
  | 0x022 => t.ecause
  | 0x023 => t.einfo
  | 0x024 => t.estat
  | 0x025 => t.utvec
  | 0x026 => t.umask
  | 0x040 => BitVec.ofNat 64 (c.loftCur * 16 + c.loftReq)
  | 0x041 => BitVec.ofNat 64 (ctxBase s q)
  | 0x042 => c.lsepoch.setWidth 64
  | 0x043 => c.wiregrp
  | 0x044 => c.wiretmo
  | 0x045 => BitVec.ofNat 64 (chuteReg c)
  | 0x046 => c.wallow
  | 0x060 => (s.clus (clusOf q)).vicgroup
  | 0x080 => d.spilldly
  | 0x081 => d.gap
  | 0x082 => d.preempts
  | 0x083 => d.tvec
  | 0x084 => d.fqcfg
  | 0x085 => BitVec.ofNat 64 (d.fqTail.toNat * 2 ^ 32 + d.fqHead.toNat)
  | _ => 0

/-- Registers that user mode may not read (R398). -/
def srReadPriv (ix : Nat) : Bool := 0x083 ≤ ix && ix ≤ 0x086
/-- Registers that user mode may not write (R398). -/
def srWritePriv (ix : Nat) : Bool := ix == 0x040 || ix == 0x046 || ix == 0x060 || ix == 0x080 || ix == 0x081 || srReadPriv ix

/-- The index of rdsr and wrsr (R398). -/
def srIndex (o : OpI) : Nat := o.imm.toNat % 65536

/-- PRIV's sr.EINFO for a special register (R207). -/
def srInfo (opc ix : Nat) : Nat := opc + ix * 256

/-- rdsr (R398). -/
def execRdsr (g : Guard) (o : OpI) (s : State) : Res :=
  scalarOp s g 8 (if srReadPriv (srIndex o) then some (srInfo 0xE0 (srIndex o)) else none) false
    (fun s => s.retireWith 8 (fun t => t.wg o.rd (readSr s (srIndex o))))

/-! ### The fault queue's commands (R178) -/

/-- A park with a TOKEN. -/
def parkedAs (tok : Nat) (p : Option Park) : Bool := match p with | some p => p.token == some tok | none => false

/-- Resolves the parked entry that a TOKEN names on a die (R178): replay or abort; a TOKEN that names none is ignored. -/
def fqResolve (s : State) (d tok : Nat) (abort : Bool) : State :=
  let jobs := ((List.range 32).map (fun k =>
    ((s.clus (d * 32 + k)).jobs.filter (fun j => parkedAs tok j.park)).map (fun j => (d * 32 + k, j)))).flatten
  match jobs with
  | (cl, j) :: _ =>
    if abort then endJob s cl j.unit j.seq { state := 2, cause := (j.park.map (·.cause)).getD 0 }
    else modJob s cl j.unit j.seq (fun j => { j with park := none })
  | [] =>
    let fix := fun (e : GpEntry) =>
      if parkedAs tok e.park then { e with fault := if abort then e.park.map (·.cause) else none, park := none } else e
    { s with cores := tmap (fun q c => if dieOf q == d then { c with gp := c.gp.map fix } else c) s.cores }

/-- FQCMD_REPLAY (R178). -/
def execFqcmdReplay (die : Nat) (token : BitVec 32) (s : State) : Res := .next (fqResolve s die token.toNat false)
/-- FQCMD_ABORT (R178). -/
def execFqcmdAbort (die : Nat) (token : BitVec 32) (s : State) : Res := .next (fqResolve s die token.toNat true)

/-! ### Writing special registers -/

/-- A wrsr to a register, with its privilege check (R398): `f` gets the written value. -/
def srWrite (g : Guard) (o : OpI) (s : State) (f : Word → M PUnit) : Res :=
  scalarOp s g 8 (if srWritePriv (srIndex o) then some (srInfo 0xE1 (srIndex o)) else none) false (work (do
    f ((← me).rg o.ra)
    done 8 id))

/-- A wrsr whose value is illegal for its register raises ILLEGAL before every other cause (R203) but PRIV, which R398 puts first. -/
def srLegal (g : Guard) (o : OpI) (s : State) (ok : Word → Bool) (i : Instr) (r : Res) : Res :=
  if s.me.guardOk g && (s.me.sup || !srWritePriv (srIndex o)) && !ok (s.me.rg o.ra) then .next (trapOf s ⟨cILLEGAL, (firstWord i).toNat⟩) else r

/-- Changes the acting thread in an instruction's work. -/
def setMe (f : Thread → Thread) : M PUnit := modify (fun s => s.modMe f)
/-- Changes the acting thread's die. -/
def setDie' (f : Die → Die) : M PUnit := modify (fun s => s.modDie (dieOf (coreOf s.cur)) f)
/-- Changes the acting thread's core. -/
def setCore' (f : Core → Core) : M PUnit := modify (fun s => s.modCore (coreOf s.cur) f)

/-- wrsr of the registers without a row of their own (R398): masked by their access codes. -/
def execWrsr (g : Guard) (o : OpI) (s : State) : Res :=
  srWrite g o s (fun v =>
    match srIndex o with
    | 0x008 => setMe (fun t => { t with dlcount := v &&& 0xFFFFFFFF })
    | 0x009 => setMe (fun t => { t with rngkey := v })
    | 0x00A => setMe (fun t => { t with rngctr := t.rngctr.extractLsb' 64 64 ++ v })
    | 0x00B => setMe (fun t => { t with rngctr := v ++ t.rngctr.extractLsb' 0 64 })
    | 0x020 => setMe (fun t => { t with epc := v &&& ~~~(3#64) })
    | 0x021 => setMe (fun t => { t with ebt := v &&& ~~~(3#64) })
    | 0x022 => setMe (fun t => { t with ecause := v &&& 0x80000000000000FF })
    | 0x023 => setMe (fun t => { t with einfo := v })
    | 0x024 => setMe (fun t => { t with estat := v &&& 0x1F })
    | 0x025 => setMe (fun t => { t with utvec := v &&& 0x007FFFFFFFFFFFFD })
    | 0x026 => setMe (fun t => { t with umask := v &&& 0x1FFFFFE })
    | 0x080 => setDie' (fun d => { d with spilldly := v &&& 0xFFFFFFFF })
    | 0x081 => setDie' (fun d => { d with gap := v &&& 0x7F })
    | 0x083 => setDie' (fun d => { d with tvec := v &&& 0x007FFFFFFFFFFFFD })
    | 0x085 => setDie' (fun d => { d with fqHead := v.setWidth 32 })
    | 0x086 => modify (fun s => fqResolve s (dieOf (coreOf s.cur)) (v.toNat % 2 ^ 32) (v.getLsbD 63))
    | _ => pure ⟨⟩)

/-- wrsr of sr.STATUS (R254): RM 6 or 7 raises ILLEGAL; MODE is kept. -/
def execStatusWrite (g : Guard) (o : OpI) (s : State) : Res :=
  srLegal g o s (fun v => statusRm v < 6) (.statusWrite g o) (srWrite g o s (fun v =>
    setMe (fun t => { t with status := (v &&& 0x3F03FC) ||| (t.status &&& 1) })))

/-- A receive ring lies within the crew's Loft range and below CTXBASE (R116). -/
def ringOk (s : State) (base size : Nat) : Bool :=
  let sh := myShare s
  size == 0 || (sh.base ≤ base && base + size ≤ sh.base + sh.size && base + size ≤ ctxBase s (coreOf s.cur))

/-- wrsr of sr.RXBASE and sr.RXSIZE (R116). -/
def execRxRingRegWrite (g : Guard) (o : OpI) (s : State) : Res :=
  srWrite g o s (fun v => do
    let s ← get
    let t := s.me
    if srIndex o == 0x010 then
      demand (v.toNat % 64 == 0 && ringOk s (v.toNat % 2 ^ 19) (t.rxsize.toNat % 2 ^ 20)) cADDR v.toNat
      setMe (fun t => { t with rxbase := v &&& 0x7FFC0, rxhead := 0, rxtail := 0 })
    else
      let n := v.toNat % 2 ^ 20
      demand ((n == 0 || ((List.range 10).any (fun i => n == 2 ^ (10 + i)))) && ringOk s (t.rxbase.toNat % 2 ^ 19) n) cADDR v.toNat
      setMe (fun t => { t with rxsize := BitVec.ofNat 64 n, rxhead := 0, rxtail := 0 }))

/-- wrsr of sr.RXHEAD (R116). -/
def execRxheadWrite (g : Guard) (o : OpI) (s : State) : Res :=
  srWrite g o s (fun v => setMe (fun t =>
    let h := v.toNat % 2 ^ 32
    let used := (t.rxtail.toNat + 2 ^ 32 - h) % 2 ^ 32
    { t with rxhead := if used > t.rxsize.toNat % 2 ^ 20 then t.rxtail else BitVec.ofNat 64 h }))

/-- wrsr of sr.LOFTSPLIT (R105): the request; it takes effect by LOFTSPLIT_APPLY. -/
def execLoftsplitWrite (g : Guard) (o : OpI) (s : State) : Res :=
  srWrite g o s (fun v => setCore' (fun c => { c with loftReq := v.toNat % 4 }))

/-- wrsr of sr.WIREGRP and sr.WIRETMO (R121): it waits while a slot of the core waits in wirebar. -/
def execWireRegWrite (g : Guard) (o : OpI) (s : State) : Res :=
  srWrite g o s (fun v => do
    if srIndex o == 0x043 then setCore' (fun c => { c with wireNew := some (v &&& 0xFFFFF) })
    else setCore' (fun c => { c with tmoNew := some (v &&& 0xFFFFFFFF) })
    modify (fun s => wireSettle s (coreOf s.cur)))

/-- wrsr of sr.WALLOW (R160): a value other than 1 to 64 raises ILLEGAL. -/
def execWallowWrite (g : Guard) (o : OpI) (s : State) : Res :=
  srLegal g o s (fun v => 1 ≤ v.toNat % 128 && v.toNat % 128 ≤ 64) (.wallowWrite g o) (srWrite g o s (fun v =>
    setCore' (fun c => { c with wallow := BitVec.ofNat 64 (v.toNat % 128) })))

/-- wrsr of sr.VICGROUP (R106): every pool copy of the cluster goes first. -/
def execVicgroupWrite (g : Guard) (o : OpI) (s : State) : Res :=
  srWrite g o s (fun v => do
    modify (fun s =>
      let cl := clusOf (coreOf s.cur)
      let s := (List.range 8).foldl (fun s c =>
        ((s.core (cl * 8 + c)).l1.filter (fun e => e.2.pool)).foldl (fun s e => l1Drop s (cl * 8 + c) e.1) s) s
      s.modClus cl (fun c => { c with vicgroup := v &&& 0xFF })))

/-- wrsr of sr.FQCFG (R178): ADDR for NLOG above 10 or a queue past 16 MiB. -/
def execFqcfgWrite (g : Guard) (o : OpI) (s : State) : Res :=
  srWrite g o s (fun v => do
    let n := bits v.toNat 35 32
    demand (n ≤ 10 && bits v.toNat 23 5 * 32 + 2 ^ (n + 6) * 32 ≤ 2 ^ 24) cADDR v.toNat
    setDie' (fun d => { d with fqcfg := v &&& 0xFFFF000F00FFFFE0 }))

/-! ### Traps and returns -/

/-- eret (R205, R208, R399). -/
def execEret (g : Guard) (_o : OpR) (s : State) : Res :=
  .next (if s.me.slot != .plain then trapOf s ⟨cSLOT, 0xE2⟩
    else if s.me.guardOk g then issue s (if s.me.estat.getLsbD 0 then some 0xE2 else none) false (fun s => eretOp s 0xE2)
    else s.retire 8)

/-- scall (R399). -/
def execScall (g : Guard) (o : OpI) (s : State) : Res :=
  scalarOp s g 8 none false (fun s => trap s cSWTRAP (o.imm.toNat + 2 ^ 63) 8 true false)

/-- ILLEGAL_INSTRUCTION (R240, R255, R256): a word that is no instruction. -/
def execIllegalInstruction (w : BitVec 32) (s : State) : Res := .next (trapOf s ⟨cILLEGAL, w.toNat⟩)

/-! ### Translation invalidation -/

/-- Drops the translations that `p` names everywhere, and the instruction-cache blocks of the contexts that `c` names (R176, R400). -/
def invalidate (s : State) (p : TlbEntry → Bool) (c : Nat → Bool) : State :=
  let keep := fun (l : List TlbEntry) => l.filter (fun e => !p e)
  let s := { s with cores := tmap (fun _ x => { x with utlb := keep x.utlb }) s.cores }
  let s := { s with clusters := tmap (fun _ x =>
    { x with tlb := keep x.tlb, icache := x.icache.filter (fun e => !c e.ctx) }) s.clusters }
  let s := { s with threads := tmap (fun _ t => if c t.ctx then { t with fbuf := [] } else t) s.threads }
  { s with dies := tmap (fun _ x => { x with tcache := keep x.tcache }) s.dies }

/-- A tlbinv (R400). -/
def tlbinv (g : Guard) (o : OpR) (s : State) (all : Bool) (p : Thread → TlbEntry → Bool) : Res :=
  scalarOp s g 8 (some 0xE4) false (work (do
    let t ← me
    let a := (t.rg o.ra).toNat
    demand (all || a < 256) cADDR a
    releaseSteps .device
    modify (fun s => invalidate s (p t) (fun c => all || c == a))
    done 8 id))

/-- tlbinv.ctx (R400). -/
def execTlbinvCtx (g : Guard) (o : OpR) (s : State) : Res := tlbinv g o s false (fun t e => e.ctx == (t.rg o.ra).toNat)
/-- tlbinv.page (R400). -/
def execTlbinvPage (g : Guard) (o : OpR) (s : State) : Res :=
  tlbinv g o s false (fun t e => tlbHit (t.rg o.ra).toNat (t.rg o.rb).toNat e)
/-- tlbinv.all (R400). -/
def execTlbinvAll (g : Guard) (o : OpR) (s : State) : Res := tlbinv g o s true (fun _ _ => true)

/-! ### Keys -/

/-- A key operation leaves for the management complex (R401). -/
def sendKeyOp (h : Nat) (k : KeyOp) : M PUnit := do
  let s ← get
  let q := coreOf s.cur
  let j ← pick (fun s => nextRef s { ctx := s.me.ctx, unit := 4, cl := q / 8, core := q % 8 })
  modify (fun s => s.modMgmt (fun m => { m with keyOps := m.keyOps ++ [{ k with ref := some j, node := s.me.node }] }))
  done 16 (fun t => t.wh h (.job j))

/-- keyop.load (R401). -/
def execKeyopLoad (g : Guard) (o : OpJ) (s : State) : Res :=
  scalarOp s g 16 (some 0xE5) false (work (do
    awaitHandle ((o.rd.toNat % 16))
    let t ← me
    let bs ← cardBytes o 128 t
    let slot := fld bs 0 2
    demand (zeroFld bs 3 5 && fld bs 2 1 < 16 && zeroFld bs 0x50 48) cADDR (OpJ.addr t o).toNat
    demand (1 ≤ slot && slot ≤ 1023) cADDR slot
    sendKeyOp ((o.rd.toNat % 16)) { load := true, slot := slot, kek := fld bs 2 1, wrapped := BitVec.ofNat 576 (fld bs 8 72) }))

/-- keyop.kill (R401). -/
def execKeyopKill (g : Guard) (o : OpJ) (s : State) : Res :=
  scalarOp s g 16 (some 0xE5) false (work (do
    awaitHandle (o.rd.toNat % 16)
    let slot := o.aux0.toNat % 1024
    demand (slot != 0) cADDR slot
    sendKeyOp (o.rd.toNat % 16) { load := false, slot := slot }))

/-! ### The tensor table -/

/-- Index of a tdesc (R402). -/
def tdescIndex (o : OpJ) : Nat := o.aux0.toNat % 65536

/-- The charged words of a write of `n` bytes within one frame. -/
def frameCharge (pa n : Nat) : List Nat := List.replicate ((n + 31) / 32) (stackOf pa)

/-- tdesc.rd (R402). -/
def execTdescRd (g : Guard) (o : OpJ) (s : State) : Res :=
  scalarOp s g 16 none false (work (do
    let t ← me
    let idx := tdescIndex o
    let _ ← cardBytes o 64 t
    entryIndex idx 1
    let (va, pa, pg) ← entryPlace idx 64 .read
    let e ← homeEvent pa pg va 64 (fun e => pure (e, none))
    acquire .device
    let k := localHome (coreOf (← get).cur) (OpJ.addr t o).toNat
    let a := (OpJ.addr t o).toNat
    pushWrites [{ dst := 0, n := 32, va := a, pl := .loc k }, { dst := 32, n := 32, va := a + 32, pl := .loc (k + 32) }]
      (fun x => (e.drop x.dst).take 32) .own .relaxed .thread 0
    let lay := entLayout e
    done 16 (fun t => t.wg o.rd (BitVec.ofNat 64 (if lay ≤ 1 then fld e 0x34 4 else if lay == 2 then fld e 0x28 4 else 0)))))

/-- tdesc.wr (R402). -/
def execTdescWr (g : Guard) (o : OpJ) (s : State) : Res :=
  scalarOp s g 16 none false (work (do
    let t ← me
    let idx := tdescIndex o
    let r ← cardBytes o 64 t
    demand (entLayout r ≤ 1) cADDR (OpJ.addr t o).toNat
    entryIndex idx 1
    let (va, pa, pg) ← entryPlace idx 64 .write
    if t.prog == 0 then charge (frameCharge pa 64)
    releaseSteps .device
    let v ← homeEvent pa pg va 64 (fun e => do
      let keep := if entLayout e ≤ 1 then (e.drop 0x30).take 8 else List.replicate 8 0
      let new := putBytes r 0x30 keep
      pure (fld new 0x34 4, some new))
    done 16 (fun t => t.wg o.rd (BitVec.ofNat 64 v))))

/-- tdesc.wr2 (R402). -/
def execTdescWr2 (g : Guard) (o : OpJ) (s : State) : Res :=
  scalarOp s g 16 none false (work (do
    let t ← me
    let idx := tdescIndex o
    let r ← cardBytes o 128 t
    demand (entLayout r == 2 && entLayout (r.drop 64) == 3) cADDR (OpJ.addr t o).toNat
    entryIndex idx 2
    let (va, pa, pg) ← entryPlace idx 128 .write
    if t.prog == 0 then charge (frameCharge pa 128)
    releaseSteps .device
    let v ← homeEvent pa pg va 128 (fun e => do
      let keep := if entLayout e == 2 then (e.drop 0x28).take 4 else List.replicate 4 0
      let new := putBytes r 0x28 keep
      pure (fld new 0x28 4, some new))
    done 16 (fun t => t.wg o.rd (BitVec.ofNat 64 v))))

/-- How many scales an entry has (R403). -/
def scaleCount (e : List Byte) : Nat :=
  let n := fun (i : Nat) => fld e (8 + 4 * i) 4
  let up := fun (x d : Nat) => (x + d - 1) / d
  match entSmode e with
  | 1 => up (n 0) 32 * n 1 * n 2 * n 3
  | 2 => up (n 0) 128 * n 1 * n 2 * n 3
  | _ => up (n 0) 128 * up (n 1) 128 * n 2 * n 3

/-- scaleset (R403). -/
def execScaleset (g : Guard) (o : OpR) (s : State) : Res :=
  scalarOp s g 8 none false (work (do
    let t ← me
    let idx := (t.rg o.ra).toNat
    let j := (t.rg o.rb).toNat
    let size := if o.fn == 0 then 4 else 1
    entryIndex idx 1
    let (va, pa, pg) ← entryPlace idx 64 .write
    let e ← homeEvent pa pg va 64 (fun e => pure (e, none))
    let m := entSmode e
    demand (entValid e && m != 0 && (m == 1) == (o.fn == 1)) cHANDLE idx
    demand (j < scaleCount e) cADDR j
    let sva := (fld e 0x28 8 + j * size) % 2 ^ 64
    demand (sva % size == 0) cALIGN sva
    let s ← get
    let (spa, spg) ← act (fun s' => translate s' (coreOf s.cur) t.ctx t.sup sva .write)
    if t.prog == 0 then charge [stackOf spa, stackOf pa]
    releaseSteps .device
    homeEvent spa spg sva size (fun _ => pure ((), some (natToBytes size (t.rg o.rc).toNat)))
    let v ← homeEvent pa pg va 64 (fun e => do
      let v := (fld e 0x30 4 + 1) % 2 ^ 32
      pure (v, some (putBytes e 0x30 (natToBytes 4 v))))
    done 8 (fun t => t.wg o.rd (BitVec.ofNat 64 v))))

/-! ### Pinned windows -/

/-- A window record (R157). -/
def Pin.word (p : Pin) : Word :=
  BitVec.ofNat 64 (p.st * 2 ^ 62 + p.fade % 256 * 2 ^ 54 + p.ctx % 256 * 2 ^ 46 + p.start % 2 ^ 20 * 2 ^ 26 + p.ngran % 2 ^ 20 * 64)

/-- Stack and window of a mscpin (R404). -/
def pinPlace (o : OpJ) : Nat × Nat := (bits o.aux0.toNat 26 24, bits o.aux0.toNat 23 20)

/-- A refusal's record (R404). -/
def pinRefusal (reason : Nat) : Word := BitVec.ofNat 64 (3 * 2 ^ 62 + reason)

/-- A window of another context that user mode may not take (R404). -/
def pinForeign (t : Thread) (p : Pin) : Bool := !t.sup && p.st != 0 && p.ctx != t.ctx

/-- Granules under the LIVE windows of a stack but one (R157). -/
def pinnedBut (k : Stack) (w : Nat) : Nat :=
  ((k.pins.filter (fun e => e.1 != w && e.2.st == 1)).map (·.2.ngran)).foldl (· + ·) 0

/-- mscpin.pin (R158, R404). -/
def execMscpinPin (g : Guard) (o : OpJ) (s : State) : Res :=
  scalarOp s g 16 none false (fun s =>
    let t := s.me
    let (st, w) := pinPlace o
    let k := s.stack st
    let start := bits o.aux0.toNat 19 0
    let n := bits o.aux1.toNat 19 0
    if n == 0 || n > 1536 || start + n > 2 ^ 20 then s.retireWith 16 (fun t => t.wg o.rd (pinRefusal 3))
    else if pinForeign t (tget {} k.pins w) then s.retireWith 16 (fun t => t.wg o.rd (pinRefusal 2))
    else if pinnedBut k w + n > 1536 then s.retireWith 16 (fun t => t.wg o.rd (pinRefusal 1))
    else
      let p : Pin := { st := 1, fade := 255, ctx := t.ctx, start := start, ngran := n }
      let s := s.modStack st (fun k => { k with pins := tset {} k.pins w p })
      s.retireWith 16 (fun t => t.wg o.rd p.word))

/-- mscpin.rel (R404). -/
def execMscpinRel (g : Guard) (o : OpJ) (s : State) : Res :=
  scalarOp s g 16 none false (fun s =>
    let (st, w) := pinPlace o
    let p := tget {} (s.stack st).pins w
    if pinForeign s.me p then s.retireWith 16 (fun t => t.wg o.rd (pinRefusal 2))
    else
      let p := { p with st := 0 }
      let s := s.modStack st (fun k => { k with pins := tset {} k.pins w p })
      s.retireWith 16 (fun t => t.wg o.rd p.word))

/-- mscpin.rd (R404). -/
def execMscpinRd (g : Guard) (o : OpJ) (s : State) : Res :=
  scalarOp s g 16 none false (fun s =>
    let (st, w) := pinPlace o
    s.retireWith 16 (fun t => t.wg o.rd (tget {} (s.stack st).pins w).word))

/-! ### Capabilities -/

/-- The header of a capability entry (R71). -/
def capHeader (next len id : Nat) : Nat := next * 2 ^ 32 + len * 2 ^ 24 + 2 ^ 16 + id

/-- The capability list as 64-bit words (R72, R419). -/
def capList (s : State) : List Nat := [
  capHeader 0x10 2 1, 0x9600 + Config.stepping.toNat * 2 ^ 16 + s.devId.toNat * 2 ^ 24,
  capHeader 0x20 2 2, 16 + 16 * 256 + 32 * 65536,
  capHeader 0x28 1 3,
  capHeader 0x38 2 4, 8 + 4095 * 2 ^ 4 + 8192 * 2 ^ 16 + 32 * 2 ^ 32 + 48 * 2 ^ 40,
  capHeader 0x50 3 5, 1 + 262144 * 2 ^ 8 + 256 * 2 ^ 28 + 2 ^ 20 * 2 ^ 37, 4096,
  capHeader 0x60 2 6, 15,
  capHeader 0 2 7, 2097152 + 6 * 2 ^ 24]

/-- Word at an offset of the capability list; 0 beyond its last entry. -/
def capWord (s : State) (o : Nat) : Word := BitVec.ofNat 64 (((capList s)[o / 8]?).getD 0)

/-- capr (R405). -/
def execCapr (g : Guard) (o : OpI) (s : State) : Res :=
  scalarOp s g 8 none false (work (do
    let a := ((← me).rg o.ra + o.imm.signExtend 64).toNat
    demand (a % 8 == 0) cALIGN a
    demand (a < 0x10000) cADDR a
    let s ← get
    done 8 (fun t => t.wg o.rd (capWord s a))))

end Sys2Proof.Machine
end

