-- ==== Sys2Proof/Machine/Boot.lean ====
section
/-! DEFINITION. The management complex (R33 to R52, R171): reset and boot, keys and their destruction, attestation, temperatures and
wear. A step that is not enabled leaves the state as it is. -/
namespace Sys2Proof.Machine

/-! ### Reset and the boot ROM -/

/-- What a byte of flash that nothing has written reads as. -/
def flashDefault : Byte := 0xFF

/-- Extends measurement register `k` (R35). -/
def measure (s : State) (k : Nat) (x : List Byte) : State :=
  s.modMgmt (fun m =>
    let old := tget 0 m.meas k
    { m with meas := tset 0 m.meas k (BitVec.ofNat 512 (bytesToNat (shake256 (natToBytes 64 old.toNat ++ shake256 x 64) 64))) })

/-- Bytes of an SLH-DSA-SHAKE-256s signature (R34). -/
def sigLen : Nat := 29792
/-- The largest image of a loader slot (R34). -/
def loaderMax : Nat := 16747408

/-- Why an image is refused (R36, R37). -/
inductive ImageBad where
  | magic | size | signature | rollback
  deriving DecidableEq, Repr

/-- Checks an image of a header, `L` bytes and a signature (R34, R36); none when it passes. -/
def checkImage (bs : List Byte) (maxLen fsv : Nat) : Option ImageBad :=
  let len := fld bs 12 4
  if fld bs 0 4 != 0x424C445A then some .magic
  else if len > maxLen then some .size
  else if !slhVerify slh256s Config.fusedKey (bs.take (16 + len)) ((bs.drop (16 + len)).take sigLen) then some .signature
  else if fld bs 8 4 < fsv then some .rollback
  else none

/-- Flash offset of loader slot 1 (A) or 2 (B) (R34). -/
def slotBase (n : Nat) : Nat := (n - 1) * 0x1000000

/-- A byte of flash (R34): the wear samples, the reserved region and the certificate have contents of their own. -/
def flashByte (m : Mgmt) (a : Nat) : Byte :=
  if a < 0x2F00000 then tget flashDefault m.flash a
  else if a < 0x3000000 then Config.wearByte m.samples m.hourly (a - 0x2F00000)
  else if a < 0x3FF0000 then 0xFF
  else Config.certByte (a - 0x3FF0000)

/-- `n` bytes of flash. -/
def flashRead (m : Mgmt) (a n : Nat) : List Byte := (List.range n).map (fun i => flashByte m (a + i))

/-- The bytes of a loader slot: its header, then as much as the header says. -/
def slotImage (m : Mgmt) (n : Nat) : List Byte :=
  let h := flashRead m (slotBase n) 16
  if fld h 0 4 != 0x424C445A || fld h 12 4 > loaderMax then h
  else flashRead m (slotBase n) (16 + fld h 12 4 + sigLen)

/-- The boot ROM's choice of a loader (R36): the first slot that passes, else stage 15 with the management port alone. -/
def romSelect (s : State) : State :=
  let m := s.mgmt
  let r := fun (n : Nat) => checkImage (slotImage m n) loaderMax m.fsv
  let start := fun (n : Nat) =>
    let bs := slotImage m n
    let s := measure s 0 (bs.take (16 + fld bs 12 4))
    s.modMgmt (fun m => { m with slot := n, loaderVer := fld bs 4 4, loaderSv := fld bs 8 4, stepAt := s.clock })
  match r 1, r 2 with
  | none, _ => start 1
  | _, none => start 2
  | a, b =>
    s.modMgmt (fun m => { m with linkUp := true, stage := 15, code := if a == some .rollback || b == some .rollback then 2 else 1, elapsed := some 0 })

/-- Reset (R40, R44): every register and table takes its reset value; flash, fuses, wear samples, DRAM with its metadata and the host's
memory stay. -/
def clearAll (s : State) : State :=
  { mgmt := { flash := s.mgmt.flash, samples := s.mgmt.samples, hourly := s.mgmt.hourly, fsv := s.mgmt.fsv }
    host := { mem := s.host.mem }
    hbms := tmap (fun _ k => { frames := k.frames }) s.hbms
    dram := s.dram
    agenda := s.agenda
    choices := s.choices
    freeCount := s.freeCount }

/-- POWER_ON_RESET (R36, R40). -/
def execPowerOnReset (s : State) : Res := .next (romSelect (clearAll s))

/-- TFTP_LOADER_PUSH (R36): in stage 15 a loader that passes goes to slot B; the module then resets, whether it passed or not. -/
def execTftpLoaderPush (img : List Byte) (s : State) : Res :=
  .next (if s.mgmt.stage != 15 then s
    else
      match checkImage img loaderMax s.mgmt.fsv with
      | some _ => romSelect (clearAll s)
      | none => romSelect (clearAll (s.modMgmt (fun m => { m with
          flash := mwrite flashDefault m.flash (slotBase 2) (img.take (16 + fld img 12 4 + sigLen)) }))))

/-! ### The loader and the runtime -/

/-- Clk in `n` seconds (R16). -/
def seconds (n : Nat) : Nat := n * 2250000000

/-- Milliseconds since reset. -/
def millis (s : State) : Nat := s.clock / 2250000

/-- The boot configuration region (R34). -/
def bootConfig (m : Mgmt) : List Byte := flashRead m 0x2000000 0xF00000

/-- A failure at step 1 (R37): CODE 3, and step 1 again after 10 s. -/
def addressFails (s : State) : State := s.modMgmt (fun m => { m with code := 3, linkUp := false, retryAt := some (s.clock + seconds 10) })

/-- Steps 2 and 3 of the loader (R37): the device id, the boot routes and the ports, those that have been enabled already included; then
STAGE 2. -/
def loaderSteps (s : State) : State :=
  let cfg := bootConfig s.mgmt
  let s := s.modMgmt (fun m => { m with
    linkUp := true
    devId := some (Config.bootDevId cfg)
    routes := (Config.bootRoutes cfg).foldl (fun t e => tset 0 t (e.1 % 65536) e.2) m.routes
    stage := 2
    step := 0
    retryAt := none })
  (List.range 16).foldl (fun s p =>
    if (Config.bootPorts cfg).getLsbD p || (s.port p).en then s.modPort p (fun x => { x with en := true, st := if x.st == 0 then 1 else x.st })
    else s) s

/-- LOADER_RUN (R37): the loader starts, or repeats step 1; `addrOk` tells whether the port trains and it gets an address in time. -/
def execLoaderRun (addrOk : Bool) (s : State) : Res :=
  let m := s.mgmt
  .next (if m.slot != 0 && m.stage ≤ 1 && m.retryAt.isNone then
      let s := s.modMgmt (fun m => { m with stage := 1 })
      if addrOk then loaderSteps s else addressFails s
    else s)

/-- LOADER_ADDRESS_TIMEOUT (R37): 60 s have passed without an address. -/
def execLoaderAddressTimeout (s : State) : Res :=
  .next (if s.mgmt.slot != 0 && s.mgmt.stage ≤ 1 && s.mgmt.retryAt.isNone && s.mgmt.stepAt + seconds 60 ≤ s.clock then
      addressFails (s.modMgmt (fun m => { m with stage := 1 }))
    else s)

/-- A failed fetch or check (R37): the loader starts again at step 4 after 10 s; the eighth one ends it. -/
def fetchFails (s : State) (code : Nat) : State :=
  let s := s.modMgmt (fun m => { m with code := code, fails := m.fails + 1, step := 0, fetched := [] })
  if s.mgmt.fails ≥ 8 then s.modMgmt (fun m => { m with stage := 14, elapsed := some (millis s) })
  else s.modMgmt (fun m => { m with retryAt := some (s.clock + seconds 10) })

/-- Step 5 of the loader (R37) on the fetched images from number `k` on, each with its range's length: each is checked and measured. The
CODE of the first failure, if any. -/
def checkImages (s : State) (k : Nat) : List (List Byte × Nat) → State × Option Nat
  | [] => (s, none)
  | (img, range) :: l =>
    match checkImage img (min range 67108864) s.mgmt.fsv with
    | some .magic => (s, some 5)
    | some .size => (s, some 6)
    | some .signature => (s, some 5)
    | some .rollback => (s, some 2)
    | none => checkImages (measure s k (img.take (16 + fld img 12 4))) (k + 1) l

/-- LOADER_FETCH_COMPLETE (R37): step 4 ends a fetch, of the runtime, the base-die firmware or the port firmware. After the third, steps
5 and 6 follow. -/
def execLoaderFetchComplete (ok : Bool) (img : List Byte) (rangeLen : Nat) (s : State) : Res :=
  let m := s.mgmt
  .next (if m.stage != 2 || m.step ≥ 3 || m.retryAt.isSome then s
    else if !ok then fetchFails s 4
    else
      let got := m.fetched ++ [(img, rangeLen)]
      if m.step < 2 then s.modMgmt (fun m => { m with fetched := got, step := m.step + 1 })
      else
        match checkImages s 1 got with
        | (s, some code) => fetchFails s code
        | (s, none) => (measure s 4 (bootConfig s.mgmt)).modMgmt (fun m => { m with fetched := [], step := 3, code := 0 }))

/-- LOADER_RETRY_TIMER (R37): the 10 s are over. -/
def execLoaderRetryTimer (s : State) : Res :=
  .next (match s.mgmt.retryAt with
    | some t => if t ≤ s.clock then s.modMgmt (fun m => { m with retryAt := none, stepAt := s.clock }) else s
    | none => s)

/-- RUNTIME_BRING_UP (R39, R41, R44): `rnd` is the random key of slot 0 and `seed` that of the boot ML-KEM pair. Budget window 0
begins (R14). -/
def execRuntimeBringUp (trainOk : Bool) (rnd seed : BitVec 512) (s : State) : Res :=
  .next (if s.mgmt.stage != 2 || s.mgmt.step < 3 then s
    else if !trainOk then s.modMgmt (fun m => { m with stage := 3, code := 7 })
    else
      let s := s.modMgmt (fun m => { m with
        stage := 4
        seed := seed
        slots := tset {} m.slots 0 { st := .loaded, key := rnd }
        elapsed := some (millis s) })
      (List.range 8).foldl (fun s st => windowStart s st) { s with windowAt := some s.clock })

/-- FUSE_BLOW (R39): FSV rises to `n`, and no further than the SV of the running loader. -/
def execFuseBlow (n : Nat) (s : State) : Res :=
  .next (if s.mgmt.stage == 4 && s.mgmt.fsv ≤ n && n ≤ min 64 s.mgmt.loaderSv then s.modMgmt (fun m => { m with fsv := n }) else s)

/-- OWNER_STRING_MEASURE (R35). -/
def execOwnerStringMeasure (k : Nat) (str : List Byte) (s : State) : Res :=
  .next (if s.mgmt.stage == 4 && 5 ≤ k && k ≤ 7 then measure s k str else s)

/-! ### Keys -/

/-- KEK_DECAPSULATE (R45): a ciphertext of ML-KEM-1024 has 1,568 bytes. -/
def execKekDecapsulate (reg : Nat) (ct : List Byte) (s : State) : Res :=
  .next (if s.mgmt.stage == 4 && reg < 16 && ct.length == 1568 then
      s.modMgmt (fun m => { m with keks := tset none m.keks reg (some (mlkemDecap m.seed ct)) })
    else s)

/-- The data key in a wrapped one (R45): none when the register is empty, the integrity check fails, or the two halves are equal. -/
def unwrap (m : Mgmt) (reg : Nat) (w : BitVec 576) : Option (BitVec 512) :=
  match tget none m.keks reg with
  | none => none
  | some k =>
    match kwUnwrap k w with
    | none => none
    | some x => if x.extractLsb' 0 256 == x.extractLsb' 256 256 then none else some x

/-- Changes a key slot. -/
def modSlot (s : State) (k : Nat) (f : KeySlot → KeySlot) : State := s.modMgmt (fun m => { m with slots := tmod {} m.slots k f })

/-- A load reaches the management complex (R46): 0 loaded, 1 BADWRAP, 2 BUSY. -/
def keyLoad (s : State) (slot reg : Nat) (w : BitVec 576) : State × Nat :=
  match (tget {} s.mgmt.slots slot).st with
  | .empty =>
    (match unwrap s.mgmt reg w with
     | some k => (modSlot s slot (fun x => { x with st := .loaded, key := k }), 0)
     | none => (s, 1))
  | _ => (s, 2)

/-- A kill reaches the management complex (R46), with the job that awaits it. -/
def keyKill (s : State) (slot : Nat) (ref : Option (JobRef × Nat)) : State :=
  match (tget {} s.mgmt.slots slot).st with
  | .empty => match ref with | some j => settle s j.1 {} | none => s
  | .loaded => modSlot s slot (fun x => { x with st := .killing, step := 1, waits := ref.toList })
  | .killing => modSlot s slot (fun x => { x with waits := x.waits ++ ref.toList })

/-- A slot that software may load and kill (R44). -/
def softSlot (k : Nat) : Bool := 1 ≤ k && k ≤ 1023

/-- MGMT_KEY_LOAD (R46): the port is told the outcome. -/
def execMgmtKeyLoad (slot reg : Nat) (wrapped : BitVec 576) (s : State) : Res :=
  .next (if s.mgmt.stage == 4 && softSlot slot && reg < 16 then
      let (s, r) := keyLoad s slot reg wrapped
      s.modMgmt (fun m => { m with keyAnswers := m.keyAnswers ++ [r] })
    else s)

/-- MGMT_KEY_KILL (R46). -/
def execMgmtKeyKill (slot : Nat) (s : State) : Res := .next (if s.mgmt.stage == 4 && softSlot slot then keyKill s slot none else s)

/-- KEY_OPERATION_ARRIVE (R46, R401): the oldest key operation on its way arrives. -/
def execKeyOperationArrive (s : State) : Res :=
  .next (match s.mgmt.keyOps with
    | [] => s
    | k :: l =>
      let s := s.modMgmt (fun m => { m with keyOps := l })
      if k.load then
        let (s, r) := keyLoad s k.slot k.kek k.wrapped
        match k.ref with
        | some j => settle s j (if r == 0 then {} else { state := 2, cause := cKEYDEAD, info := r })
        | none => s
      else keyKill s k.slot (k.ref.map (fun j => (j, k.node))))

/-- A parked access that needs slot `k` (R172). -/
def parkedUnder (k : Nat) (p : Option Park) : Bool := match p with | some p => p.key == some k | none => false

/-- Step 1 of a kill (R171): translations that name the slot go, and entries parked under it complete KEYDEAD (R172). -/
def killTranslations (s : State) (k : Nat) : State :=
  let s := invalidate s (fun e => bits e.pte.toNat 63 54 == k) (fun _ => false)
  let s := s.clusters.foldl (fun s e => e.2.jobs.foldl (fun s j =>
    if parkedUnder k j.park then endJob s e.1 j.unit j.seq { state := 2, cause := cKEYDEAD } else s) s) s
  { s with cores := tmap (fun _ c => { c with gp := c.gp.map (fun e =>
    if parkedUnder k e.park then { e with fault := some cKEYDEAD, park := none } else e) }) s.cores }

/-- An atomic under slot `k` whose old value a live thread awaits. -/
def returnsUnder (k : Nat) (e : SbEntry) : Bool := !e.loc && !e.fence && e.key == k && e.ret.isSome

/-- Performs the issued reads and returning atomics of threads under a slot, while its data still stands (R172). -/
def settleKey (s : State) (k : Nat) : State :=
  let s := s.cores.foldl (fun s e => e.2.reads.foldl (fun s r =>
    if !r.word.1 && r.key == k then readsWhere s r.th (fun x => x == r) else s) s) s
  let s := s.threads.foldl (fun s e => if e.2.live && e.2.sb.any (returnsUnder k) then drainAll s e.1 else s) s
  let s := s.cores.foldl (fun s e => e.2.sent.foldl (fun s x => if returnsUnder k x.2 then acceptWord s e.1 x.2.word else s) s) s
  nmuDrain (s.cores.foldl (fun s e => if e.2.chute.any (fun w => w.key == k && w.ret.isSome) then chuteFlush s e.1 else s) s)

/-- Issued reads or returning atomics of threads under a slot still wait. -/
def keyAwaited (s : State) (k : Nat) : Bool :=
  s.cores.any (fun e => e.2.reads.any (fun r => !r.word.1 && r.key == k)) || s.threads.any (fun e => e.2.live && e.2.sb.any (returnsUnder k))

/-- Step 2 of a kill: copies tagged with the slot go, dirty or not, and the writes under it that store buffers hold. -/
def killCopies (s : State) (k : Nat) : State :=
  let under := fun (e : SbEntry) => !e.loc && !e.fence && e.key == k
  let s := { s with
    cores := tmap (fun _ c => { c with l1 := c.l1.filter (fun e => e.2.key != k), sent := c.sent.filter (fun x => !under x.2) }) s.cores
    threads := tmap (fun _ t => { t with
      sb := t.sb.filter (fun e => !under e)
      relStage := match t.sb with | e :: _ => if under e then 0 else t.relStage | [] => t.relStage
      fbuf := [] }) s.threads
    clusters := tmap (fun _ c => { c with icache := c.icache.filter (fun e => e.key != k) }) s.clusters }
  let f := fun (d : Die) => { d with
    sets := d.sets.map (fun e => (e.1, layout (e.2.filter (fun x => x.key != k))))
    fills := d.fills.filter (fun x => x.key != k) }
  { s with dies := tmap (fun _ d => f d) s.dies }

/-- Step 3 of a kill: Chute writes and near-memory operations under the slot are discarded. They count as arrived, so that rounds
close. -/
def killWrites (s : State) (k : Nat) : State :=
  let s := (s.cores.map (·.1)).foldl (fun s q =>
    (s.core q).chute.foldl (fun s _ =>
      match (s.core q).chute.findIdx? (fun w => w.key == k) with
      | some i => chutePerformAt s q i
      | none => s) s) s
  { s with hbms := tmap (fun _ x => { x with nmu := x.nmu.filter (fun w => w.key != k) }) s.hbms }

/-- Step 4 of a kill: frames under the slot leave the memory-side caches; dirty ones are rewritten as POISON. -/
def killFrames (s : State) (k : Nat) : State :=
  let dead := fun (pf : Nat) => ({ pf := pf, data := 0, key := 0, cls := 0, poison := true, charged := false } : LaneW)
  let f := fun (x : Stack) => { x with
    msc := (x.msc.map (fun e => (e.1, e.2.filter (fun w => w.key != k)))).filter (fun e => !e.2.isEmpty)
    lane := x.lane.map (fun w => if w.key == k then dead w.pf else w)
      ++ ((x.msc.map (fun e => (e.2.filter (fun w => w.key == k && w.dirty)).map (fun w => dead w.pf))).flatten) }
  { s with hbms := tmap (fun _ x => f x) s.hbms }

/-- KEY_KILL_STEP_COMPLETE (R171): the next step of a slot's destruction ends; the fourth empties the slot. -/
def execKeyKillStepComplete (slot : Nat) (s : State) : Res :=
  let x := tget {} s.mgmt.slots slot
  let next := fun (s : State) => modSlot s slot (fun x => { x with step := x.step + 1 })
  .next (if x.st != .killing then s
    else
      match x.step with
      | 1 => next (killTranslations s slot)
      | 2 =>
        let s := settleKey s slot
        if keyAwaited s slot then s else next (killCopies s slot)
      | 3 => killWrites (next s) slot
      | _ =>
        let s := modSlot (killFrames s slot) slot (fun _ => {})
        x.waits.foldl (fun s j => settle s j.1 {}) s)

/-! ### Attestation -/

/-- BOOTSTAT (R40). -/
def bootstat (s : State) : Nat :=
  (s.mgmt.elapsed.getD (millis s)) % 2 ^ 32 * 2 ^ 32 + s.mgmt.code * 65536 + s.mgmt.slot * 16 + s.mgmt.stage

/-- Bytes 0 to 655 of an attestation report (R42). -/
def reportBody (s : State) (nonce : BitVec 256) : List Byte :=
  natToBytes 8 0x150545441 ++ natToBytes 4 s.devId.toNat ++ natToBytes 4 (bootstat s) ++ natToBytes 32 nonce.toNat
    ++ ((List.range 8).map (fun k => natToBytes 64 (tget 0 s.mgmt.meas k).toNat)).flatten
    ++ natToBytes 4 s.mgmt.loaderVer ++ natToBytes 4 s.mgmt.fsv ++ natToBytes 8 s.clock ++ natToBytes 16 Config.serial.toNat
    ++ shake256 (mlkemPublic s.mgmt.seed) 64

/-- The hub die's identity key (R41). -/
def idKey : SlhKey := { seed := Config.idSeed, prf := Config.idPrf, pkSeed := Config.idPkSeed }

/-- The 64-byte public key that the identity certificate names (R41). -/
def idPublic : BitVec 512 := idKey.public slh256f

/-- A report that BAR 4 has asked for is being signed (R43). -/
def attestBusy (m : Mgmt) : Bool := m.signing.any (·.1)

/-- ATTEST_REQUEST_MGMT (R43). -/
def execAttestRequestMgmt (nonce : BitVec 256) (s : State) : Res :=
  .next (s.modMgmt (fun m => { m with signing := m.signing ++ [(false, nonce)] }))

/-- ATTEST_GO (R43): a write of `v` to the control register. -/
def execAttestGo (v : BitVec 64) (s : State) : Res :=
  .next (if v.getLsbD 0 && !attestBusy s.mgmt then s.modMgmt (fun m => { m with signing := m.signing ++ [(true, m.nonce)] }) else s)

/-- ATTEST_REPORT_SIGNED (R42, R43): the oldest request's report is shown on the path that asked for it, at any stage; before bring-up its
key hash is that of the key pair of seed 0 (DESIGN CHOICE, log 98). -/
def execAttestReportSigned (s : State) : Res :=
  .next (match s.mgmt.signing with
    | [] => s
    | (bar, nonce) :: l =>
      let b := reportBody s nonce
      let r := b ++ slhSign slh256f idKey (Config.signRandom s.freeCount) b
      let s := { s with freeCount := s.freeCount + 1 }
      s.modMgmt (fun m => if bar then { m with signing := l, report := r } else { m with signing := l, mgmtRep := r }))

/-! ### Temperatures -/

/-- Throttle and trip temperature of a sensor in 1/8 °C (R47). -/
def tempLimits (n : Nat) : Int × Int :=
  if n < 4 then (840, 920) else if n == 4 then (800, 880) else (760, 840)

/-- A trip (R16): the compute dies and stacks lose power, and device memory its contents. -/
def tripOff (s : State) : State := { s with powered := false, dram := [], hbms := [], loc := [] }

/-- A sensor's next update is due: 2^20 clk after the last one (R47). -/
def sampleDue (x : Sensor) (now : Nat) : Bool := match x.at_ with | none => true | some t => t + 2 ^ 20 ≤ now

/-- Dispatch under the sensors' temperatures (R16, R47): a sensor at throttle stops it, and it resumes once every sensor is 5 °C below its
throttle temperature; THROT marks the sensors that hold it stopped. -/
def settleDispatch (s : State) : State :=
  let past := fun (e : Nat × Sensor) => decide ((tempLimits e.1).1 ≤ e.2.temp.toInt)
  let near := fun (e : Nat × Sensor) => decide ((tempLimits e.1).1 - 40 < e.2.temp.toInt)
  let stop := s.mgmt.sensors.any past || (!s.dispatch && s.mgmt.sensors.any near)
  { s.modMgmt (fun m => { m with sensors := tmap (fun n x => { x with throt := stop && near (n, x) }) m.sensors }) with dispatch := !stop }

/-- TEMP_SAMPLE (R16, R47). ALERT is set at every update that finds the sensor at throttle (log 100). -/
def execTempSample (n : Nat) (temp : BitVec 16) (s : State) : Res :=
  let (thr, trip) := tempLimits n
  let t := temp.toInt
  .next (if n > 12 || !sampleDue (tget {} s.mgmt.sensors n) s.clock then s
    else
      let s := s.modMgmt (fun m => { m with sensors := tmod {} m.sensors n (fun x =>
        { x with temp := temp, alert := x.alert || thr ≤ t, at_ := some s.clock }) })
      let s := settleDispatch s
      if trip ≤ t then tripOff s else s)

/-! ### Wear -/

/-- W at end of life of an indicator (R48). -/
def wearEol (n : Nat) : Nat := if n < 256 then 80000 else if n < 264 then 1048576 else if n < 272 then 750000 else 500000

/-- LIFE from the hourly samples, oldest first, the last one being INDEX (R49). -/
def wearLife (l : List Nat) (index : Nat) : Nat :=
  let n : Int := l.length
  let xy := l.zipIdx
  let sx : Int := (xy.map (fun e => (e.2 : Int))).foldl (· + ·) 0
  let sy : Int := (xy.map (fun e => (e.1 : Int))).foldl (· + ·) 0
  let sxy : Int := (xy.map (fun e => (e.1 : Int) * e.2)).foldl (· + ·) 0
  let sxx : Int := (xy.map (fun e => (e.2 : Int) * e.2)).foldl (· + ·) 0
  let num := n * sxy - sx * sy
  let den := n * sxx - sx * sx
  if l.length < 24 || num ≤ 0 then 0xFFFFFFFF else min 0xFFFFFFFE (((65535 - index : Int) * den) / num).toNat

/-- One record's update (R49). -/
def wearUpdate (s : State) (n : Nat) (w : Int) : State :=
  s.modMgmt (fun m =>
    let index := min 65535 (65535 * (max w 0).toNat / wearEol n)
    let l := (tget [] m.samples n) ++ [index]
    let l := l.drop (l.length - 720)
    { m with
      samples := tset [] m.samples n l
      wear := tmod {} m.wear n (fun r => { r with
        raw := BitVec.ofInt 64 w
        index := index
        life := wearLife l index
        seq := r.seq + 2
        flagW := r.flagW || index ≥ r.warn
        flagC := r.flagC || index ≥ r.crit
        time := BitVec.ofNat 64 s.clock }) })

/-- Clk in an hour of uptime. -/
def hourClk : Nat := seconds 3600

/-- WEAR_HOURLY_UPDATE (R48 to R52): once in the first 10 s of an hour of uptime. `w` are the readings of the 288 indicators; a stack's corrected frames are its own count. -/
def execWearHourlyUpdate (w : List Int) (s : State) : Res :=
  let hour := fun (s : State) (k : Nat) =>
    let l := tget [] s.mgmt.hourly k ++ [(s.stack k).corrected]
    let s := s.modMgmt (fun m => { m with hourly := tset [] m.hourly k (l.drop (l.length - 720)) })
    s.modStack k (fun x => { x with corrected := 0 })
  let h := s.clock / hourClk
  let due := s.clock % hourClk < seconds 10 && s.mgmt.wearHour != some h
  let s0 := s
  let s := (List.range 8).foldl hour (s.modMgmt (fun m => { m with wearHour := some h }))
  let s := (List.range 288).foldl (fun s n =>
    wearUpdate s n (if 256 ≤ n && n < 264 then (((tget [] s.mgmt.hourly (n - 256)).foldl (· + ·) 0 : Nat) : Int) else (w[n]?).getD 0)) s
  let newly := fun (f : Wear → Bool) => (List.range 288).any (fun n => f (tget {} s.mgmt.wear n) && !f (tget {} s0.mgmt.wear n))
  let a := newly (·.flagW)
  let b := newly (·.flagC)
  .next (if !due then s0
    else if a || b then s.modMgmt (fun m => { m with
      events := m.events + 1
      health := m.health % 2 + m.health / 2 % 2 * 2 + (if a && m.health % 2 == 0 then 1 else 0) + (if b && m.health / 2 % 2 == 0 then 2 else 0) })
    else s)

end Sys2Proof.Machine
end

