-- ==== Sys2Proof/Machine/Control.lean ====
section
/-! DEFINITION. Control transfer, the loop-nest sequencer and thread control (R281 to R290, R100). -/
namespace Sys2Proof.Machine

/-- A direct branch (R281, R282): whether it is taken, and its own register writes. -/
def condBranch (g : Guard) (o : OpB) (s : State) (opc : Nat) (taken : Thread → Bool) (f : Thread → Thread) : Res :=
  branchOp s g opc (fun s => s.branch (if taken s.me then some (OpB.target s.me.pc o) else none) f)

/-- br (R282). -/
def execBr (g : Guard) (o : OpB) (s : State) : Res :=
  condBranch g o s 0x30 (fun t => brCond o.cond.toNat (t.rg o.ra) (t.rg o.rb)) id
/-- bri (R282). -/
def execBri (g : Guard) (o : OpB) (s : State) : Res :=
  condBranch g o s 0x31 (fun t => brCond o.cond.toNat (t.rg o.ra) (o.rb.signExtend 64)) id

/-- The conditions of brp (R282). -/
def predCond (c : Nat) (p : Word) : Bool :=
  match c with
  | 0 => p.getLsbD 0
  | 1 => !p.getLsbD 0
  | 2 => p != 0
  | 3 => p == 0
  | 4 => p == BitVec.allOnes 64
  | _ => p != BitVec.allOnes 64

/-- brp (R282). -/
def execBrp (g : Guard) (o : OpB) (s : State) : Res := condBranch g o s 0x32 (fun t => predCond o.cond.toNat (t.rp o.ra.toNat)) id
/-- jmp (R282). -/
def execJmp (g : Guard) (o : OpB) (s : State) : Res := condBranch g o s 0x33 (fun _ => true) id

/-- The return address of a branch of the acting thread (R281). -/
def linkAddr (s : State) : State × Word :=
  returnAddr s (coreOf s.cur) s.me.ctx s.me.sup (s.me.pc + 8).toNat

/-- call (R282). -/
def execCall (g : Guard) (o : OpB) (s : State) : Res :=
  branchOp s g 0x34 (fun s =>
    let (s, a) := linkAddr s
    s.branch (some (OpB.target s.me.pc o)) (fun t => t.wg 30 a))

/-- A branch to a register's address (R283): ALIGN in the branch when it is misaligned. -/
def regBranch (g : Guard) (s : State) (opc : Nat) (target : Thread → Word) (k : State → State) : Res :=
  branchOp s g opc (fun s => if target s.me &&& 3 != 0 then trapOf s ⟨cALIGN, (target s.me).toNat⟩ else k s)

/-- jr (R283). -/
def execJr (g : Guard) (o : OpR) (s : State) : Res :=
  regBranch g s 0x35 (fun t => t.rg o.ra) (fun s =>
    let tgt := s.me.rg o.ra
    if o.fn == 1 then
      let (s, a) := linkAddr s
      s.branch (some tgt) (fun t => t.wg o.rd a)
    else s.branch (some tgt) id)
/-- ret (R283). -/
def execRet (g : Guard) (_o : OpR) (s : State) : Res :=
  regBranch g s 0x36 (fun t => t.rg 30) (fun s => s.branch (some (s.me.rg 30)) id)
/-- loop (R284). -/
def execLoop (g : Guard) (o : OpB) (s : State) : Res :=
  condBranch g o s 0x37 (fun t => t.rg o.ra - 1 != 0) (fun t => t.wg o.ra (t.rg o.ra - 1))

/-- lnest (R285). -/
def execLnest (g : Guard) (o : OpI) (s : State) : Res :=
  scalarOp s g 8 none false (work (do
    let r := (← me).rg o.ra + o.imm.signExtend 64
    let bs ← recordBytes r 64 64
    match parseShape bs with
    | none => raise cADDR r.toNat
    | some x =>
      let base ← match x.tile with
        | some n => do let e ← tileUse n; pure (0xFF00000000000000 + e.base * 64)
        | none => pure x.base
      let active := !x.n.contains 0
      done 8 (fun t => { t with nest := { base := BitVec.ofNat 64 base, n := x.n, i := [0, 0, 0, 0], s := x.st.drop 1, active := active,
                                          esize := esize x.ty } }.wg o.rd (if active then BitVec.ofNat 64 base else 0))))

/-- One advance of a nest's indices, innermost first (R286): the new indices and whether a tuple is left. -/
def nestStep : List Nat → List Nat → List Nat × Bool
  | n :: ns, i :: l =>
    if i + 1 < n then ((i + 1) :: l, true)
    else let (r, ok) := nestStep ns l; (0 :: r, ok)
  | _, _ => ([], false)

/-- Address of a nest's current element (R286). -/
def Nest.addr (n : Nest) : Word :=
  n.base + BitVec.ofNat 64 ((List.zipWith (· * ·) (1 :: n.s) n.i).foldl (· + ·) 0 * n.esize)

/-- The packed indices that lnext writes (R286). -/
def Nest.packed (n : Nest) : Word := BitVec.ofNat 64 (n.i.foldr (fun i acc => i % 65536 + 65536 * acc) 0)

/-- A nest after one advance, and whether lnext is taken (R286). -/
def Nest.advance (n : Nest) : Nest × Bool := let (i, ok) := nestStep n.n n.i; ({ n with i := i, active := ok }, ok)

/-- lnext (R286). -/
def execLnext (g : Guard) (o : OpB) (s : State) : Res :=
  condBranch g o s 0x39 (fun t => t.nest.active && t.nest.advance.2)
    (fun t =>
      if t.nest.active then
        let n := t.nest.advance.1
        let t := { t with nest := n }.wg o.ra n.addr
        if o.rb == 0 then t else t.wg o.rb n.packed
      else t)

/-- A thread that R100 lets a held crew mate count as settled: held at a regroup at the same address, blocked, or gone. -/
def regroupSettled (pc : Word) (t : Thread) : Bool :=
  t.st != .running || (t.regroup.isSome && t.pc == pc) || (t.waits && t.regroup.isNone)

/-- The other threads of the acting thread's crew on its cluster. -/
def clusterMates (s : State) : List Nat :=
  (s.node s.me.node).crew.filter (fun th => th != s.cur && (s.th th).node == s.me.node && clusOf (coreOf th) == clusOf (coreOf s.cur))

/-- regroup (R100): a hint. `prog` 1 marks a thread that the first condition has released. -/
def execRegroup (g : Guard) (_o : OpR) (s : State) : Res :=
  scalarOp s g 8 none true (fun s =>
    let t := s.me
    let leave := fun (s : State) => s.retireWith 8 (fun t => { t with regroup := none })
    match t.regroup with
    | none => (s.modMe (fun t => { t with regroup := some s.clock })).wait
    | some since =>
      if t.prog == 1 || since + 512 ≤ s.clock then leave s
      else
        let mates := clusterMates s
        if mates.all (fun th => regroupSettled t.pc (s.th th)) then
          leave (mates.foldl (fun s th => s.modTh th (fun x =>
            if x.regroup.isSome && x.pc == t.pc then { x with prog := 1 } else x)) s)
        else s.wait)

/-- yield (R288). -/
def execYield (g : Guard) (_o : OpR) (s : State) : Res :=
  scalarOp s g 8 none true (fun s => s.retireWith 8 (fun t => { t with yieldTo := some (s.clock + 4) }))

/-- exit (R289). -/
def execExit (g : Guard) (_o : OpR) (s : State) : Res :=
  scalarOp s g 8 none true (work (do
    releaseSteps .device
    modify (fun s => { threadEnds s s.cur with blocked := false })))

/-- trap (R290). -/
def execTrap (g : Guard) (o : OpI) (s : State) : Res :=
  scalarOp s g 8 none false (fun s => trap s cSWTRAP o.imm.toNat 8 false false)
/-- brk (R290). -/
def execBrk (g : Guard) (o : OpI) (s : State) : Res :=
  scalarOp s g 8 none false (fun s => trap s cBRK o.imm.toNat 8 false false)

end Sys2Proof.Machine
end

