-- ==== Sys2Proof/Machine/Future.lean ====
section
/-! DEFINITION. The future instructions, spawn and prio (R388 to R396). -/
namespace Sys2Proof.Machine

/-- The handle number of a register field. -/
def hNum (r : BitVec 5) : Nat := r.toNat % 16

/-- An observed end acquires at device scope when the job is done or faulted (R195, R392). -/
def observe (x : Handle) : M PUnit := do
  match x with
  | .settled r => if r.state == 1 || r.state == 2 then acquire .device
  | _ => pure ⟨⟩

/-- hwait and hwait.t (R392, R210). -/
def execHwait (g : Guard) (o : OpR) (s : State) : Res :=
  scalarOp s g 8 none false (work (do
    let t ← me
    let h := hNum o.ra
    let x := t.rh h
    if x.pending then
      demand t.pkt.isNone cPKTOPEN 1
      awaitHandle h
    demand (x != .empty) cHANDLE h
    observe x
    match x with
    | .settled r =>
      if o.fn == 1 && r.state == 2 && !t.resWait then
        modify (fun s => trap s r.cause (h + r.info * 256 % 2 ^ 64) 8 false true)
      else done 8 (fun t => t.wg o.rd r.word)
    | _ => pure ⟨⟩))

/-- htest (R391, R392). -/
def execHtest (g : Guard) (o : OpR) (s : State) : Res :=
  scalarOp s g 8 none false (work (do
    let x := (← me).rh (hNum o.ra)
    observe x
    done 8 (fun t => t.wp o.rd.toNat (if x.isSettled then BitVec.allOnes 64 else 0))))

/-- hstat (R391, R392). -/
def execHstat (g : Guard) (o : OpR) (s : State) : Res :=
  scalarOp s g 8 none false (work (do
    let x := (← me).rh (hNum o.ra)
    observe x
    done 8 (fun t => t.wg o.rd x.status)))

/-- Cancels what a handle names (R394): whether this instruction did. -/
def cancelHandle (s : State) (x : Handle) : State × Bool :=
  match x with
  | .job j => if j.unit < 3 then cancelJob s j.cl j.unit j.seq else (s, false)
  | .node n => cancelNode s n
  | _ => (s, false)

/-- hcancel (R394). -/
def execHcancel (g : Guard) (o : OpR) (s : State) : Res :=
  scalarOp s g 8 none false (fun s =>
    let (s, b) := cancelHandle s (s.me.rh (hNum o.ra))
    s.retireWith 8 (fun t => t.wg o.rd (if b then 1 else 0)))

/-- hmov.tok (R390, R391). -/
def execHmovTok (g : Guard) (o : OpR) (s : State) : Res :=
  scalarOp s g 8 none false (fun s => s.retireWith 8 (fun t => t.wg o.rd (t.rh (hNum o.ra)).token))

/-- hmov.h (R393). -/
def execHmovH (g : Guard) (o : OpR) (s : State) : Res :=
  scalarOp s g 8 none false (work (do
    awaitHandle (hNum o.rd)
    let t ← me
    match handleOfToken (← get) t.ctx (t.rg o.ra) with
    | some x => done 8 (fun t => t.wh (hNum o.rd) x)
    | none => raise cHANDLE (hNum o.rd)))

/-- hmov.clr (R391). -/
def execHmovClr (g : Guard) (o : OpR) (s : State) : Res :=
  scalarOp s g 8 none false (fun s => s.retireWith 8 (fun t => t.wh (hNum o.rd) .empty))

/-- The one step of the pool that a spawn takes (R395): the handle it leaves. -/
def spawnStep (s : State) (ctx : Nat) (bs : List Byte) : State × Handle :=
  let code := poolCode s ctx bs true true
  if code != 0 then (s, .settled { state := 2, cause := cHANDLE, info := code })
  else
    let (s, id) := acceptNode s ctx bs true
    (s, if (s.node id).st.ended then .settled (s.node id).settled else .node id)

/-- spawn (R395). -/
def execSpawn (g : Guard) (o : OpJ) (s : State) : Res :=
  scalarOp s g 16 none false (work (do
    awaitHandle (hNum o.rd)
    let t ← me
    let bs ← cardBytes o 256 t
    releaseSteps .device
    let x ← pick (fun s => spawnStep s t.ctx bs)
    done 16 (fun t => t.wh (hNum o.rd) x)))

/-- prio.self and prio.h (R396). -/
def execPrio (g : Guard) (o : OpR) (s : State) : Res :=
  scalarOp s g 8 none false (work (do
    let t ← me
    let set := fun (id : Nat) => do
      let s ← get
      let n := s.node id
      if !nodeKept s id || n.st.ended then done 8 (fun t => t.wg o.rd (BitVec.allOnes 64))
      else
        modify (fun s => s.modNode id (fun n => { n with prio := min (t.rg o.ra).toNat (s.ctx (ctxOf id)).ceil }))
        done 8 (fun t => t.wg o.rd (BitVec.ofNat 64 n.prio))
    if o.fn == 0 then set t.node
    else
      match t.rh (hNum o.rb) with
      | .node id => set id
      | .settled r => if r.node then done 8 (fun t => t.wg o.rd (BitVec.allOnes 64)) else raise cHANDLE (hNum o.rb)
      | _ => raise cHANDLE (hNum o.rb)))

end Sys2Proof.Machine
end

