-- ==== Sys2Proof/Machine/Intake.lean ====
section
/-! DEFINITION. The host port (R53 to R66): the window onto device memory, the intake windows, the control blocks and the registers of
BAR 0 and BAR 4, and the budgets' windows and grants (R161), the host's among them. -/
namespace Sys2Proof.Machine

/-! ### Grants -/

/-- The number that stands for the host port where a core is named. -/
def hostCore : Nat := 1024

/-- The host port asks a home for a grant (R54, R161). -/
def hostAsk (s : State) (ctx st : Nat) : State × Nat :=
  let r := tget 0 (s.stack st).remain ctx
  let g := min 256 r
  let s := s.modStack st (fun k => { k with remain := tset 0 k.remain ctx (r - g) })
  (s.modHost (fun h => { h with grants := tmod 0 h.grants (ctx * 8 + st) (· + g) }), g)

/-- Charges `n` words of a host write (R54): false while the grant does not cover them. -/
def hostCharge (s : State) (ctx st n : Nat) : State × Bool :=
  if !budgetsRun s then (s, true)
  else
    let s := windowCatch s st
    let s := if tget 0 s.host.grants (ctx * 8 + st) < 128 then (hostAsk s ctx st).1 else s
    if tget 0 s.host.grants (ctx * 8 + st) < n then (s, false)
    else (s.modHost (fun h => { h with grants := tmod 0 h.grants (ctx * 8 + st) (· - n) }), true)

/-! ### The window of BAR 2 -/

/-- Counts a malformed or refused access (R53). -/
def hostError (s : State) : State := s.modHost (fun h => { h with errors := h.errors + 1 })

/-- The host's read is answered. -/
def hostAnswer (s : State) (bs : List Byte) : State := s.modHost (fun h => { h with answers := h.answers ++ [bs] })

/-- EN and CTX of the window (R54). -/
def winEn (h : HostPort) : Bool := h.winCtl.getLsbD 63
/-- Context that translates the window. -/
def winCtx (h : HostPort) : Nat := h.winCtl.toNat % 256

/-- The device virtual address of an offset (R54). -/
def winAddr (h : HostPort) (x : Nat) : Nat := bits h.winCtl.toNat 54 30 * 2 ^ 30 / 2 ^ h.barLog * 2 ^ h.barLog + x

/-- Translation for the window: the checks of a supervisor access (R54); none without the stacks (R16). -/
def hostTranslate (s : State) (va : Nat) (wr : Bool) : State × Option (Nat × Page) :=
  let c := winCtx s.host
  if !s.powered || !winEn s.host || !(s.ctx c).en || va ≥ 2 ^ 55 then (s, none)
  else
    match walk s c va (bits (s.ctx c).ptroot.toNat 39 16 * 65536) 3 with
    | (s, .error _) => (s, none)
    | (s, .ok (pte, big)) =>
      let p := pte.toNat
      match pteAllow s p true (if wr then .write else .read) va with
      | .error _ => (s, none)
      | .ok _ =>
        let pa := if big then bits p 39 29 * 2 ^ 29 + va % 2 ^ 29 else bits p 39 16 * 65536 + va % 65536
        (s, some (pa, { ctx := c, key := bits p 63 54, cls := bits p 53 52, ms := bit p 50, fnc := bit p 51 }))

/-- Translates every piece of an access; none when one fails: the access then fails as a whole (DESIGN CHOICE, log 102). -/
def hostPlaces (s : State) (wr : Bool) : List (Nat × Nat) → State × Option (List (Nat × Nat × Nat × Page))
  | [] => (s, some [])
  | (v, m) :: l =>
    match hostTranslate s v wr with
    | (s, none) => (s, none)
    | (s, some (pa, pg)) =>
      match hostPlaces s wr l with
      | (s, some r) => (s, some ((v, m, pa, pg) :: r))
      | (s, none) => (s, none)

/-- `n` bytes of free values. -/
def freeBytes (s : State) : Nat → State × List Byte
  | 0 => (s, [])
  | n + 1 =>
    let (s, w) := free s
    let (s, l) := freeBytes s n
    (s, w.setWidth 8 :: l)

/-- A host read of the window (R54, R59): served at the homes; a POISON frame gives free values. -/
def hostRead (s : State) (x n : Nat) : State :=
  match hostPlaces s false (wordPieces (winAddr s.host x) n) with
  | (s, none) => hostAnswer (hostError s) (List.replicate n 0xFF)
  | (s, some l) =>
    let (s, bs) := l.foldl (fun (acc : State × List Byte) e =>
      let (_, m, pa, pg) := e
      match homeRead acc.1 pa m pg.ctx pg.key pg.cls with
      | (s, some b) => (s, acc.2 ++ b)
      | (s, none) => let (s, b) := freeBytes s m; (s, acc.2 ++ b)) (s, [])
    hostAnswer s bs

/-- Performs a piece of a host write (R54, R59): a whole frame at once where the grant covers it (log 106), else word by word until one
waits for budget. With it, the bytes performed. -/
def hostPiece (s : State) (data : List Byte) (m pa : Nat) (pg : Page) : State × Nat :=
  let put := fun (s : State) (a : Nat) (bs : List Byte) => homeWrite s a (bs.map some) pg.ctx pg.key pg.cls true
  match if 32 < m then hostCharge s pg.ctx (stackOf pa) 16 else (s, false) with
  | (s, true) => (put s pa (data.take m), m)
  | (s, false) =>
    (wordPieces pa m).foldl (fun (s, k) (a, n) =>
      if k != a - pa then (s, k)
      else
        match hostCharge s pg.ctx (stackOf pa) 1 with
        | (s, false) => (s, k)
        | (s, true) => (put s a ((data.drop k).take n), k + n)) (s, 0)

/-- Performs the pieces of a host write in order, until one waits for budget: the bytes that wait. -/
def hostWords (s : State) (data : List Byte) : List (Nat × Nat × Nat × Page) → State × List Byte
  | [] => (s, [])
  | (_, m, pa, pg) :: l =>
    match hostPiece s data m pa pg with
    | (s, k) => if k < m then (s, data.drop k) else hostWords s (data.drop m) l

/-- A host write of the window (R54): the part of it that stalls, if any. -/
def hostWrite (s : State) (x : Nat) (data : List Byte) : State × Option HostAcc :=
  match hostPlaces s true (outPieces (winAddr s.host x) data.length) with
  | (s, none) => (hostError s, none)
  | (s, some l) =>
    match hostWords s data l with
    | (s, []) => (s, none)
    | (s, rest) => (s, some (.write (x + data.length - rest.length) rest))

/-! ### Intake windows -/

/-- Window of a context. -/
def intakeOf (s : State) (c : Nat) : Intake := tget {} s.host.windows c
/-- Changes a window. -/
def modIntake (s : State) (c : Nat) (f : Intake → Intake) : State := s.modHost (fun h => { h with windows := tmod {} h.windows c f })

/-- Granules of which a write covers all eight bytes (R55). -/
def granules (off n : Nat) : BitVec 32 :=
  (List.range 32).foldl (fun a i => if off ≤ 8 * i && 8 * i + 8 ≤ off + n then a ||| (1#32 <<< i) else a) 0

/-- A seal attempt's step (R56). -/
def sealStep (s : State) (c off n : Nat) : State :=
  let w := intakeOf s c
  let bs := mread 0 w.area 0 256
  let code := if s.mgmt.stage != 4 then 3
    else poolCode s c bs (w.marks &&& 0x7FFFFFFF == 0x7FFFFFFF) (off == 0xF8 && n == 8)
  let s := if code == 0 then (acceptNode s c bs false).1 else s
  modIntake s c (fun w => { w with
    marks := 0
    status := BitVec.ofNat 64 (fld bs 0xF8 4 * 2 ^ 32 + code * 256 + (if code == 0 then 1 else 2)) })

/-- A write to a window's record area (R55, R56): one that touches the seal granule is a seal attempt, with the length that the write has,
also where it runs past the area. -/
def areaWrite (s : State) (c off : Nat) (data : List Byte) : State :=
  let len := data.length
  let data := data.take (256 - off)
  let s := modIntake s c (fun w => { w with area := mwrite 0 w.area off data, marks := w.marks ||| granules off data.length })
  if off + data.length > 0xF8 && data.length != 0 then sealStep s c off len else s

/-! ### Control blocks -/

/-- EN has gone from 1 to 0 (R66): the WAITING and READY nodes of the context are cancelled. -/
def disableNodes (s : State) (c : Nat) : State :=
  (s.nodes.filter (fun e => ctxOf e.1 == c && (e.2.st == .waiting || e.2.st == .ready))).foldl (fun s e => (cancelNode s e.1).1) s

/-- A write to a context's CTL (R64, R66). -/
def ctlWrite (s : State) (c : Nat) (v : Word) : State :=
  let was := (s.ctx c).en
  let s := s.modCtx c (fun x => { x with ctl := v &&& 0x0000FFFFFFFF3F01 })
  if was && !(s.ctx c).en then disableNodes s c else s

/-- A register of a control block (R64). -/
def ctxReg (s : State) (c o : Nat) : Word :=
  let x := s.ctx c
  match o with
  | 0x00 => x.ctl
  | 0x08 => x.ptroot
  | 0x10 => x.ttbase
  | 0x18 => x.ttcount
  | 0x20 => x.spillbase
  | 0x28 => x.dlbase
  | 0x30 => x.dlsize
  | 0x80 => BitVec.ofNat 64 (liveOf s c)
  | _ => if 0x40 ≤ o && o < 0x80 then tget 0 x.budget ((o - 0x40) / 8) else 0

/-- A write to a register of a control block (R64, R65); the ignored bits of PTROOT and BUDGET are not kept (R5). A BUDGET takes effect at
its stack's next window: one that has begun already starts with the old value. -/
def ctxRegWrite (s : State) (c o : Nat) (v : Word) : State :=
  let table := fun (f : Ctx → Ctx) => if (s.ctx c).en then hostError s else s.modCtx c f
  match o with
  | 0x00 => ctlWrite s c v
  | 0x08 => table (fun x => { x with ptroot := v &&& 0xFFFFFF0000 })
  | 0x10 => table (fun x => { x with ttbase := v })
  | 0x18 => table (fun x => { x with ttcount := v })
  | 0x20 => table (fun x => { x with spillbase := v })
  | 0x28 => table (fun x => { x with dlbase := v })
  | 0x30 => table (fun x => { x with dlsize := v })
  | _ =>
    if 0x40 ≤ o && o < 0x80 then
      let st := (o - 0x40) / 8
      (windowCatch s st).modCtx c (fun x => { x with budget := tset 0 x.budget st (v &&& 0xFFFFFFFF) })
    else s

/-! ### Registers of BAR 0 and BAR 4 -/

/-- A port's register (R20). -/
def portReg (x : Port) (o : Nat) : Word :=
  match o with
  | 0 => BitVec.ofNat 64 (x.laneok.toNat * 16 + b2n x.half * 8 + x.st)
  | 8 => BitVec.ofNat 64 (b2n x.en)
  | _ => if o < 0x40 then tget 0 x.cnt (o / 8 - 2) else 0

/-- A sensor's register (R47). -/
def sensorReg (x : Sensor) : Word := BitVec.ofNat 64 (b2n x.alert * 2 ^ 17 + b2n x.throt * 65536 + x.temp.toNat)

/-- Word `i` of a wear record (R50). -/
def wearReg (r : Wear) (i : Nat) : Word :=
  match i with
  | 0 => r.raw
  | 1 => BitVec.ofNat 64 (r.life * 2 ^ 32 + r.seq.toNat * 65536 + r.index)
  | 2 => BitVec.ofNat 64 (b2n r.flagC * 2 ^ 33 + b2n r.flagW * 2 ^ 32 + r.crit % 65536 * 65536 + r.warn % 65536)
  | _ => r.time

/-- The 8-byte register at an offset of BAR 0 (R53, R57). -/
def bar0Reg (s : State) (off : Nat) : Word :=
  if off < 0x100000 then
    match off % 0x1000 with
    | 0x100 => (intakeOf s (off / 0x1000)).status
    | 0x108 => BitVec.ofNat 64 (lastNodeOf s (off / 0x1000))
    | _ => 0
  else if off < 0x200000 then ctxReg s ((off - 0x100000) / 0x1000) (off % 0x1000)
  else if off == 0x200000 then s.host.winCtl
  else if off == 0x200008 then s.host.errors
  else 0

/-- The 8-byte register at an offset of BAR 4 (R53). The nonce reads back as written (DESIGN CHOICE, log 94). -/
def bar4Reg (s : State) (off : Nat) : Word :=
  let m := s.mgmt
  if off == 0x100 then BitVec.ofNat 64 (bootstat s)
  else if 0x200 ≤ off && off < 0x268 then sensorReg (tget {} m.sensors ((off - 0x200) / 8))
  else if 0x400 ≤ off && off < 0x420 then m.nonce.extractLsb' (8 * (off - 0x400)) 64
  else if off == 0x440 then BitVec.ofNat 64 (2 * b2n (attestBusy m))
  else if 0x1000 ≤ off && off < 0x1400 then portReg (s.port ((off - 0x1000) / 0x40)) (off % 0x40)
  else if off == 0x3000 then BitVec.ofNat 64 m.health
  else if 0x4000 ≤ off && off < 0x6400 then wearReg (tget {} m.wear ((off - 0x4000) / 32)) (off % 32 / 8)
  else if 0x10000 ≤ off && off < 0x1C550 then
    if attestBusy m then 0 else BitVec.ofNat 64 (bytesToNat ((m.report.drop (off - 0x10000)).take 8))
  else if 0x20000 ≤ off && off < 0x30000 then capWord s (off - 0x20000)
  else 0

/-- The 8-byte register at an offset of a BAR. -/
def hostReg (s : State) (bar off : Nat) : Word := if bar == 0 then bar0Reg s off else bar4Reg s off

/-- A register access is naturally aligned and no wider than 8 bytes (R53). -/
def regOk (off size : Nat) : Bool := (size == 1 || size == 2 || size == 4 || size == 8) && off % size == 0

/-- An access lies in the record area of an intake window (R55). -/
def inRecord (bar off size : Nat) : Bool := bar == 0 && off < 0x100000 && off % 0x1000 < 0x100 && off % 0x1000 + size ≤ 0x100

/-- A host read of a register (R53): the record area reads as zero at any size (R55). A misaligned or wide access is malformed also where
it meets no register (DESIGN CHOICE, log 99). -/
def regRead (s : State) (bar off size : Nat) : State :=
  if inRecord bar off size then hostAnswer s (List.replicate size 0)
  else if regOk off size then hostAnswer s (((natToBytes 8 (hostReg s bar (off / 8 * 8)).toNat).drop (off % 8)).take size)
  else hostAnswer (hostError s) (List.replicate size 0xFF)

/-- A write to a port's control register (R20). -/
def portCtl (s : State) (p : Nat) (v : Word) (retrain : Bool) : State :=
  let get := fun (r : Res) (s : State) => match r with | .next s => s | _ => s
  let s := if v.getLsbD 0 != (s.port p).en then get (execPortEnableWrite p (v.getLsbD 0) s) s else s
  if retrain then get (execPortRetrain p s) s else s

/-- A write to a register of BAR 4: `v` holds the register with the written bytes in place, `w` the written bytes alone. -/
def bar4Write (s : State) (off : Nat) (v w : Word) : State :=
  if 0x200 ≤ off && off < 0x268 then
    if w.getLsbD 17 then s.modMgmt (fun m => { m with sensors := tmod {} m.sensors ((off - 0x200) / 8) (fun x => { x with alert := false }) }) else s
  else if 0x400 ≤ off && off < 0x420 then
    let i := 8 * (off - 0x400)
    s.modMgmt (fun m => { m with nonce := (m.nonce &&& ~~~((0xFFFFFFFFFFFFFFFF#256) <<< i)) ||| (v.setWidth 256 <<< i) })
  else if off == 0x440 then (match execAttestGo w s with | .next s => s | _ => s)
  else if 0x1000 ≤ off && off < 0x1400 && off % 0x40 == 8 then portCtl s ((off - 0x1000) / 0x40) v (w.getLsbD 1)
  else if off == 0x3000 then s.modMgmt (fun m => { m with health := m.health &&& (~~~w).toNat })
  else if 0x4000 ≤ off && off < 0x6400 && off % 32 == 16 then
    s.modMgmt (fun m => { m with wear := tmod {} m.wear ((off - 0x4000) / 32) (fun r => { r with
      warn := bits v.toNat 15 0
      crit := bits v.toNat 31 16
      flagW := r.flagW && !w.getLsbD 32
      flagC := r.flagC && !w.getLsbD 33 }) })
  else s

/-- A host write of a register (R4, R5, R53): a write to a record area takes any size. -/
def regWrite (s : State) (bar off size : Nat) (v : BitVec 64) : State :=
  if inRecord bar off size then areaWrite s (off / 0x1000) (off % 0x1000) (natToBytes size v.toNat)
  else if !regOk off size then hostError s
  else
    let reg := off / 8 * 8
    let sh := 8 * (off % 8)
    let mask : Word := (BitVec.ofNat 64 (2 ^ (8 * size) - 1)) <<< sh
    let w := (v <<< sh) &&& mask
    let v := (hostReg s bar reg &&& ~~~mask) ||| w
    if bar == 0 then
      if reg < 0x100000 then s
      else if reg < 0x200000 then ctxRegWrite s ((reg - 0x100000) / 0x1000) (reg % 0x1000) v
      else if reg == 0x200000 then s.modHost (fun h => { h with winCtl := v &&& 0x807FFFFFC00000FF })
      else s
    else bar4Write s reg v w

/-! ### The order of the endpoint -/

/-- Performs a host access: the part of it that stalls, if any. -/
def hostPerform (s : State) (a : HostAcc) : State × Option HostAcc :=
  match a with
  | .reg bar off size v => (regWrite s bar off size v, none)
  | .readReg bar off size => (regRead s bar off size, none)
  | .read x n => (hostRead s x n, none)
  | .write x data => hostWrite s x data
  | .area c off data => (areaWrite s c off data, none)
  | .disable c => (ctlWrite s c ((s.ctx c).ctl &&& ~~~(1#64)), none)

/-- Performs the accesses that wait at the endpoint, in order, until one stalls (R54). -/
def hostDrain (s : State) : List HostAcc → State
  | [] => s.modHost (fun h => { h with queue := [] })
  | a :: l =>
    match hostPerform s a with
    | (s, none) => hostDrain s l
    | (s, some r) => s.modHost (fun h => { h with queue := r :: l })

/-- The accesses at the endpoint go on. -/
def hostGo (s : State) : State := hostDrain s s.host.queue

/-- A host access arrives at the endpoint: it waits behind a stalled write (R54). -/
def hostIssue (s : State) (a : HostAcc) : State := hostDrain s (s.host.queue ++ [a])

/-- Offsets inside the window of BAR 2. -/
def inBar2 (s : State) (x n : Nat) : Bool := x + n ≤ 2 ^ s.host.barLog

/-- HOST_REGISTER_WRITE (R4, R53). -/
def execHostRegisterWrite (bar off size : Nat) (v : BitVec 64) (s : State) : Res :=
  .next (if bar == 0 || bar == 4 then hostIssue s (.reg bar off size v) else s)
/-- HOST_REGISTER_READ (R53). -/
def execHostRegisterRead (bar off size : Nat) (s : State) : Res :=
  .next (if bar == 0 || bar == 4 then hostIssue s (.readReg bar off size) else s)
/-- INTAKE_RECORD_WRITE (R55). -/
def execIntakeRecordWrite (c off : Nat) (data : List Byte) (s : State) : Res :=
  .next (if c < 256 && off < 256 then hostIssue s (.area c off data) else s)
/-- SEAL_ATTEMPT (R56). -/
def execSealAttempt (c off : Nat) (data : List Byte) (s : State) : Res :=
  .next (if c < 256 && off < 256 then hostIssue s (.area c off data) else s)
/-- CONTEXT_DISABLE (R66): a write that clears EN. -/
def execContextDisable (c : Nat) (s : State) : Res := .next (if c < 256 then hostIssue s (.disable c) else s)
/-- BAR2_HOST_READ (R54, R59). -/
def execBar2HostRead (x n : Nat) (s : State) : Res := .next (if inBar2 s x n then hostIssue s (.read x n) else s)
/-- BAR2_HOST_WRITE (R54, R59). -/
def execBar2HostWrite (x : Nat) (data : List Byte) (s : State) : Res :=
  .next (if inBar2 s x data.length then hostIssue s (.write x data) else s)
/-- BAR2_RESIZE (R54): 1 GiB to 512 GiB. -/
def execBar2Resize (log : Nat) (s : State) : Res :=
  .next (if 30 ≤ log && log ≤ 39 then s.modHost (fun h => { h with barLog := log }) else s)

/-! ### Budgets -/

/-- BUDGET_WINDOW_START (R14, R161): host writes that waited for it go on. -/
def execBudgetWindowStart (st : Nat) (s : State) : Res := .next (if windowDue s st then hostGo (windowStart s st) else s)

/-- GRANT_REQUEST (R161): a core, or the host port, asks while its grant holds fewer than 128 words. -/
def execGrantRequest (q ctx st : Nat) (s : State) : Res :=
  let c := s.core q
  .next (if !budgetsRun s then s
    else if q == hostCore then
      if tget 0 s.host.grants (ctx * 8 + st) < 128 && !s.host.asked.contains (ctx, st) then
        s.modHost (fun h => { h with asked := h.asked ++ [(ctx, st)] })
      else s
    else if tget 0 c.grants (ctx * 8 + st) < 128 && !c.asked.contains (ctx, st) then
      s.modCore q (fun c => { c with asked := c.asked ++ [(ctx, st)] })
    else s)

/-- GRANT_ANSWER (R161): min(256, REMAIN) words. -/
def execGrantAnswer (q ctx st : Nat) (s : State) : Res :=
  .next (if q == hostCore then
      if s.host.asked.contains (ctx, st) then
        let s := windowCatch s st
        hostGo ((hostAsk s ctx st).1.modHost (fun h => { h with asked := h.asked.erase (ctx, st) }))
      else s
    else if (s.core q).asked.contains (ctx, st) then
      let s := windowCatch s st
      (askGrant s q ctx st).1.modCore q (fun c => { c with asked := c.asked.erase (ctx, st) })
    else s)

end Sys2Proof.Machine
end

