-- ==== Sys2Proof/Machine/Memory.lean ====
section
/-! DEFINITION. Loads, stores, gathers, lane slices, prefetch, range walks, atomics and fences (R292 to R305). -/
namespace Sys2Proof.Machine

/-- The one part of a scalar access. -/
def scalarPart (ea n : Nat) (pl : Place) : List AccPart := [{ dst := 0, n := n, va := ea, pl := pl }]

/-- ld (R294). An acquire, and a read that may find POISON, is performed at issue; any other enters the read queue (R181). -/
def execLd (g : Guard) (o : OpM) (s : State) : Res :=
  scalarOp s g (lenX o.x) none false (work (do
    let t ← me
    let ea := (OpM.ea t o).toNat
    let n := o.ty.width / 8
    let pl ← resolve1 ea n o.rq false
    if ordAcq o.ord || mayPoison (← get) pl then
      let bs ← readNow (scalarPart ea n pl) o.rq (if ordAcq o.ord then some o.scope else none) o.span.toNat
      if ordAcq o.ord then acquire o.scope
      done (lenX o.x) (fun t => t.wg o.rd (loadExt o.ty (bytesToNat (bs.map (·.2)))))
    else
      issueReads (scalarPart ea n pl) false o.rd.toNat o.ty.signed o.rq o.span.toNat
      done (lenX o.x) id))

/-- st (R294): the checks and the charge, then the write enters the store buffer, where its release steps come first (R188). -/
def execSt (g : Guard) (o : OpM) (s : State) : Res :=
  scalarOp s g (lenX o.x) none false (work (do
    let t ← me
    let ea := (OpM.ea t o).toNat
    let n := o.ty.width / 8
    let pl ← resolve1 ea n o.rq true
    charge (chargeOf o.rq (ordRel o.ord && wide o.scope) pl)
    pushWrites (scalarPart ea n pl) (fun _ => natToBytes n (t.rg o.rd).toNat) o.rq o.ord o.scope o.span.toNat
    done (lenX o.x) id))

/-- The unmasked elements of a vector access as byte offset and size (R219, R295), lowest first. -/
def vecParts (t : Thread) (g : Guard) (ty : Ty) : List (Nat × Nat) :=
  let w := ty.width
  let m := t.mask g
  if w == 4 then ((List.range 64).filter (fun i => m.getLsbD i)).map (fun i => (i, 1))
  else ((List.range (nElem w)).filter (fun j => m.getLsbD j)).map (fun j => (j * (w / 8), w / 8))

/-- The checks of a vector access for every unmasked element, lowest first (R293, R295): its parts with their places. -/
def vecResolve (ea : Nat) (parts : List (Nat × Nat)) (ty : Ty) (rq : Rq) (write : Bool) : M (List AccPart) := do
  match parts with
  | [] => return []
  | (f, _) :: _ =>
    for (i, _) in parts do
      remoteCheck ((ea + i) % 2 ^ 64)
    demand (ea % esize ty == 0) cALIGN ((ea + f) % 2 ^ 64)
    let mut out := []
    for (i, n) in parts do
      let a := (ea + i) % 2 ^ 64
      demand (rq != .loc || isLocal a) cADDR a
      out := out ++ [{ dst := i, n := n, va := a, pl := ← resolve a n write }]
    return out

/-- Reads into a vector register, each list of parts one access (R295, R296): all are performed at once where one may find POISON, since a
fault leaves the register as it was. -/
def loadVec (rd : BitVec 5) (ls : List (List AccPart)) (rq : Rq) (span len : Nat) : M PUnit := do
  let s ← get
  if ls.any (fun l => l.any (fun x => mayPoison s x.pl)) then
    let mut bs := []
    for l in ls do
      bs := bs ++ (← readNow l rq none span)
    let all := bs
    done len (fun t => t.wv rd (Vec.setBytes (t.rv rd) all))
  else
    for l in ls do
      issueReads l true rd.toNat false rq span
    done len id

/-- vld (R295). -/
def execVld (g : Guard) (o : OpM) (s : State) : Res :=
  elemOp s (work (do
    let t ← me
    let l ← vecResolve (OpM.ea t o).toNat (vecParts t g o.ty) o.ty o.rq false
    loadVec o.rd [l] o.rq o.span.toNat (lenX o.x)))

/-- vst (R295). -/
def execVst (g : Guard) (o : OpM) (s : State) : Res :=
  elemOp s (work (do
    let t ← me
    let l ← vecResolve (OpM.ea t o).toNat (vecParts t g o.ty) o.ty o.rq true
    charge (((byWord l).map (fun x => match x.2 with | y :: _ => chargeOf o.rq false y.pl | [] => [])).flatten)
    let v := t.rv o.rd
    pushWrites l (fun x => (List.range x.n).map (fun k => v.extractLsb' (8 * (x.dst + k)) 8)) o.rq .relaxed .thread o.span.toNat
    done (lenX o.x) id))

/-- The unmasked element addresses of a gather or scatter, ascending (R296). -/
def gatherAddrs (t : Thread) (g : Guard) (o : OpM) : List (Nat × Nat) :=
  let w := o.ty.width
  let m := t.mask g
  let ix := t.rv o.rb
  ((List.range (nElem w)).filter (fun j => m.getLsbD j)).map (fun j =>
    let i := elemAt ix w j
    let idx : Int := if bit i (w - 1) then (i : Int) - 2 ^ w else i
    (j, (OpM.base t o + BitVec.ofInt 64 (idx * (w / 8 : Nat))).toNat))

/-- The checked parts of a gather or scatter, one scalar access each (R296). -/
def gatherParts (t : Thread) (g : Guard) (o : OpM) (write : Bool) : M (List AccPart) := do
  let n := o.ty.width / 8
  let mut l := []
  for (j, a) in gatherAddrs t g o do
    l := l ++ [{ dst := j * n, n := n, va := a, pl := ← resolve1 a n o.rq write }]
  return l

/-- vldx (R296). -/
def execVldx (g : Guard) (o : OpM) (s : State) : Res :=
  elemOp s (work (do
    let l ← gatherParts (← me) g o false
    loadVec o.rd (l.map (fun x => [x])) o.rq o.span.toNat (lenX o.x)))

/-- vstx (R296). -/
def execVstx (g : Guard) (o : OpM) (s : State) : Res :=
  elemOp s (work (do
    let t ← me
    let l ← gatherParts t g o true
    charge ((l.map (fun x => chargeOf o.rq false x.pl)).flatten)
    let v := t.rv o.rd
    for x in l do
      pushWrites [x] (fun x => (List.range x.n).map (fun k => v.extractLsb' (8 * (x.dst + k)) 8)) o.rq .relaxed .thread o.span.toNat
    done (lenX o.x) id))

/-- Place of byte `a` of lane slice `j` (R108). -/
def laneKey (j a : Nat) : Nat := j * 4096 + a

/-- The lane addresses of the unmasked elements, checked (R297): ALIGN, then ADDR, lowest element first. -/
def laneAddrs (t : Thread) (g : Guard) (o : OpM) : M (List (Nat × Nat)) := do
  let m := t.mask g
  let ix := t.rv o.rb
  let mut l := []
  for j in (List.range 16).filter (fun j => m.getLsbD j) do
    let d := o.off.signExtend 32 * 4 + (match o.x with | some i => i | none => 0)
    let a := (BitVec.ofNat 32 (elemAt ix 32 j) + d).toNat
    l := l ++ [(j, a)]
  for (_, a) in l do
    demand (a % 4 == 0) cALIGN a
    demand (a < 4096) cADDR a
  return l

/-- lsld (R297). -/
def execLsld (g : Guard) (o : OpM) (s : State) : Res :=
  elemOp s (work (do
    let l ← laneAddrs (← me) g o
    let s ← get
    let m := (s.core (coreOf s.cur)).slices
    let bs := (l.map (fun (j, a) => (mread 0 m (laneKey j a) 4).zipIdx.map (fun (b, k) => (4 * j + k, b)))).flatten
    done (lenX o.x) (fun t => t.wv o.rd (Vec.setBytes (t.rv o.rd) bs))))

/-- lsst (R297). -/
def execLsst (g : Guard) (o : OpM) (s : State) : Res :=
  elemOp s (work (do
    let t ← me
    let l ← laneAddrs t g o
    let v := t.rv o.rd
    modify (fun s => s.modCore (coreOf s.cur) (fun c => { c with
      slices := l.foldl (fun m (j, a) => mwrite 0 m (laneKey j a) (natToBytes 4 (elemAt v 32 j))) c.slices }))
    done (lenX o.x) id))

/-- pref (R298): fetches as an own or si read would; it never faults. -/
def execPref (g : Guard) (o : OpM) (s : State) : Res :=
  scalarOp s g (lenX o.x) none false (fun s =>
    let t := s.me
    let q := coreOf s.cur
    let ea := (OpM.ea t o).toNat
    let s :=
      if isLocal ea || ea % esize o.ty != 0 then s
      else
        match translate s q t.ctx t.sup ea .read with
        | (s, .error _) => s
        | (s, .ok (pa, pg)) =>
          if effRq pg o.rq == .nc then s
          else
            let p := pa / 32
            let (s, gl) := if o.span == 0 && toSlice s (false, p) pg o.rq then gleaner s q t.pc.toNat ea (p % 16) (p % 16) else (s, none)
            (readWord s q p { wordReq pg p with span := o.span.toNat, gl := gl } o.rq none (phaseTag s s.cur)).1
    s.retire (lenX o.x))

/-- The sets of the four dies that can hold a frame of the physical ranges of a walk. -/
def walkSets (ranges : List (Nat × Nat)) : List (Nat × Nat × Nat) :=
  let fs := (ranges.map (fun (lo, hi) => (List.range (hi / 512 + 1 - lo / 512)).map (· + lo / 512))).flatten
  let ks := (fs.map (fun f => (sliceOf (f * 512), setOf (f * 512)))).eraseDups
  ((List.range 4).map (fun d => ks.map (fun (sl, st) => (d, sl, st)))).flatten

/-- Translates a walk's range page by page (R299): the physical byte ranges up to the first page that fails, and its cause. -/
def walkPages (s : State) (q ctx : Nat) (sup : Bool) (lo hi : Nat) : Nat → State × List (Nat × Nat) × Option (Nat × Nat)
  | 0 => (s, [], none)
  | fuel + 1 =>
    if lo ≥ hi then (s, [], none)
    else
      let e := min hi (lo / 65536 * 65536 + 65536)
      match translate s q ctx sup lo .read with
      | (s, .error f) => (s, [], some (f.cause, f.info))
      | (s, .ok (pa, _)) =>
        let (s, l, f) := walkPages s q ctx sup e hi fuel
        (s, (pa, pa + (e - lo) - 1) :: l, f)

/-- A word covered by a physical range of a walk. -/
def inRanges (l : List (Nat × Nat)) (p : Nat) : Bool := l.any (fun (lo, hi) => lo / 32 ≤ p && p ≤ hi / 32)

/-- flushr (R147, R299): the walk begins when the thread's stores are performed at their homes; the core's own copies go first. -/
def flushr (g : Guard) (o : OpR) (s : State) (inv : Bool) : Res :=
  scalarOp s g 8 none false (work (do
    let t ← me
    let lo := (t.rg o.ra).toNat
    let n := (t.rg o.rb).toNat
    demand (n == 0 || lo + n ≤ 2 ^ 55) cADDR lo
    awaitHandle o.rd.toNat
    modify (fun s => drainAll s s.cur)
    let s ← get
    await (s.me.sb.isEmpty && sackOf s s.cur == 0)
    let q := coreOf s.cur
    modify (fun s => chuteFlush s q)
    let j ← pick (fun s => nextRef s { ctx := t.ctx, unit := 3, cl := q / 8, core := q % 8 })
    if n == 0 then
      modify (fun s => settle s j {})
      done 8 (fun t => t.wh o.rd.toNat (.settled {}))
    else
      let (pages, fault) ← pick (fun s =>
        let (s, l, f) := walkPages s q t.ctx t.sup lo (lo + n) (n / 65536 + 2)
        (s, l, f))
      modify (fun s =>
        (s.core q).l1.foldl (fun s e =>
          if inRanges pages e.1 then
            if inv then l1Drop s q e.1 else l1Back s q e.1
          else s) s)
      modify (fun s => s.modDie (dieOf q) (fun d => { d with walks := d.walks ++ [
        { seq := j.seq, th := s.cur, ctx := t.ctx, node := t.node, inv := inv, lo := lo, hi := lo + n, sets := walkSets pages,
          pages := pages.map (fun (a, b) => (a, b, 0)), fault := fault }] }))
      done 8 (fun t => t.wh o.rd.toNat (.job j))))

/-- flushr, flush form (R299). -/
def execFlushrFlush (g : Guard) (o : OpR) (s : State) : Res := flushr g o s false
/-- flushr, invalidate form (R299). -/
def execFlushrInv (g : Guard) (o : OpR) (s : State) : Res := flushr g o s true

/-- amo (R301, R302). -/
def execAmo (g : Guard) (o : OpM) (s : State) : Res :=
  scalarOp s g (lenX o.x) none false (work (do
    let t ← me
    let aop := o.span.toNat
    atomicOp (OpM.base t o).toNat o.rq o.ord o.scope (.amo aop o.ty (t.rg o.rb).toNat)
      (some { rd := o.rd.toNat, ty := if aop == 10 then none else some o.ty }) (lenX o.x)))

/-- The thread's earlier fences are complete before an effect that does not pass its store buffer (R192). -/
def afterFences : M PUnit := do
  if (← me).sb.any (·.fence) then
    modify (fun s => drainAll s s.cur)
    await (!((← me).sb.any (·.fence)))

/-- amon (R304): return-free. At system scope with a peer named it sends one AMO flit. -/
def execAmon (g : Guard) (o : OpM) (s : State) : Res :=
  scalarOp s g (lenX o.x) none false (work (do
    let t ← me
    let aop := o.span.toNat
    let x := (t.rg o.rd).toNat
    let n := aopSize aop o.ty
    let peer := o.scope == .system && o.rb != 0
    if peer then
      let ea := (OpM.base t o).toNat
      let dev := (t.rg o.rb).toNat
      demand (!(t.status.getLsbD 9 && t.compute)) cREMOTE dev
      demand (ea % n == 0) cALIGN ea
      demand (o.rq != .loc || isLocal ea) cADDR ea
      demand (dev < 2 ^ 21 && (routeTo (← get) (BitVec.ofNat 21 dev)).isSome) cADDR dev
      -- a 65th peer first closes the round at system scope (R166)
      let ps := ((← get).core (coreOf s.cur)).cur.peers
      if ordRel o.ord || (ps.length ≥ 64 && !ps.contains dev) || t.prog != 0 then releaseSteps .system
      afterFences
      modify (fun s => (sendFlit s (BitVec.ofNat 21 dev)
        { zeroFlit with addr := BitVec.ofNat 64 ea, op := 5, tc := 2, ctx := BitVec.ofNat 8 t.ctx, last := true,
                        aux := BitVec.ofNat 64 ((aop + 256 * o.ty.code) * 2 ^ 32 + coreOf s.cur * 64), opx := BitVec.ofNat 128 (x % 2 ^ (8 * n)) }).1)
      modify (fun s => notePeer s dev (coreOf s.cur))
      modify (fun s => s.modCore (coreOf s.cur) (fun c => { c with
        cur := { c.cur with peers := if c.cur.peers.contains dev then c.cur.peers else c.cur.peers ++ [dev] } }))
      done (lenX o.x) id
    else
      atomicOp (OpM.ea t o).toNat o.rq o.ord o.scope (.amo aop o.ty x) none (lenX o.x)))

/-- cas (R303): 64 bits, or a register pair for W128. -/
def execCas (g : Guard) (o : OpM) (s : State) : Res :=
  scalarOp s g (lenX o.x) none false (work (do
    let t ← me
    let w128 := o.span == 1
    let n := if w128 then 16 else 8
    let pair := fun (r : BitVec 5) => (t.rg r).toNat + (if w128 then (t.rg (r + 1)).toNat * 2 ^ 64 else 0)
    let e := pair o.rd
    let x := pair o.rb
    atomicOp (OpM.base t o).toNat o.rq o.ord o.scope (.cas n e x) (some { rd := o.rd.toNat, pair := w128 }) (lenX o.x)))

/-- fence (R192, R305): a release stands in the store buffer, and only acq_rel waits for it. -/
def execFence (g : Guard) (o : OpM) (s : State) : Res :=
  scalarOp s g 8 none false (work (do
    match o.ord with
    | .relaxed => pure ⟨⟩
    | .release => pushFence o.scope false
    | .acquire => acquire o.scope
    | .acqRel =>
      releaseSteps o.scope
      acquire o.scope
    done 8 id))

/-- wfence (R192). -/
def execWfence (g : Guard) (_o : OpR) (s : State) : Res :=
  scalarOp s g 8 none false (work (do
    pushFence .device false
    done 8 id))

/-- nmfence (R192). -/
def execNmfence (g : Guard) (_o : OpR) (s : State) : Res :=
  scalarOp s g 8 none false (work (do
    pushFence .system true
    done 8 id))

end Sys2Proof.Machine
end

