-- ==== Sys2Proof/Machine/Mem.lean ====
section
/-! DEFINITION. The steps of the die caches, the Chute, the memory homes and the near-memory units (R126 to R168, R180 to R186). A
step that is not enabled leaves the state as it is. -/
namespace Sys2Proof.Machine

/-! ### Slices -/

/-- The word of request `n` of a thread: its store-buffer entries, then its core's drained writes, then the core's issued reads. -/
def requestWord (s : State) (th n : Nat) : Option (Bool × Nat) :=
  let c := s.core (coreOf th)
  let sb := (s.th th).sb
  match sb[n]? with
  | some e => if e.fence then none else some e.word
  | none =>
    match c.sent[n - sb.length]? with
    | some x => some x.2.word
    | none => (c.reads[n - sb.length - c.sent.length]?).map ReadReq.word

/-- The word of a thread's request `n` when it is owned by another core in its die's cache. -/
def ownedAway (s : State) (th n : Nat) : Option Nat :=
  let q := coreOf th
  match requestWord s th n with
  | some (false, p) => (match held s (dieOf q) p with | some (_, w) => if w.owned && w.core != q % 256 then some p else none | none => none)
  | _ => none

/-- Request `n` of a thread goes on by one action of R181: the next release step of the oldest entry, the drain of an entry with its
acceptance at once or later, the acceptance of a drained write, or an issued read. -/
def sliceRequest (s : State) (th n : Nat) : State :=
  let q := coreOf th
  let t := s.th th
  let sent := (s.core q).sent.length
  if n < t.sb.length then
    let (s, c) := choose s 2
    match t.sb[n]? with
    | some e =>
      if n == 0 && e.release && !(t.relStage == 4 && !e.fence) then relStep s th (c == 0)
      else
        let s := drainAt s th n
        let last := (s.core q).sent.length
        if c == 0 && last > sent then acceptAt s q (last - 1) else s
    | none => s
  else if n - t.sb.length < sent then acceptAt s q (n - t.sb.length)
  else performRead s q (n - t.sb.length - sent)

/-- SLICE_REQUEST (R139, R180, R181): request `n` of a thread goes on. A word that another core owns may first be recalled by a step of its
own (R141). -/
def execSliceRequest (th n : Nat) (s : State) : Res :=
  .next (match ownedAway s th n with
    | none => sliceRequest s th n
    | some p =>
      let d := dieOf (coreOf th)
      if (s.die d).recalls.any (fun r => r.pa == p) then s
      else
        let (s, c) := choose s 2
        if c == 0 then sliceRequest s th n
        else
          match held s d p with
          | some (_, w) => s.modDie d (fun x => { x with recalls := x.recalls ++ [{ pa := p, core := w.core }] })
          | none => s)

/-- FILL_DATA_ARRIVE (R132, R136). -/
def execFillDataArrive (die n : Nat) (s : State) : Res := .next (fillArrive s die n)

/-- RECALL_RETURN (R141). -/
def execRecallReturn (die n : Nat) (s : State) : Res :=
  .next (match (s.die die).recalls[n]? with
    | none => s
    | some r => recallWord (s.modDie die (fun x => { x with recalls := delAt x.recalls n })) die r.pa)

/-- SHEAF_MERGE (R133): one merge of a set. -/
def execSheafMerge (die slice set : Nat) (s : State) : Res :=
  .next (s.modDie die (fun x => { x with sets := tmod [] x.sets (slice * 384 + set) (fun l => layout (mergeOnce l)) }))

/-- PHASE_BOUNDARY (R145, R146, R170, R199). -/
def execPhaseBoundary (node lev inst : Nat) (s : State) : Res :=
  .next (if groupReady s node lev inst then passBoundary s node lev inst else s)

/-! ### Range walks -/

/-- The number of a walk: its core and sequence number. -/
def walkNum (w : Walk) : Nat := coreOf w.th * 2 ^ 32 + w.seq

/-- The issuing die of walk `n`. -/
def walkDie (n : Nat) : Nat := dieOf (n / 2 ^ 32)

/-- Walk `n`. -/
def walkOf (s : State) (n : Nat) : Option Walk := (s.die (walkDie n)).walks.find? (fun w => walkNum w == n)

/-- The covered words that a set of a die holds. -/
def covers (s : State) (w : Walk) (die slice set : Nat) : List Nat :=
  let ps := ((tget [] (s.die die).sets (slice * 384 + set)).map (fun x =>
    (List.range x.words.length).map (fun j => x.frame * 16 + x.s + j))).flatten
  ps.filter (inRanges (w.pages.map (fun (a, b, _) => (a, b))))

/-- RANGE_WALK_VISIT (R147): one indivisible step at one set of one die; pending fills of covered words arrive first (R148). -/
def execRangeWalkVisit (die n slice set : Nat) (s : State) : Res :=
  .next (match walkOf s n with
    | none => s
    | some w =>
      if w.sets.contains (die, slice, set) then
        let rs := w.pages.map (fun (a, b, _) => (a, b))
        let here := fun (f : Fill) => inRanges rs (f.pa / 32) && setKey (f.pa / 32) == slice * 384 + set
        let s := (s.die die).fills.foldl (fun s _ =>
          match (s.die die).fills.findIdx? here with
          | some i => fillArrive s die i
          | none => s) s
        let s := (covers s w die slice set).foldl (fun s p =>
          let s := writeBack (recallWord s die p) die p
          if w.inv then trimWord s die p else s) s
        s.modDie (walkDie n) (fun d => { d with walks := d.walks.map (fun x =>
          if walkNum x == n then { x with sets := x.sets.erase (die, slice, set) } else x) })
      else s)

/-- Whether a write to a word of the walk is still on its way. -/
def walkBusy (s : State) (w : Walk) : Bool :=
  let rs := w.pages.map (fun (a, b, _) => (a, b))
  s.cores.any (fun e => e.2.chute.any (fun x => x.words.any (inRanges rs)))

/-- RANGE_WALK_COMPLETE (R147, R299): every set has been visited and every write-back performed. -/
def execRangeWalkComplete (die n : Nat) (s : State) : Res :=
  .next (match walkOf s n with
    | none => s
    | some w =>
      if walkDie n == die && w.sets.isEmpty && !walkBusy s w then
        let q := coreOf w.th
        let s := s.modDie die (fun d => { d with walks := d.walks.filter (fun x => walkNum x != n) })
        settle s { ctx := w.ctx, unit := 3, cl := q / 8, core := q % 8, seq := w.seq }
          (match w.fault with
           | some (c, i) => { state := 2, cause := c, info := i }
           | none => {})
      else s)

/-! ### Homes -/

/-- MSC_LOOKUP (R154 to R158): a read's or a write's lookup; a write leaves the frame dirty. -/
def execMscLookup (pa ctx key cls : Nat) (wr : Bool) (s : State) : Res :=
  let (s, d, poison) := mscLookup s pa ctx key cls wr
  .next (if wr && !poison then mscStore s pa ctx key cls d false else s)

/-- A Chute or near-memory operation on a frame whose old value a thread awaits. -/
def awaited (frame : Nat) (w : ChuteW) : Bool :=
  w.pa / 512 == frame && (match w.ret with | some x => decide (x.1 < 4096) | none => false)

/-- Issued reads and returning atomics of threads wait on a frame. -/
def frameAwaited (s : State) (frame : Nat) : Bool :=
  let op := fun (e : SbEntry) => !e.loc && !e.fence && e.pa / 512 == frame && e.ret.isSome
  s.cores.any (fun e => e.2.reads.any (fun r => !r.word.1 && r.word.2 / 16 == frame) || e.2.sent.any (fun x => op x.2)
      || e.2.chute.any (awaited frame))
    || s.threads.any (fun e => e.2.live && e.2.sb.any op) || s.hbms.any (fun e => e.2.nmu.any (awaited frame))

/-- Performs the issued reads and returning atomics of threads on a frame, which would raise POISON at their instruction otherwise. -/
def settleFrame (s : State) (frame : Nat) : State :=
  let s := s.cores.foldl (fun s e => e.2.reads.foldl (fun s r =>
    if !r.word.1 && r.word.2 / 16 == frame then readsWhere s r.th (fun x => x == r) else s) s) s
  let s := s.threads.foldl (fun s e => e.2.sb.foldl (fun s x =>
    if !x.loc && !x.fence && x.pa / 512 == frame && x.ret.isSome then forceAtomic s e.1 x.word x.seq else s) s) s
  let s := s.cores.foldl (fun s e => e.2.sent.foldl (fun s x => if x.2.pa / 512 == frame then acceptWord s e.1 x.2.word else s) s) s
  let s := (List.range 4).foldl (fun s d => (List.range 16).foldl (fun s i => fwdWait s d (frame * 16 + i)) s) s
  nmuAll s (stackOf (frame * 512))

/-- DRAM_FRAME_READ (R151): the home decodes a frame that its cache does not hold, `frame` being PA / 512. Up to 18 wrong bits are
corrected, counted and the frame kept dirty; more, or a frame that is POISON already, is rewritten as POISON, with data and KEY as read. -/
def execDramFrameRead (frame errs : Nat) (s : State) : Res :=
  let pa := frame * 512
  let st := stackOf pa
  let set := mscSet (offOf pa)
  let free := fun (s : State) => !(tget [] (s.stack st).msc set).any (fun w => w.pf == frame)
    && !(s.stack st).lane.any (fun w => dramKey (w.pf * 512) == dramKey pa)
  let m := frameMeta s frame
  .next (if !free s then s
    else if m.poison || errs > 18 then
      let s := if m.poison then s else settleFrame s frame
      if free s && (m.poison || !frameAwaited s frame) then
        let (key, d, _) := dramFrame s frame
        laneAdd s { pf := frame, data := d, key := key, cls := (frameMeta s frame).cls, poison := true, raw := true, charged := false }
      else s
    else if errs == 0 then s
    else
      let (key, d, _) := dramFrame s frame
      let s := s.modStack st (fun k => { k with corrected := k.corrected + 1 })
      mscInsert s st set { pf := frame, data := d, dirty := true, key := key, cls := m.cls, asData := true, poison := false, age := 0 })

/-- WRITE_LANE_SLOT (R14, R154). -/
def execWriteLaneSlot (st : Nat) (s : State) : Res := .next (laneWrite s st)

/-- MSC_FADE_PERIOD (R158). -/
def execMscFadePeriod (st : Nat) (s : State) : Res := .next (s.modStack st fadePeriod)

/-! ### The Chute -/

/-- CHUTE_WRITE_PERFORM (R163, R164). -/
def execChuteWritePerform (q st : Nat) (s : State) : Res := .next (chutePerform s q st)

/-- CREDIT_RETURN (R160). -/
def execCreditReturn (q st : Nat) (s : State) : Res := .next (creditBack s q st)

/-- ROUND_CLOSE_QUERY (R165): a home answers when its count agrees. -/
def execRoundCloseQuery (q st : Nat) (s : State) : Res := .next (roundAnswer s q st)

/-- ROUND_CLOSE_REPLY (R165). -/
def execRoundCloseReply (q : Nat) (s : State) : Res := .next (roundReply s q)

/-- FORWARD_TABLE_REPORT (R186). -/
def execForwardTableReport (die n : Nat) (s : State) : Res := .next (fwdReport s die n)

/-- NMU_OPERATION (R167). -/
def execNmuOperation (st : Nat) (s : State) : Res := .next (nmuStep s st)

end Sys2Proof.Machine
end

