-- ==== Sys2Proof/Machine/Scalar.lean ====
section
/-! DEFINITION. Scalar instructions (R264 to R280). -/
namespace Sys2Proof.Machine

/-- A scalar-guarded instruction that only changes its thread's registers and goes on. -/
def regOp (s : State) (g : Guard) (len : Nat) (f : Thread → Thread) : Res :=
  scalarOp s g len none false (fun s => s.retireWith len f)

/-- An integer instruction with `.sat` (R265): `f` gives the exact result from val_T of g[RA], g[RB] and g[RC]. -/
def intOp (g : Guard) (o : OpR) (s : State) (f : Int → Int → Int → Int) : Res :=
  regOp s g 8 (fun t =>
    let v := fun r => valT o.ty (t.rg r).toNat
    let (x, fl) := satResult o.ty o.md[0] (f (v o.ra) (v o.rb) (v o.rc))
    (t.wg o.rd x).raise fl)

/-- An integer instruction on `w`-bit patterns (R265): `f` takes the width, the patterns of g[RA] and g[RB], and n. -/
def patOp (g : Guard) (o : OpR) (s : State) (f : Nat → Nat → Nat → Nat → Nat) : Res :=
  regOp s g 8 (fun t =>
    let w := o.ty.width
    let b := (t.rg o.rb).toNat
    t.wg o.rd (extT o.ty (f w ((t.rg o.ra).toNat % 2 ^ w) (b % 2 ^ w) (b % 64 % w))))

/-- A 64-bit instruction with an immediate (R270). -/
def immOp (g : Guard) (o : OpI) (s : State) (f : Word → Word → Word) : Res :=
  regOp s g 8 (fun t => t.wg o.rd (f (t.rg o.ra) (o.imm.signExtend 64)))

/-- A truth value written to p[RD], or to g[RD] for `.g` (R267). -/
def Thread.wcond (t : Thread) (toG : Bool) (rd : BitVec 5) (c : Bool) : Thread :=
  if toG then t.wg rd (if c then 1 else 0) else t.wp rd.toNat (if c then BitVec.allOnes 64 else 0)

/-- nop (R269). -/
def execNop (g : Guard) (_o : OpR) (s : State) : Res := regOp s g 8 id
/-- add (R265). -/
def execAdd (g : Guard) (o : OpR) (s : State) : Res := intOp g o s (fun a b _ => a + b)
/-- sub (R265). -/
def execSub (g : Guard) (o : OpR) (s : State) : Res := intOp g o s (fun a b _ => a - b)
/-- mul (R265). -/
def execMul (g : Guard) (o : OpR) (s : State) : Res := intOp g o s (fun a b _ => a * b)
/-- mulh (R265). -/
def execMulh (g : Guard) (o : OpR) (s : State) : Res := intOp g o s (fun a b _ => a * b / 2 ^ o.ty.width)
/-- madd (R265). -/
def execMadd (g : Guard) (o : OpR) (s : State) : Res := intOp g o s (fun a b c => a * b + c)
/-- min (R265). -/
def execMin (g : Guard) (o : OpR) (s : State) : Res := intOp g o s (fun a b _ => if b < a then b else a)
/-- max (R265). -/
def execMax (g : Guard) (o : OpR) (s : State) : Res := intOp g o s (fun a b _ => if a < b then b else a)
/-- and (R265). -/
def execAnd (g : Guard) (o : OpR) (s : State) : Res := patOp g o s (fun _ a b _ => bitPat 0 a b)
/-- or (R265). -/
def execOr (g : Guard) (o : OpR) (s : State) : Res := patOp g o s (fun _ a b _ => bitPat 1 a b)
/-- xor (R265). -/
def execXor (g : Guard) (o : OpR) (s : State) : Res := patOp g o s (fun _ a b _ => bitPat 2 a b)
/-- shl (R265). -/
def execShl (g : Guard) (o : OpR) (s : State) : Res := patOp g o s (fun w a _ n => shiftPat w 0 a n)
/-- shr (R265). -/
def execShr (g : Guard) (o : OpR) (s : State) : Res := patOp g o s (fun w a _ n => shiftPat w 1 a n)
/-- sra (R265). -/
def execSra (g : Guard) (o : OpR) (s : State) : Res := patOp g o s (fun w a _ n => shiftPat w 2 a n)
/-- rot (R265). -/
def execRot (g : Guard) (o : OpR) (s : State) : Res := patOp g o s (fun w a _ n => shiftPat w 3 a n)
/-- clz (R265). -/
def execClz (g : Guard) (o : OpR) (s : State) : Res := patOp g o s (fun w a _ _ => clzPat w a)
/-- ctz (R265). -/
def execCtz (g : Guard) (o : OpR) (s : State) : Res := patOp g o s (fun w a _ _ => ctzPat w a)
/-- popc (R265). -/
def execPopc (g : Guard) (o : OpR) (s : State) : Res := patOp g o s (fun w a _ _ => popPat w a)

/-- The quotient of R266: toward zero, or toward −infinity for FN 1. -/
def quotient (fl : Bool) (a b : Int) : Int := if fl then a.fdiv b else a.tdiv b

/-- div (R266). -/
def execDiv (g : Guard) (o : OpR) (s : State) : Res :=
  scalarOp s g 8 none false (fun s =>
    let v := fun r => valT o.ty (s.me.rg r).toNat
    if v o.rb == 0 then trapOf s ⟨cDIVZERO, 0⟩
    else
      let (x, fl) := satResult o.ty o.md[0] (quotient (o.fn == 1) (v o.ra) (v o.rb))
      s.retireWith 8 (fun t => (t.wg o.rd x).raise fl))

/-- rem (R266). -/
def execRem (g : Guard) (o : OpR) (s : State) : Res :=
  scalarOp s g 8 none false (fun s =>
    let v := fun r => valT o.ty (s.me.rg r).toNat
    if v o.rb == 0 then trapOf s ⟨cDIVZERO, 0⟩
    else s.retireWith 8 (fun t => t.wg o.rd (extT o.ty (v o.ra - v o.rb * quotient (o.fn == 1) (v o.ra) (v o.rb)))))

/-- addi (R270). -/
def execAddi (g : Guard) (o : OpI) (s : State) : Res := immOp g o s (· + ·)
/-- andi (R270). -/
def execAndi (g : Guard) (o : OpI) (s : State) : Res := immOp g o s (· &&& ·)
/-- ori (R270). -/
def execOri (g : Guard) (o : OpI) (s : State) : Res := immOp g o s (· ||| ·)
/-- xori (R270). -/
def execXori (g : Guard) (o : OpI) (s : State) : Res := immOp g o s (· ^^^ ·)
/-- shi (R270). -/
def execShi (g : Guard) (o : OpI) (s : State) : Res :=
  immOp g o s (fun a _ => BitVec.ofNat 64 (shiftPat 64 o.fn.toNat a.toNat (o.imm.toNat % 64)))

/-- cmp (R267). -/
def execCmp (g : Guard) (o : OpR) (s : State) : Res :=
  regOp s g 8 (fun t => t.wcond o.md[0] o.rd (cmpCond o.fn.toNat (valT o.ty (t.rg o.ra).toNat) (valT o.ty (t.rg o.rb).toNat)))

/-- cmpi (R268). -/
def execCmpi (g : Guard) (o : OpI) (s : State) : Res :=
  regOp s g 8 (fun t =>
    let ty := if o.fn[3] then Ty.n64 else Ty.i64
    t.wcond o.fn[4] o.rd (cmpCond (o.fn.toNat % 8) (valT ty (t.rg o.ra).toNat) (valT ty (o.imm.signExtend 64).toNat)))

/-- sel (R269). -/
def execSel (g : Guard) (o : OpR) (s : State) : Res :=
  regOp s g 8 (fun t => t.wg o.rd (if (t.rp o.rc.toNat).getLsbD 0 then t.rg o.ra else t.rg o.rb))
/-- mov (R269). -/
def execMov (g : Guard) (o : OpR) (s : State) : Res := regOp s g 8 (fun t => t.wg o.rd (t.rg o.ra))
/-- movi (R269). -/
def execMovi (g : Guard) (o : OpI) (s : State) : Res :=
  regOp s g 8 (fun t => t.wg o.rd (if o.fn == 0 then o.imm.signExtend 64 else o.imm.setWidth 64))
/-- movk (R269). -/
def execMovk (g : Guard) (o : OpI) (s : State) : Res :=
  regOp s g 8 (fun t =>
    let x := t.rg o.rd
    t.wg o.rd (if o.fn == 0 then (x.extractLsb' 32 32) ++ o.imm else o.imm ++ (x.extractLsb' 0 32)))

/-- ext (R271). -/
def execExt (g : Guard) (o : OpR) (s : State) : Res :=
  regOp s g 8 (fun t =>
    let n := o.fn.toNat % 128
    let x := (t.rg o.ra).toNat / 2 ^ (o.md.toNat % 64) % 2 ^ n
    t.wg o.rd (if o.ty == .i64 && bit x (n - 1) then BitVec.ofInt 64 ((x : Int) - 2 ^ n) else BitVec.ofNat 64 x))
/-- ins (R271). -/
def execIns (g : Guard) (o : OpR) (s : State) : Res :=
  regOp s g 8 (fun t =>
    let n := o.fn.toNat % 128
    let p := o.md.toNat % 64
    let m := BitVec.ofNat 64 ((2 ^ n - 1) * 2 ^ p)
    t.wg o.rd ((t.rg o.rd &&& ~~~m) ||| ((t.rg o.ra <<< p) &&& m)))
/-- lea (R272). -/
def execLea (g : Guard) (o : OpM) (s : State) : Res := regOp s g (lenX o.x) (fun t => t.wg o.rd (OpM.ea t o))

/-- digit (R273). -/
def execDigit (g : Guard) (o : OpR) (s : State) : Res :=
  scalarOp s g 8 none false (fun s =>
    let t := s.me
    if t.rg o.rb == 0 || t.rg o.rc == 0 then trapOf s ⟨cDIVZERO, 0⟩
    else s.retireWith 8 (fun t => t.wg o.rd (t.rg o.ra / t.rg o.rb % t.rg o.rc)))

/-- The functions of R274. -/
def plogFn (fn : Nat) (a b : Word) : Word :=
  match fn with
  | 0 => a &&& b
  | 1 => a ||| b
  | 2 => a ^^^ b
  | 3 => a &&& ~~~b
  | 4 => a ||| ~~~b
  | 5 => ~~~(a &&& b)
  | 6 => ~~~(a ||| b)
  | _ => ~~~(a ^^^ b)

/-- plog (R274). -/
def execPlog (g : Guard) (o : OpR) (s : State) : Res :=
  regOp s g 8 (fun t => t.wp o.rd.toNat (plogFn o.fn.toNat (t.rp o.ra.toNat) (t.rp o.rb.toNat)))
/-- pmov (R275). -/
def execPmov (g : Guard) (o : OpR) (s : State) : Res :=
  regOp s g 8 (fun t =>
    match o.fn.toNat with
    | 0 => t.wg o.rd (t.rp o.ra.toNat)
    | 1 => t.wp o.rd.toNat (t.rg o.ra)
    | _ => t.wp o.rd.toNat (if t.rg o.ra == 0 then 0 else BitVec.allOnes 64))

/-- A scalar float instruction that rounds once (R276): `f` gives the exact result from the operands, RDN told apart for the
sign of an exact zero sum; `k` operands are read. -/
def fltOp (g : Guard) (o : OpR) (s : State) (k : Nat) (f : Bool → FVal → FVal → FVal → FVal × Flags) : Res :=
  regOp s g 8 (fun t =>
    let n := numMode t.status
    let v := fun r => decF n o.ty (t.rg r).toNat
    let mode := rmOf t o.md
    let (ds, t) := drawsFor t mode 1
    let ops := [v o.ra, v o.rb, v o.rc].take k
    let (p, fl) := fRes n o.ty mode (ds.headD 0) ops (f (mode == 2) (v o.ra) (v o.rb) (v o.rc))
    (t.wg o.rd (BitVec.ofNat 64 p)).raise fl)

/-- fadd (R277). -/
def execFadd (g : Guard) (o : OpR) (s : State) : Res := fltOp g o s 2 (fun rdn a b _ => fadd rdn a (if o.fn == 1 then b.neg else b))
/-- fmul (R277). -/
def execFmul (g : Guard) (o : OpR) (s : State) : Res := fltOp g o s 2 (fun _ a b _ => fmul a b)
/-- ffma (R277). -/
def execFfma (g : Guard) (o : OpR) (s : State) : Res := fltOp g o s 3 (fun rdn a b c => fFma rdn o.fn.toNat a b c)
/-- fdiv (R277). -/
def execFdiv (g : Guard) (o : OpR) (s : State) : Res := fltOp g o s 2 (fun _ a b _ => fdiv a b)
/-- fsqrt (R277). -/
def execFsqrt (g : Guard) (o : OpR) (s : State) : Res := fltOp g o s 1 (fun _ a _ _ => fsqrt a)

/-- fminmax (R278). -/
def execFminmax (g : Guard) (o : OpR) (s : State) : Res :=
  regOp s g 8 (fun t =>
    let (p, fl) := fMinMax (numMode t.status) o.ty (o.fn == 1) (t.rg o.ra).toNat (t.rg o.rb).toNat
    (t.wg o.rd (BitVec.ofNat 64 p)).raise fl)

/-- fcmp (R279). -/
def execFcmp (g : Guard) (o : OpR) (s : State) : Res :=
  regOp s g 8 (fun t =>
    let v := fun r => decF (numMode t.status) o.ty (t.rg r).toNat
    (t.wcond o.md[0] o.rd (fcmpCond o.fn.toNat (v o.ra) (v o.rb))).raise (cmpFlags o.fn.toNat (v o.ra) (v o.rb)))

/-- fcvt (R280). -/
def execFcvt (g : Guard) (o : OpR) (s : State) : Res :=
  regOp s g 8 (fun t =>
    let src := (Ty.ofCode (o.fn.toNat % 64)).getD .f32
    let mode := rmOf t o.md
    let x := (t.rg o.ra).toNat % 2 ^ src.width
    let n := numMode t.status
    let (ds, t) := drawsFor t mode 1
    let (p, fl) := cvt n src o.ty mode (ds.headD 0) x
    (t.wg o.rd (if o.ty.isInt then extT o.ty p else BitVec.ofNat 64 p)).raise fl)

end Sys2Proof.Machine
end

