-- ==== Sys2Proof/Machine/Sched.lean ====
section
/-! DEFINITION. The scheduler (R73 to R94): places, the dispatchers' decisions, pre-emption with its save records and spill images, the
start, resumption and end of crews, and the timers of regroup and yield. A step that is not enabled leaves the state as it is. -/
namespace Sys2Proof.Machine

/-! ### Places (R79, R80) -/

/-- The ring of a die's clusters (R80). -/
def ring : List Nat := [0, 4, 8, 12, 16, 20, 24, 28, 29, 30, 31, 27, 26, 25, 21, 22, 23, 19, 18, 17, 13, 14, 15, 11, 10, 9, 5, 6, 7, 3, 2, 1]
/-- Ring position of a cluster. -/
def ringPos (k : Nat) : Nat := (ring.findIdx? (· == k)).getD 0
/-- Cluster at a ring position. -/
def ringAt (i : Nat) : Nat := (ring[i % 32]?).getD 0

/-- COUNT of a domain; 1 where no level names it (R79). -/
def Launch.count (l : Launch) (dom : Nat) : Nat := ((l.levels.find? (fun x => x.domain == dom)).map (·.count)).getD 1

/-- The cluster instances of a node from its start cluster, dies outermost (R79). -/
def placeClusters (n : Node) : List Nat :=
  ((List.range (n.lrec.count 3)).map (fun j => (List.range (n.lrec.count 2)).map (fun i =>
    (n.die + j) % 4 * 32 + ringAt (ringPos n.k + i)))).flatten

/-- A node that holds slots: its crew is being loaded or runs. -/
def NodeState.placed : NodeState → Bool
  | .dispatched | .running => true
  | _ => false

/-- A crew holds a spill image, or is to write one, on core `q`: a spilled range or the record of a displaced thread (R87). -/
def Node.imageOn (n : Node) (q : Nat) : Bool := n.spill.contains q || n.kept.any (fun e => coreOf e.1 == q)

/-- Core `q` holds an image of context `c` that belongs to none of the listed crews (R87). -/
def imageHeld (s : State) (q c : Nat) (but : List Nat) : Bool :=
  s.nodes.any (fun e => !but.contains e.1 && ctxOf e.1 == c && e.2.imageOn q)

/-- A slot's thread of another crew than `id` could not be displaced: its context has an image on the core already (R87). -/
def slotBarred (s : State) (id th : Nat) : Bool :=
  let t := s.th th
  t.live && t.node != id && imageHeld s (coreOf th) t.ctx [t.node, id]

/-- Slots of core `q` that crews hold, those of `ex` not counted, or that node `id` may not take; an exited thread's slot is free (R289). -/
def usedSlots (s : State) (id q : Nat) (ex : List Nat) : List Nat :=
  (s.nodes.map (fun (id, n) =>
    if n.st.placed && !ex.contains id then
      (n.place.map (fun sh => if sh.q == q then
        sh.slots.filter (fun k => n.st == .dispatched || ((s.th (q * 4 + k)).node == id && (s.th (q * 4 + k)).live)) else [])).flatten
    else [])).flatten
    ++ (List.range 4).filter (fun k => slotBarred s id (q * 4 + k))

/-- Loft ranges of core `q` that crews hold, running, or pre-empted and not to be spilled, those of `ex` not counted (R79, R91). -/
def heldRanges (s : State) (q : Nat) (ex : List Nat) : List (Nat × Nat) :=
  (s.nodes.map (fun (id, n) =>
    if (n.st.placed || (n.st == .ready && n.preempted && !n.spill.contains q)) && !ex.contains id then
      (n.place.filter (fun sh => sh.q == q && sh.size != 0)).map (fun sh => (sh.base, sh.size))
    else [])).flatten

/-- Two byte ranges overlap. -/
def overlaps (a n b m : Nat) : Bool := n != 0 && m != 0 && a < b + m && b < a + n

/-- First fit of `n` bytes on core `q` (R79). -/
def firstFit (s : State) (q n : Nat) (ex : List Nat) : Option Nat :=
  let hs := heldRanges s q ex
  let ok := fun (o : Nat) => o + n ≤ ctxBase s q && !hs.any (fun h => overlaps o n h.1 h.2)
  ((0 :: hs.map (fun h => h.1 + h.2)).filter ok).foldl (fun m o => some (match m with | some x => min x o | none => o)) none

/-- The share of a crew that core `q` can take (R79); none while its REQ and CUR differ (R105). -/
def shareOn (s : State) (id q threads bytes : Nat) (ex : List Nat) : Option Share :=
  let used := usedSlots s id q ex
  let slots := ((List.range 4).filter (fun k => !used.contains k)).take threads
  if slots.length < threads || (s.core q).loftReq != (s.core q).loftCur then none
  else if bytes == 0 then some { q := q, slots := slots, base := 0, size := 0 }
  else (firstFit s q bytes ex).map (fun o => { q := q, slots := slots, base := o, size := bytes })

/-- The shares of a cluster instance: the lowest-numbered cores that can take one (R79). -/
def clusterShares (s : State) (id cl : Nat) (l : Launch) (ex : List Nat) : Option (List Share) :=
  let ok := ((List.range 8).filterMap (fun c => shareOn s id (cl * 8 + c) (l.threads + 1) (l.loft * 4096) ex)).take (l.count 1)
  if ok.length < l.count 1 then none else some ok

/-- A place for a node from its start cluster, the resources of `ex` counted as free (R79). -/
def newPlace (s : State) (id : Nat) (n : Node) (ex : List Nat) : Option (List Share) :=
  (placeClusters n).foldl (fun acc cl => match acc, clusterShares s id cl n.lrec ex with
    | some a, some b => some (a ++ b)
    | _, _ => none) (some [])

/-- A given place is free: its slots, and its ranges from every other crew; none of its cores has a REQ that differs from CUR (R105). -/
def placeFree (s : State) (id : Nat) (p : List Share) (ex : List Nat) : Bool :=
  p.all (fun sh => let used := usedSlots s id sh.q ex
    (s.core sh.q).loftReq == (s.core sh.q).loftCur && sh.slots.all (fun k => !used.contains k) && !(heldRanges s sh.q (id :: ex)).any (fun h => overlaps sh.base sh.size h.1 h.2))

/-- The free place of a READY node (R77, R90): the one chosen for it, its pinned one, or a new one. -/
def findPlace (s : State) (id : Nat) (ex : List Nat) : Option (List Share) :=
  let n := s.node id
  match n.chosen with
  | some p => if placeFree s id p ex then some p else none
  | none =>
    if n.preempted then (if placeFree s id n.place ex then some n.place else none) else newPlace s id n ex

/-- The cores of a node's candidate place (R77). -/
def candidateCores (n : Node) : List Nat :=
  if n.preempted then n.place.map (·.q)
  else ((placeClusters n).map (fun cl => (List.range 8).map (fun c => cl * 8 + c))).flatten

/-- A place touches what node `h` has reserved (R77): the chosen or pinned shares, or every core of the candidate place. -/
def touchesReserved (h : Node) (p : List Share) : Bool :=
  match h.chosen, h.preempted with
  | none, false => let c := candidateCores h; p.any (fun sh => c.contains sh.q)
  | ch, _ => (ch.getD h.place).any (fun r => p.any (fun sh => sh.q == r.q &&
      (sh.slots.any (fun k => r.slots.contains k) || overlaps sh.base sh.size r.base r.size)))

/-! ### The queues (R76, R84) -/

/-- Queue order: higher effective priority, then earlier ready time, then earlier acceptance (R76; DESIGN CHOICE, log 103). -/
def Node.ahead (a b : Node) : Bool :=
  a.ep > b.ep || (a.ep == b.ep && (a.readyAt < b.readyAt || (a.readyAt == b.readyAt && a.order < b.order)))

/-- Inserts by queue order. -/
def insertNode (e : Nat × Node) : List (Nat × Node) → List (Nat × Node)
  | [] => [e]
  | x :: l => if e.2.ahead x.2 then e :: x :: l else x :: insertNode e l

/-- The READY nodes of a dispatcher in order; those of a held session are left out (R406). -/
def readyList (s : State) (d : Nat) : List (Nat × Node) :=
  (s.nodes.filter (fun e => e.2.st == .ready && e.2.die == d && !sessionHeld s e.1)).foldl (fun l e => insertNode e l) []

/-- Brings a node's effective priority up to date (R84). -/
def refreshEp (s : State) (id : Nat) : State := let ep := epOf s id; s.modNode id (fun n => { n with ep := ep })

/-- Brings every effective priority up to date. -/
def refreshAll (s : State) : State :=
  let eps := (s.nodes.filter (fun e => !e.2.st.ended)).map (fun e => (e.1, epOf s e.1))
  eps.foldl (fun s e => s.modNode e.1 (fun n => { n with ep := e.2 })) s

/-- Thread slots of a place in the order of rank. -/
def crewOf (p : List Share) : List Nat := (p.map (fun sh => sh.slots.map (fun k => sh.q * 4 + k))).flatten

/-- A node takes its place (R73, R77): DISPATCHED. -/
def placeNode (s : State) (id : Nat) (p : List Share) : State :=
  s.modNode id (fun n => { n with
    st := .dispatched
    place := p
    crew := if n.preempted then n.crew else crewOf p
    readyClk := n.readyClk + (s.clock - n.readyAt)
    dispAt := s.clock
    chosen := none
    resv := false })

/-! ### Pre-emption (R85 to R87) -/

/-- Device virtual address of a byte of core `q`'s spill image (R87). -/
def spillAddr (s : State) (ctx q o : Nat) : Nat := (s.ctx ctx).spillbase.toNat + q * 524288 + o

/-- Every page of a spill range translates with write permission (R85). -/
def spillMapped (s : State) (ctx q base size : Nat) : Bool :=
  let a := spillAddr s ctx q base
  (List.range ((a + size - 1) / 65536 + 1 - a / 65536)).all (fun i =>
    match (translate s q ctx true (max a ((a / 65536 + i) * 65536)) .write).2 with | .ok _ => true | .error _ => false)

/-- A local home lies in a Loft range. -/
def inLoft (q base size k : Nat) : Bool := loftKey q base ≤ k && k < loftKey q base + size

/-- A get/put entry of core `c` targets a Loft range at its local end, or at the far end that is another core's Loft. -/
def gpTargets (c : Nat) (e : GpEntry) (q base size : Nat) : Bool :=
  let k := e.home c 0
  let far := loftKey (dieOf c * 256 + bits e.far 26 19) (e.far % 2 ^ 19)
  overlaps k e.len (loftKey q base) size || (e.kind == 2 && overlaps far e.len (loftKey q base) size)

/-- A job targets a Loft range. -/
def jobTargets (j : Job) (q base size : Nat) : Bool :=
  j.foot.any (fun r => r.loc && overlaps r.lo r.len (loftKey q base) size)

/-- Entries and jobs that satisfy `pg` and `pj` and target a Loft range. -/
def targeted (s : State) (q base size : Nat) (pg : GpEntry → Bool) (pj : Job → Bool) : Bool :=
  s.cores.any (fun (c, x) => x.gp.any (fun e => pg e && gpTargets c e q base size))
    || s.clusters.any (fun (_, x) => x.jobs.any (fun j => pj j && jobTargets j q base size))

/-- The cores where a victim's range overlaps a chosen place. -/
def mustSpill (v : Node) (p : List Share) : List Nat :=
  (v.place.filter (fun a => p.any (fun b => a.q == b.q && overlaps a.base a.size b.base b.size))).map (·.q)

/-- The last two conditions of R85 for a victim whose ranges on some cores must be spilled. -/
def spillOk (s : State) (id : Nat) (qs : List Nat) : Bool :=
  let v := s.node id
  let c := ctxOf id
  v.place.all (fun sh => !qs.contains sh.q ||
    (!imageHeld s sh.q c [id]
      && !targeted s sh.q sh.base sh.size (fun e => e.park.isSome) (fun j => j.park.isSome)
      && spillMapped s c sh.q sh.base sh.size))

/-- Candidates for a head of die `d` (R85), in the order of R86: ascending EP, most recently dispatched first. -/
def candidates (s : State) (d head : Nat) : List Nat :=
  let h := s.node head
  let gap := (s.die d).gap.toNat
  let cores := candidateCores h
  let l := s.nodes.filter (fun (id, n) => n.st == .running && !sessionHeld s id && n.victimOf.isNone && !n.failing && gap < 64 && n.ep + gap ≤ h.ep
    && n.place.any (fun sh => cores.contains sh.q && (sh.size != 0
      || sh.slots.any (fun k => (s.th (sh.q * 4 + k)).node == id && (s.th (sh.q * 4 + k)).live))))
  let before := fun (a b : Nat × Node) => decide (a.2.ep < b.2.ep) || (a.2.ep == b.2.ep && decide (b.2.dispAt < a.2.dispAt))
  let ins := fun (e : Nat × Node) (l : List (Nat × Node)) => l.takeWhile (fun x => !before e x) ++ [e] ++ l.dropWhile (fun x => !before e x)
  (l.foldl (fun acc e => ins e acc) []).map (·.1)

/-- The shortest prefix of the candidates that frees a place (R86). -/
def victimSet (s : State) (head : Nat) : List Nat → List Nat → Option (List Nat × List Share)
  | ex, [] => (findPlace s head ex).map (fun p => (ex, p))
  | ex, v :: l =>
    match findPlace s head ex with
    | some p => some (ex, p)
    | none => victimSet s head (ex ++ [v]) l

/-- The Loft ranges of the chosen place (R86): over bytes that no crew holds where that is possible. -/
def settleRanges (s : State) (head : Nat) (p : List Share) : List Share :=
  if (s.node head).preempted then p
  else p.map (fun sh => if sh.size == 0 then sh else match firstFit s sh.q sh.size [] with | some o => { sh with base := o } | none => sh)

/-- The first victim of a choice that cannot be spilled (R85): an earlier one of its context that is to be spilled on the same core
counts as an image there. -/
def unspillable (s : State) (p : List Share) : List Nat → List Nat → Option Nat
  | _, [] => none
  | before, v :: l =>
    let qs := mustSpill (s.node v) p
    let taken := before.any (fun u => ctxOf u == ctxOf v && (mustSpill (s.node u) p).any qs.contains)
    if !qs.isEmpty && (taken || !spillOk s v qs) then some v else unspillable s p (before ++ [v]) l

/-- PREEMPT_SELECT (R86): the place and the victims, starting again without a crew that cannot be spilled. -/
def selectVictims (s : State) (head : Nat) (cands : List Nat) : Nat → Option (List Nat × List Share)
  | 0 => none
  | fuel + 1 =>
    match victimSet s head [] cands with
    | none => none
    | some (vs, p) =>
      let p := settleRanges s head p
      match unspillable s p [] vs with
      | some v => selectVictims s head (cands.filter (· != v)) fuel
      | none => some (vs, p)

/-- A crew is chosen as a victim: its threads are to stop (R87). -/
def chooseVictim (s : State) (head v : Nat) (p : List Share) : State :=
  let s := s.modNode v (fun n => { n with victimOf := some head, spill := mustSpill n p })
  (s.node v).crew.foldl (fun s th => s.modTh th (fun t => if t.node == v && t.st == .running then { t with st := .stopping } else t)) s

/-- Pre-empts for a head that has no free place and no victims still stopping (R86). A place chosen before that is not free although no
victim of the head still stops is given up for a new one, where one can be found. -/
def preemptFor (s : State) (d head : Nat) : State :=
  if s.nodes.any (fun e => e.2.victimOf == some head) then s
  else
    let fresh := s.modNode head (fun n => { n with chosen := none })
    let cands := candidates fresh d head
    match selectVictims fresh head cands (cands.length + 1) with
    | none => s
    | some (vs, p) =>
      if vs.isEmpty then s
      else vs.foldl (fun s v => chooseVictim s head v p) (s.modNode head (fun n => { n with chosen := some p }))

/-- Places a node if its place is free and touches nothing that the nodes of `barred` have reserved (R77). -/
def tryPlace (s : State) (id : Nat) (barred : List Nat) : State × Bool :=
  match findPlace s id [] with
  | none => (s, false)
  | some p => if barred.any (fun h => h != id && touchesReserved (s.node h) p) then (s, false) else (placeNode s id p, true)

/-- A READY node's start cluster moves on (R81), but for a node that is pinned, or whose place has been chosen. -/
def moveStart (s : State) (node : Nat) : State :=
  let n := s.node node
  let spill := (n.lrec.levels.any (fun x => x.domain == 2 && x.spill)) && n.lrec.count 3 != 4
  if n.st == .ready && !n.preempted && n.chosen.isNone then
    s.modNode node (fun n => { n with
      k := ringAt (ringPos n.k + 1)
      moves := n.moves + 1
      movedAt := s.clock
      die := if spill && (n.moves + 1) % 32 == 0 then (n.die + 1) % 4 else n.die })
  else s

/-- DISPATCH_DECISION (R77): a dispatcher's decision. -/
def execDispatchDecision (die : Nat) (s : State) : Res :=
  .next (if !s.dispatch then s
    else
      let s := refreshAll s
      -- a former head keeps the reservation of the place that pre-emption has chosen for it
      let s := { s with nodes := tmap (fun _ n => if n.die == die then { n with resv := n.chosen.isSome } else n) s.nodes }
      let heads := fun (s : State) => (s.nodes.filter (fun e => e.2.resv && e.2.st == .ready)).map (·.1)
      match readyList s die with
      | [] => s
      | (h, hn) :: rest =>
        let (s, ok) := tryPlace s h ((heads s).filter (fun x => (s.node x).chosen.isSome || (s.node x).ahead hn))
        let s := if ok then s else preemptFor (s.modNode h (fun n => { n with resv := true })) die h
        let s := rest.foldl (fun s e => (tryPlace s e.1 (heads s)).1) s
        -- a delay of 0 moves the start cluster of every node that this decision has left without a place (R81, R95)
        if (s.die die).spilldly == 0 then (readyList s die).foldl (fun s e => moveStart s e.1) s else s)

/-! ### Pool events -/

/-- NODE_READY (R73, R74). -/
def execNodeReady (node : Nat) (s : State) : Res :=
  let n := s.node node
  .next (if !nodeKept s node || n.st != .waiting then s
    else if !n.lrec.contfail && n.lrec.pred.any (predFailed s) then finishNode s node .cancelled 0
    else if n.lrec.pred.all (predEnded s) then makeReady s node
    else s)

/-- EP_UPDATE (R84). -/
def execEpUpdate (node : Nat) (s : State) : Res := .next (if nodeKept s node && !(s.node node).st.ended then refreshEp s node else s)

/-- START_CLUSTER_MOVE (R81): after sr.SPILLDLY clk at one start cluster; with a delay of 0 the decision itself moves it (R95). -/
def execStartClusterMove (node : Nat) (s : State) : Res :=
  let n := s.node node
  let dly := (s.die n.die).spilldly.toNat
  .next (if nodeKept s node && dly != 0 && n.movedAt + dly ≤ s.clock then moveStart s node else s)

/-! ### Save records (R87, R212) -/

/-- Local home of a slot's save record. -/
def recordHome (s : State) (th : Nat) : Nat := loftKey (coreOf th) (ctxBase s (coreOf th) + slotOf th * 0xC00)

/-- The bytes of a loop nest; the word at 0x34 holds ACTIVE in bit 0 and esize above it (R287). -/
def Nest.bytes (n : Nest) : List Byte :=
  let four := fun (l : List Nat) (k : Nat) => ((List.range k).map (fun i => natToBytes 4 ((l[i]?).getD 0))).flatten
  natToBytes 8 n.base.toNat ++ four n.n 4 ++ four n.i 4 ++ four n.s 3 ++ natToBytes 4 (b2n n.active + 2 * n.esize) ++ List.replicate 8 0

/-- A save record (R212); `rbt` is where control goes on behind a delay slot (R209). -/
def saveRecord (t : Thread) (rbt : Word) : List Byte :=
  let w := fun (x : Word) => natToBytes 8 x.toNat
  ((List.range 32).map (fun i => w (t.rg (BitVec.ofNat 5 i)))).flatten
    ++ ((List.range 32).map (fun i => natToBytes 64 (t.rv (BitVec.ofNat 5 i)).toNat)).flatten
    ++ ((List.range 8).map (fun i => w (t.rp i))).flatten
    ++ ((List.range 16).map (fun i => w (t.rh i).token)).flatten
    ++ w t.pc ++ w (BitVec.ofNat 64 (b2n (t.slot != .plain) + 8 * b2n t.resWait)) ++ w rbt ++ w t.status
    ++ w t.epc ++ w t.ebt ++ w t.estat ++ w t.ecause ++ w t.einfo ++ w t.utvec ++ w t.umask ++ w t.dlcount
    ++ w t.rxbase ++ w t.rxsize ++ w t.rxhead ++ w t.rxtail
    ++ t.nest.bytes ++ w t.rngkey ++ natToBytes 16 t.rngctr.toNat ++ List.replicate 8 0
    ++ List.replicate 32 0 ++ List.replicate 288 0 ++ List.replicate 32 0

/-- A loop nest from its bytes. -/
def nestOf (bs : List Byte) : Nest :=
  let four := fun (o k : Nat) => (List.range k).map (fun i => fld bs (o + 4 * i) 4)
  if zeroFld bs 0 64 then {}
  else { base := BitVec.ofNat 64 (fld bs 0 8), n := four 8 4, i := four 24 4, s := four 40 3, esize := bits (fld bs 52 4) 8 1, active := bit (fld bs 52 4) 0 }

/-- A thread as its save record gives it back (R90, R212): SFU results that came late are written to their registers; the tail of its
ring is where messages have moved it (R88), and its count of dead letters has gone on (R214). The slot of an untaken branch stays one
(R208). -/
def loadRecord (s : State) (t : Thread) (bs : List Byte) : Thread :=
  let w := fun (o : Nat) => BitVec.ofNat 64 (fld bs o 8)
  let rstat := fld bs 0x9C8 8
  let t := { t with
    g := []
    v := []
    p := []
    pc := w 0x9C0
    slot := if !bit rstat 0 then .plain else if t.slot == .untaken then .untaken else .taken (w 0x9D0)
    resWait := bit rstat 3
    status := w 0x9D8
    epc := w 0x9E0
    ebt := w 0x9E8
    estat := w 0x9F0
    ecause := w 0x9F8
    einfo := w 0xA00
    utvec := w 0xA08
    umask := w 0xA10
    rxbase := w 0xA20
    rxsize := w 0xA28
    rxhead := w 0xA30
    nest := nestOf ((bs.drop 0xA40).take 64)
    rngkey := w 0xA80
    rngctr := BitVec.ofNat 128 (fld bs 0xA88 16) }
  let t := (List.range 32).foldl (fun t i => t.wg (BitVec.ofNat 5 i) (w (8 * i))) t
  let t := (List.range 32).foldl (fun t i => t.wv (BitVec.ofNat 5 i) (BitVec.ofNat 512 (fld bs (0x100 + 64 * i) 64))) t
  let t := (List.range 8).foldl (fun t i => t.wp i (w (0x900 + 8 * i))) t
  let t := (List.range 16).foldl (fun t i => t.wh i ((handleOfToken s t.ctx (w (0x940 + 8 * i))).getD (t.rh i))) t
  (List.range 4).foldl (fun t i =>
    let o := 0xAC0 + 72 * i
    if bit (fld bs o 1) 0 then t.wv (BitVec.ofNat 5 (bits (fld bs o 1) 5 1)) (BitVec.ofNat 512 (fld bs (o + 8) 64)) else t) t

/-- The save record in a slot's area. -/
def recordOf (s : State) (th : Nat) : List Byte := locRead s (recordHome s th) 0xC00

/-- A thread of a victim may stop: no packet is open, and what its instruction has begun with another unit is over (R87, R212). -/
def mayStop (t : Thread) : Bool :=
  t.pkt.isNone && !t.sub && t.bar.isNone && !(1 ≤ t.prog && t.prog ≤ 3) && t.prog != 8 && (match t.wire with | some w => w.result.isNone | none => true)

/-- The crew has stopped with its last thread (R73): READY, its place pinned. -/
def crewStopped (s : State) (id : Nat) : State :=
  let n := s.node id
  let live := n.crew.filter (fun th => (s.th th).node == id && (s.th th).live)
  if n.st == .running && !n.failing && n.victimOf.isSome && !live.isEmpty && live.all (fun th => (s.th th).st == .stopped) then
    let s := (n.place.map (fun sh => dieOf sh.q)).eraseDups.foldl (fun s d => s.modDie d (fun x => { x with preempts := x.preempts + 1 })) s
    s.modNode id (fun n => { n with st := .ready, preempted := true, victimOf := none, readyAt := s.clock, movedAt := s.clock })
  else s

/-- RPC and RBT of the acting thread where it stops (R209, R238): RPC names no PAD word; behind an untaken branch control goes on after the
slot. -/
def stopPlace (s : State) : State × Word × Word :=
  let t := s.me
  let q := coreOf s.cur
  let (s, a) := nextInstr s q t.ctx t.sup t.pc.toNat
  match t.slot with
  | .plain => (s, BitVec.ofNat 64 a, 0)
  | .taken x => (s, BitVec.ofNat 64 a, x)
  | .untaken => let (s, r) := returnAddr s q t.ctx t.sup a; (s, BitVec.ofNat 64 a, r)

/-- RPC and RBT of a thread that stops. -/
def resumeAt (s : State) (th : Nat) : State × Word × Word :=
  let (s', a, b) := stopPlace { s with cur := th }
  ({ s' with cur := s.cur }, a, b)

/-- A thread's reads, writes and atomics are all performed and have returned. -/
def settled (s : State) (th : Nat) : Bool := (s.th th).pend.isEmpty && (s.th th).sb.isEmpty && sackOf s th == 0

/-- Brings a thread's reads, writes and atomics to their ends, as far as no peer's answer is awaited. -/
def settleThread (s : State) (th : Nat) : State :=
  let s := drainAll (readsAll s th) th
  if (s.th th).pend.isEmpty then s else nmuDrain (chuteFlush s (coreOf th))

/-- A victim's thread stops (R87, R88, R212): its reads and stores are performed, an arrival at a wire barrier is withdrawn, and its
context is saved. -/
def stopThread (s : State) (th : Nat) : State :=
  let s := settleThread s th
  let s := if (s.th th).wire.isSome then wireDone s (wireCorner s (coreOf th)) else s
  let t := s.th th
  if t.st != .stopping || (s.node t.node).failing || !mayStop t || !settled s th then s
  else
    let (s, rpc, rbt) := resumeAt s th
    let s := s.modTh th (fun t => { t with pc := rpc })
    let s := s.modTh th (fun t => { t with wire := none, regroup := none, clkWait := none, yieldTo := none, got := [], fbuf := [] })
    let s := wireSettle s (coreOf th)
    let s := s.modClus (clusOf (coreOf th)) (fun c => { c with claims := c.claims.filter (fun x => x.th != th) })
    let s := locWrite s (recordHome s th) ((saveRecord (s.th th) rbt).map some)
    crewStopped (s.modTh th (fun t => { t with st := .stopped })) (s.th th).node

/-- THREAD_STOP (R73, R87): a thread that is to stop does so at its boundary; one of a faulted crew ends there. -/
def execThreadStop (th : Nat) (s : State) : Res :=
  let t := s.th th
  .next (if t.st != .stopping then s
    else if (s.node t.node).failing then threadEnds s th
    else if mayStop t then stopThread s th else s)

/-- Writes a spill image's bytes: uncharged, under key slot 0 (R87). -/
def spillPut (q ctx o : Nat) (bs : List Byte) : J PUnit := do
  let a := spillAddr (← get) ctx q o
  for (v, m) in outPieces a bs.length do
    let (pa, pg) ← jTranslate { q := q, ctx := ctx, sup := true } v .write
    modify (fun s => writeHome s q (piece pa ((bs.drop (v - a)).take m) { pg with key := 0 } false false))

/-- Reads a spill image's bytes under key slot 0. -/
def spillGet (q ctx o n : Nat) : J (List Byte) := do
  let mut out := []
  for (v, m) in wordPieces (spillAddr (← get) ctx q o) n do
    let (pa, pg) ← jTranslate { q := q, ctx := ctx, sup := true } v .read
    match ← jpick (fun s => homeRead (fwdWait s (dieOf q) (pa / 32)) pa m pg.ctx 0 pg.cls) with
    | some bs => out := out ++ bs
    | none => jfail cPOISON 0
  return out

/-- SPILL_WRITE (R87): a stopped victim's range on a core goes to its image once no fill, drain, job or entry targets it. -/
def execSpillWrite (node q : Nat) (s : State) : Res :=
  let n := s.node node
  .next (match n.place.find? (fun sh => sh.q == q) with
    | none => s
    | some sh =>
      let tiles := (s.core q).tiles.any (fun e => (e.2.st == 1 || e.2.st == 3) && sh.base ≤ e.2.base * 64 && e.2.base * 64 < sh.base + sh.size)
      if n.st == .ready && n.preempted && n.spill.contains q && !n.imaged.contains q && !tiles
          && !targeted s q sh.base sh.size (fun _ => true) (fun j => j.result.isNone)
          && !s.nodes.any (fun e => e.1 != node && ctxOf e.1 == ctxOf node && e.2.imaged.contains q) then
        match (spillPut q (ctxOf node) sh.base (locRead s (loftKey q sh.base) sh.size)).run s with
        | (.ok _, s) => s.modNode node (fun n => { n with imaged := q :: n.imaged })
        | (.error _, s) => s
      else s)

/-! ### Crews start, go on and end -/

/-- A slot's stopped thread of another crew makes room (R87): its late results arrive, its record goes to its image. -/
def displace (s : State) (th id : Nat) : State :=
  if (s.th th).st == .stopped && (s.th th).node != id then
    let s := sfuFlush s th
    let t := s.th th
    let q := coreOf th
    let bs := recordOf s th
    let kept := loadRecord s t bs
    let s := ((spillPut q t.ctx (ctxBase s q + slotOf th * 0xC00) bs).run s).2
    (s.modNode t.node (fun n => { n with kept := tset {} n.kept th kept })).setTh th {}
  else s

/-- A thread of a node runs on a core (R108): sr.LSEPOCH counts a change of node. -/
def epochOn (s : State) (q id : Nat) : State :=
  s.modCore q (fun c => if c.lastNode == id then c else { c with lastNode := id, lsepoch := c.lsepoch + 1 })

/-- A thread's start state (R83, R341). -/
def startThread (id : Nat) (l : Launch) (sh : Share) (rank t : Nat) (gen : Nat) : Thread :=
  let ls := l.levels
  let sp := 0xFF00000000000000 + sh.base + sh.size / (l.threads + 1) / 64 * 64 * (t + 1)
  let x : Thread := {
    st := .running
    gen := BitVec.ofNat 16 gen
    node := id
    rank := rank
    rngkey := BitVec.ofNat 64 (rank % 2 ^ 32 * 2 ^ 32 + id % 2 ^ 32)
    pc := l.entry
    idx := (List.range ls.length).map (fun j => rank / instSize ls j % ((ls[j]?).map (·.count)).getD 1) }
  ((x.wg 1 l.arg).wg 2 (BitVec.ofNat 64 rank)).wg 31 (if l.loft == 0 then 0 else BitVec.ofNat 64 sp)

/-- A node's place has been left: no Loft range that another crew has still to write to its image overlaps it (R87). -/
def placeClear (s : State) (node : Nat) : Bool :=
  (s.node node).place.all (fun sh => !s.nodes.any (fun e =>
    e.1 != node && e.2.st == .ready && e.2.preempted && e.2.spill.contains sh.q && !e.2.imaged.contains sh.q
      && e.2.place.any (fun v => v.q == sh.q && overlaps v.base v.size sh.base sh.size)))

/-- A crew comes to the clusters of its place: the instruction cache of a cluster where no other crew of its context runs drops that
context's blocks (R99). -/
def freshFetch (s : State) (node : Nat) : State :=
  let c := ctxOf node
  let busy := fun (cl : Nat) => s.nodes.any (fun e => e.1 != node && ctxOf e.1 == c && e.2.st == .running
    && e.2.place.any (fun sh => clusOf sh.q == cl))
  ((((s.node node).place.map (fun sh => clusOf sh.q)).eraseDups).filter (fun cl => !busy cl)).foldl (fun s cl =>
    dropBlocks s cl (fun x _ => x == c)) s

/-- The writes that ended threads have left in a crew's slots drain before the crew takes them (R181). -/
def clearSlots (s : State) (node : Nat) : State := (s.node node).crew.foldl drainAll s

/-- Every write left in a crew's slots has been accepted. -/
def slotsClear (s : State) (node : Nat) : Bool := (s.node node).crew.all (fun th => (s.th th).sb.isEmpty && sackOf s th == 0)

/-- CREW_START (R83, R73): the crew of a DISPATCHED node that has not run is loaded and starts. -/
def execCrewStart (node : Nat) (s : State) : Res :=
  let n := s.node node
  .next (if n.st != .dispatched || n.preempted || !placeClear s node then s
    else if !slotsClear s node then clearSlots s node
    else
      let s := n.crew.foldl (fun s th => displace s th node) (freshFetch s node)
      let s := n.crew.zipIdx.foldl (fun s (th, rank) =>
        let q := coreOf th
        let gen := (tget 0 (s.core q).gens (slotOf th) + 1) % 65536
        let sh := (n.place.find? (fun x => x.q == q)).getD { q := q, slots := [], base := 0, size := 0 }
        let t := (sh.slots.findIdx? (· == slotOf th)).getD 0
        let s := epochOn (s.modCore q (fun c => { c with gens := tset 0 c.gens (slotOf th) gen })) q node
        acquireSteps (s.setTh th (startThread node n.lrec sh rank t gen)) q .device) s
      s.modNode node (fun n => { n with st := .running, gone := [] }))

/-- The threads of a crew as they resume (R90, R212): a displaced one from the record in its image, one that has kept its slot from the
record in the core's save-record area. -/
def restored (s : State) (node : Nat) : State × List (Nat × Thread) :=
  let n := s.node node
  n.crew.zipIdx.foldl (fun (s, l) (th, rank) =>
    if n.gone.contains rank then (s, l)
    else
      match n.kept.find? (fun e => e.1 == th) with
      | none => (s, l ++ [(th, loadRecord s (s.th th) (recordOf s th))])
      | some (_, t) =>
        match (spillGet (coreOf th) (ctxOf node) (ctxBase s (coreOf th) + slotOf th * 0xC00) 0xC00).run s with
        | (.ok bs, s) => (s, l ++ [(th, loadRecord s t bs)])
        | (.error _, s) => (s, l ++ [(th, t)])) (s, [])

/-- CREW_REFILL_RESTORE (R90): spilled ranges are refilled, then records restored, then the image is free, and the crew goes on; none while
R16 holds dispatch stopped (R77). -/
def execCrewRefillRestore (node : Nat) (s : State) : Res :=
  let n := s.node node
  .next (if n.st != .dispatched || !n.preempted || !s.dispatch || !placeClear s node then s
    else if !slotsClear s node then clearSlots s node
    else
      let s := n.place.foldl (fun s sh =>
        if n.imaged.contains sh.q then
          match (spillGet sh.q (ctxOf node) sh.base sh.size).run s with
          | (.ok bs, s) => locWrite s (loftKey sh.q sh.base) (bs.map some)
          | (.error _, s) => s
        else s) s
      -- the crew's own image is read before the slots' other threads write theirs
      let (s, ts) := restored s node
      let s := n.crew.foldl (fun s th => displace s th node) (freshFetch s node)
      let s := ts.foldl (fun s (th, t) => epochOn (s.setTh th { t with st := .running }) (coreOf th) node) s
      s.modNode node (fun n => { n with st := .running, preempted := false, spill := [], imaged := [], kept := [] }))

/-- Nothing that a crew has submitted is outstanding (R289, R349): jobs of the cluster units, get/put entries, range walks, key
operations. -/
def crewQuiet (s : State) (id : Nat) : Bool :=
  !s.clusters.any (fun e => e.2.jobs.any (fun j => j.node == id)) && !s.cores.any (fun e => e.2.gp.any (fun g => g.node == id))
    && !s.dies.any (fun e => e.2.walks.any (fun w => w.node == id))
    && !s.mgmt.keyOps.any (fun k => k.ref.isSome && k.node == id)
    && !s.mgmt.slots.any (fun e => e.2.waits.any (fun w => w.2 == id))

/-- Every thread of a crew has ended. -/
def crewGone (n : Node) : Bool := (List.range n.crew.length).all (fun r => n.gone.contains r)

/-- NODE_END (R60, R73, R289): with every thread, job and entry over, the Chute rounds of its cores close and the node ends; a completion
record that is still owed is tried again. -/
def execNodeEnd (node : Nat) (s : State) : Res :=
  let n := s.node node
  .next (if n.st.ended && n.owed then writeCompletion s node
    else if n.st == .running && crewGone n && crewQuiet s node then
      let s := crewDrain s node
      if (ownSlots s node).any (fun th => !(s.th th).sb.isEmpty || sackOf s th != 0) then s
      else
      let s := finishNode (releaseClaims s node) node (if n.failing then .faulted else .done) (if n.failing then n.cause else 0)
      freePlace s node
    else s)

/-! ### Timers of threads -/

/-- REGROUP_TIMEOUT (R100): 512 clk after a thread was held. -/
def execRegroupTimeout (th : Nat) (s : State) : Res :=
  .next (match (s.th th).regroup with
    | some t => if ((s.th th).st == .running || (s.th th).st == .stopping) && t + 512 ≤ s.clock then asThread s th (fun s => s.retireWith 8 (fun t => { t with regroup := none })) else s
    | none => s)

/-- Another thread of the core could issue. -/
def otherReady (s : State) (th : Nat) : Bool :=
  (List.range 4).any (fun k => let x := s.th (coreOf th * 4 + k); k != slotOf th && x.st == .running && !heldByZdb s (coreOf th * 4 + k) && !x.waits && x.yieldTo.isNone)

/-- YIELD_EXPIRE (R288): after 4 clk, or when no other thread of the core is ready. -/
def execYieldExpire (th : Nat) (s : State) : Res :=
  .next (match (s.th th).yieldTo with
    | some t => if t ≤ s.clock || !otherReady s th then s.modTh th (fun x => { x with yieldTo := none }) else s
    | none => s)

end Sys2Proof.Machine
end

