-- ==== Sys2Proof/Machine/Stream.lean ====
section
/-! DEFINITION. Streamed instructions (R334 to R337), exact sampling (R342) and the grammar tables (R343 to R345). -/
namespace Sys2Proof.Machine

/-- The element types an operation of xop accepts (R321, R323). -/
def xopTyOk (vopc vfn : Nat) (t : Ty) : Bool :=
  match vopc with
  | 0x70 | 0x71 | 0x73 | 0x74 | 0x75 => t.isArith
  | 0x72 => if vfn == 1 then t.isVInt else t.isArith
  | 0x76 => if vfn ≤ 1 then t.isArith else if vfn ≤ 4 then t.isVInt else t.isFloat
  | 0x7F => t.inCvt && t.width ≤ 32
  | _ => t.isVInt

/-- Raises ILLEGAL with an instruction's first word (R240). -/
def illegal (i : Instr) : M PUnit := raise cILLEGAL (firstWord i).toNat

/-- xop (R334). -/
def execXop (g : Guard) (o : OpJ) (s : State) : Res :=
  scalarOp s g 16 none false (work (do
    let t ← me
    let r := OpJ.addr t o
    let vopc := (o.aux0.extractLsb' 0 8).toNat
    let vfn := (o.aux0.extractLsb' 8 8).toNat
    let vmod : BitVec 8 := o.aux0.extractLsb' 16 8
    let unary := vopc == 0x76 || vopc == 0x7F
    let two := unary || o.fn == 1
    let src := (Ty.ofCode vfn).getD .f32
    let xs ← streamShapes r (if two then 2 else 3) (fun xs => do
      match xs with
      | d :: l =>
        demand (xopTyOk vopc vfn d.ty) cADDR r.toNat
        for (x, i) in l.zipIdx do
          demand (x.n == d.n && x.ty == (if vopc == 0x7F then src else d.ty)) cADDR (r + BitVec.ofNat 64 (64 * (i + 1))).toNat
        let ints := d.ty.isInt && (vopc != 0x7F || src.isInt)
        if (ints && vmod.extractLsb' 0 4 != 0#4) || (!d.ty.isInt && vmod[4]) then illegal (.xop g o)
      | [] => pure ⟨⟩)
    match xs with
    | d :: a :: rest =>
      let n := numMode t.status
      let rounds := if vopc == 0x7F then !(src.isInt && d.ty.isInt)
        else isF d.ty && (vopc ≤ 0x73 || (vopc == 0x76 && vfn == 5))
      let mode := if rounds then rmOf t vmod else 0
      let (ds, t') := drawsFor t mode d.count
      let s ← get
      let (s, fl) := (List.range d.count).foldl (fun (acc : State × Flags) k =>
        let i := d.tuple k
        let x := a.get acc.1 i
        let y := match rest with | b :: _ => b.get acc.1 i | [] => o.aux1.toNat % 2 ^ d.ty.width
        let z := if vopc == 0x73 then d.get acc.1 i else 0
        let (v, f) := if vopc == 0x7F then cvtVal n src d.ty mode ((ds[k]?).getD 0) vmod[4] x
          else elemVal n d.ty vopc vfn mode ((ds[k]?).getD 0) vmod[4] x y z
        (d.put acc.1 i v, acc.2 ||| f)) (s, 0)
      set s
      done 16 (fun t => ({ t with rngctr := t'.rngctr }).raise fl)
    | _ => done 16 id))

/-- The values of row `k` of a shape: the tuples (j, i1, i2, i3) of one outer tuple. -/
def Shape.row (x : Shape) (outer : List Nat) : List (List Nat) := (List.range (x.n.headD 0)).map (fun j => j :: outer)

/-- xred (R335). -/
def execXred (g : Guard) (o : OpJ) (s : State) : Res :=
  scalarOp s g 16 none false (work (do
    let t ← me
    let r := OpJ.addr t o
    let op := o.fn.toNat % 8
    let byRow := o.fn[3]
    let sat := o.aux0[4]
    let n := numMode t.status
    let okTy := fun (ty : Ty) => if op ≤ 2 then ty.isArith else ty.isVInt
    let md : BitVec 8 := o.aux0.extractLsb' 0 4 |>.setWidth 8
    if byRow then
      let xs ← streamShapes r 2 (fun xs => do
        match xs with
        | [d, a] =>
          demand (okTy d.ty) cADDR r.toNat
          demand (a.ty == d.ty) cADDR (r + 64).toNat
          demand (d.n.headD 0 == 1 && d.n.drop 1 == a.n.drop 1) cADDR (r + 64).toNat
        | _ => pure ⟨⟩)
      match xs with
      | [d, a] =>
        let mode := if isF d.ty && op == 0 then rmOf t md else 0
        let (ds, t') := drawsFor t mode d.count
        let s ← get
        let (s, fl) := (List.range d.count).foldl (fun (acc : State × Flags) k =>
          let i := d.tuple k
          let l := (a.row (i.drop 1)).map (fun j => a.get acc.1 j)
          let (v, f) := if isF d.ty then redFloat n d.ty op mode ((ds[k]?).getD 0) l
            else if op == 0 then iRes d.ty sat ((l.map (valT d.ty)).foldl (· + ·) 0)
            else (l.foldl (redStep d.ty op) (redIdent d.ty op), 0)
          (d.put acc.1 i v, acc.2 ||| f)) (s, 0)
        set s
        done 16 (fun t => ({ t with rngctr := t'.rngctr }).raise fl)
      | _ => done 16 id
    else
      let xs ← streamShapes r 1 (fun xs => do
        match xs with
        | [a] => demand (okTy a.ty) cADDR r.toNat
        | _ => pure ⟨⟩)
      match xs with
      | [a] =>
        let mode := if isF a.ty && op == 0 then rmOf t md else 0
        let (ds, t') := drawsFor t mode 1
        let s ← get
        let l := (List.range a.count).map (fun k => a.get s (a.tuple k))
        let (x, fl) := redG n a.ty op mode (ds.headD 0) l
        done 16 (fun t => (({ t with rngctr := t'.rngctr }).wg o.rd x).raise fl)
      | _ => done 16 id))

/-- xscan (R336): each row is one segment. -/
def execXscan (g : Guard) (o : OpJ) (s : State) : Res :=
  scalarOp s g 16 none false (work (do
    let t ← me
    let r := OpJ.addr t o
    let op := o.fn.toNat % 4
    let excl := o.fn[2]
    let sat := o.aux0[4]
    let n := numMode t.status
    let md : BitVec 8 := o.aux0.extractLsb' 0 4 |>.setWidth 8
    let xs ← streamShapes r 2 (fun xs => do
      match xs with
      | [d, a] =>
        demand d.ty.isArith cADDR r.toNat
        demand (a.ty == d.ty && a.n == d.n) cADDR (r + 64).toNat
      | _ => pure ⟨⟩)
    match xs with
    | [d, a] =>
      let mode := if isF d.ty && op == 0 then rmOf t md else 0
      -- a draw for each step that rounds: all but the first of a row
      let n0 := d.n.headD 0
      let (ds, t') := drawsFor t mode (if n0 == 0 then 0 else d.count - d.count / n0)
      let s ← get
      let (s, fl, _) := (List.range d.count).foldl (fun (acc : State × Flags × Nat) k =>
        let i := d.tuple k
        let y := a.get acc.1 i
        let head := k % n0 == 0
        let before := if head then redIdent d.ty op else acc.2.2
        let (after, f) := if head then (y, 0)
          else scanStep n d.ty op mode ((ds[k - k / n0 - 1]?).getD 0) sat before y
        (d.put acc.1 i (if excl then before else after), acc.2.1 ||| f, after)) (s, 0, 0)
      set s
      done 16 (fun t => ({ t with rngctr := t'.rngctr }).raise fl)
    | _ => done 16 id))

/-- Checks a local range of `n` bytes for a load or store (R201, R293): its window, then R103; the answer is its home. -/
def localRange (va n align : Nat) : M Nat := do
  remoteRange va n
  demand (va % align == 0) cALIGN va
  demand (isLocal va) cADDR va
  if n == 0 then return 0
  let s ← get
  let t := s.me
  liftChk (localCheck s (coreOf s.cur) t.ctx t.sup va n)

/-- The largest unbiased exponent of R342: −126 for a subnormal. -/
def expOf (v : FVal) : Int := max (-126) (log2v v)

/-- The choice of R342 from the legal weights in order: none when no weight is positive. The flags tell an invalid weight. -/
def sampleOf (ws : List (Bool × FVal)) (u : Nat) : Option Nat × Flags :=
  let bad := fun (v : FVal) => !v.isFin || (v.isNeg && !v.isZero)
  let inv := ws.any (fun w => w.1 && bad w.2)
  let vs := ws.map (fun w => if w.1 && !bad w.2 && !w.2.isZero then some w.2 else none)
  let es := vs.filterMap (·.map expOf)
  match es with
  | [] => (none, if inv then flINV else 0)
  | e :: l =>
    let emax := l.foldl max e
    let q := fun (v : Option FVal) => match v with
      | some (.fin _ m x) => let k := x + 24 - emax; if k ≥ 0 then m * 2 ^ k.toNat else m / 2 ^ (-k).toNat
      | _ => 0
    let qs := vs.map q
    let t := u * qs.foldl (· + ·) 0 / 2 ^ 32
    let sums := (qs.foldl (fun (acc : List Nat × Nat) x => (acc.1 ++ [acc.2 + x], acc.2 + x)) ([], 0)).1
    (sums.findIdx? (fun x => x > t), if inv then flINV else 0)

/-- sample (R342). -/
def execSample (g : Guard) (o : OpR) (s : State) : Res :=
  scalarOp s g 8 none false (work (do
    let t ← me
    let wa := (t.rg o.ra).toNat
    let ba := (t.rg o.rb).toNat
    let n := (t.rg o.rc).toNat % 2 ^ 32
    let u := (t.rg o.rc).toNat / 2 ^ 32
    remoteCheck wa
    if o.rb != 0 then remoteCheck ba
    demand (wa % 4 == 0) cALIGN wa
    demand (o.rb == 0 || ba % 64 == 0) cALIGN ba
    demand (n ≤ 262144) cADDR wa
    let k ← localRange wa (4 * n) 4
    let b ← if o.rb == 0 then pure 0 else localRange ba ((n + 7) / 8) 64
    settleLocal
    let s ← get
    let ws := (List.range n).map (fun i =>
      (o.rb == 0 || bit (bytesToNat (locRead s (b + i / 8) 1)) (i % 8), f32v (bytesToNat (locRead s (k + 4 * i) 4))))
    let pf := o.fn.toNat % 8
    match sampleOf ws u with
    | (some i, f) => done 8 (fun t => ((t.wg o.rd (BitVec.ofNat 64 i)).wp pf (BitVec.allOnes 64)).raise f)
    | (none, f) => done 8 (fun t => ((t.wg o.rd 0xFFFFFFFF).wp pf 0).raise f)))

/-- One of the dependent reads of an instruction: the bytes that it has returned in an earlier turn, or its performance; before a later one
the instruction may stop, by choice, and go on in a later turn. -/
def stepRead (m : M (List Byte)) : M (List Byte) := do
  let t ← me
  match t.got[t.gotAt]? with
  | some bs =>
    modify (fun s => s.modMe (fun t => { t with gotAt := t.gotAt + 1 }))
    return bs
  | none =>
    if t.gotAt != 0 && (← pick (fun s => choose s 2)) == 1 then hold
    let bs ← m
    modify (fun s => s.modMe (fun t => { t with got := t.got ++ [bs], gotAt := t.gotAt + 1 }))
    return bs

/-- Reads `n` bytes by ordinary reads, word by word (R182, R201). -/
def readBytes (va n : Nat) (rq : Rq) (span : Nat) : Nat → M (List Byte)
  | 0 => pure []
  | fuel + 1 => do
    if n == 0 then return []
    let k := min n (32 - va % 32)
    let bs ← stepRead (do
      remoteCheck va
      demand (rq != .loc || isLocal va) cADDR va
      let pl ← resolve va k false
      return (← readNow [{ dst := 0, n := k, va := va, pl := pl }] rq none span).map (·.2))
    let rest ← readBytes (va + k) (n - k) rq span fuel
    return bs ++ rest

/-- An instruction with dependent reads begins its turn: the values of its earlier turns come first. -/
def replayReads : M PUnit := modify (fun s => s.modMe (fun t => { t with gotAt := 0 }))

/-- sr.EINFO of PDTABLE (R345). -/
def pdInfo (state reason : Nat) : Nat := state % 2 ^ 20 + 2 ^ 20 * reason

/-- The probe of R344 and R345 from a slot on: `size` bytes an entry, `keep` the bits of the key word that are compared. -/
def probe (base slot log size key keep : Nat) (rq : Rq) (span : Nat) : Nat → Nat → M (Option (Option (List Byte)))
  | 0, _ => pure none
  | fuel + 1, j => do
    let e ← readBytes (base + (slot + j) % 2 ^ log * size) size rq span 4
    let w := fld e 0 8
    if !bit w 63 then return some none
    else if w % 2 ^ keep == key then return some (some e)
    else probe base slot log size key keep rq span fuel (j + 1)

/-- maskld (R344). -/
def execMaskld (g : Guard) (o : OpM) (s : State) : Res :=
  scalarOp s g 8 none false (work (do
    let t ← me
    let ea := (OpM.base t o).toNat
    let dst := (t.rg o.rd).toNat
    let rb := (t.rg o.rb).toNat
    let key := rb % 2 ^ 32
    let span := o.span.toNat
    replayReads
    remoteCheck dst
    remoteCheck ea
    demand (ea % 64 == 0) cALIGN ea
    demand (dst % 64 == 0) cALIGN dst
    demand (isLocal dst) cADDR dst
    let h ← readBytes ea 64 o.rq span 4
    let v := fld h 0x10 4
    let log := fld h 0x14 4
    demand (1 ≤ v && v ≤ 262144 && 4 ≤ log && log ≤ 24 && zeroFld h 0x18 40 && rb / 2 ^ 32 == 0) cPDTABLE (pdInfo (key / 4096) 4)
    let b := (v + 511) / 512 * 64
    let k ← localRange dst b 64
    match ← probe (fld h 0 8) (key * 0x9E3779B1 % 2 ^ 32 / 2 ^ (32 - log)) log 8 key 32 o.rq span 16 0 with
    | none => raise cPDTABLE (pdInfo (key / 4096) 0)
    | some r =>
      let data ← match r with
        | none => pure (List.replicate b 0)
        | some e => readBytes (fld h 8 8 + bits (fld e 0 8) 55 32 * b) b o.rq span (b + 1)
      settleLocal
      modify (fun s => locWrite s k (data.map some))
      done 8 id))

/-- pdstep (R345). -/
def execPdstep (g : Guard) (o : OpR) (s : State) : Res :=
  scalarOp s g 8 none false (work (do
    let t ← me
    let st := (t.rg o.rd).toNat % 2 ^ 20
    let sa := (t.rg o.ra).toNat
    let ta := (t.rg o.rb).toNat
    let cls := (t.rg o.rc).toNat % 65536
    let pf := o.fn.toNat % 8
    let rq := (rqOf (o.md.extractLsb' 0 3)).getD .si
    replayReads
    remoteCheck sa
    remoteCheck ta
    demand (sa % 8 == 0) cALIGN sa
    demand (ta % 64 == 0) cALIGN ta
    let k ← localRange sa 520 8
    let h ← readBytes ta 64 rq 0 4
    settleLocal
    let hd := bytesToNat (← stepRead (return locRead (← get) k 8))
    let depth := hd % 512
    let log := fld h 8 8
    demand (depth ≤ 256 && 4 ≤ log && log ≤ 24 && zeroFld h 0x10 48) cPDTABLE (pdInfo st 4)
    let top ← if depth == 0 then pure 0 else pure (bytesToNat (← stepRead (return locRead (← get) (k + 8 + 2 * (depth - 1)) 2)) % 4096)
    let key := cls * 2 ^ 32 + st * 4096 + top
    let hsh := ((st * 4096 + top) * 0x9E3779B1 + cls * 0x85EBCA77) % 2 ^ 32
    match ← probe (fld h 0 8) (hsh / 2 ^ (32 - log)) log 16 key 48 rq 0 16 0 with
    | none => raise cPDTABLE (pdInfo st 0)
    | some none => done 8 (fun t => t.wp pf 0)
    | some (some e) =>
      let a := fld e 8 8
      let op := a / 2 ^ 62
      let sym := bits a 43 32
      demand (op != 1 || depth < 256) cPDTABLE (pdInfo st 1)
      demand (op != 2 || depth > 0) cPDTABLE (pdInfo st 2)
      demand (op != 3 || depth > 0) cPDTABLE (pdInfo st 3)
      let wrHd := fun (d : Nat) (s : State) => locWrite s k ((natToBytes 8 (hd - depth + d)).map some)
      let wrSym := fun (i : Nat) (s : State) => locWrite s (k + 8 + 2 * i) ((natToBytes 2 sym).map some)
      match op with
      | 1 => modify (fun s => wrHd (depth + 1) (wrSym depth s))
      | 2 => modify (wrHd (depth - 1))
      | 3 => modify (wrSym (depth - 1))
      | _ => pure ⟨⟩
      done 8 (fun t => (t.wg o.rd (BitVec.ofNat 64 (a % 2 ^ 20))).wp pf (BitVec.allOnes 64))))

end Sys2Proof.Machine
end

