-- ==== Sys2Proof/Machine/Zdb.lean ====
section
/-! DEFINITION. The debugger (R406 to R410): holding and releasing a session, and its reads through the debug port, which change nothing
but the lines it prints. A step that is not enabled leaves the state as it is. -/
namespace Sys2Proof.Machine

/-- Changes the session. -/
def State.modZdb (s : State) (f : Zdb → Zdb) : State := { s with zdb := f s.zdb }

/-- Prints lines. -/
def printZdb (s : State) (l : List (List Nat)) : State := s.modZdb (fun z => { z with out := z.out ++ l })

/-- A thread of the session. -/
def inSession (s : State) (th : Nat) : Bool := (s.th th).live && s.zdb.nodes.contains (s.th th).node

/-- A thread stands at a breakpoint that it has not just left. -/
def atBreak (s : State) (th : Nat) : Bool :=
  let t := s.th th
  !s.zdb.held && s.zdb.passed != some th && t.st == .running && s.zdb.nodes.contains t.node
    && s.zdb.breaks.any (fun b => b.addr == t.pc && (match b.core with | some q => q == coreOf th | none => true))

/-- A held thread that waits in wirebar has its arrival withdrawn (R88, R406). -/
def withdrawHeld (s : State) (th : Nat) : State :=
  match (s.th th).wire with
  | none => s
  | some _ =>
    let s := wireDone s (wireCorner s (coreOf th))
    match (s.th th).wire with
    | some w => if w.result.isNone then wireSettle (s.modTh th (fun t => { t with wire := none })) (coreOf th) else s
    | none => s

/-- ZDB_BREAKPOINT_HOLD (R406). -/
def execZdbBreakpointHold (th : Nat) (s : State) : Res :=
  .next (if atBreak s th then
      let s := s.modZdb (fun z => { z with held := true, cur := some th, steps := 0 })
      let s := printZdb s [[(s.dieClock 0).toNat, coreOf th, slotOf th, (s.th th).pc.toNat]]
      ((s.threads.map (·.1)).filter (inSession s)).foldl (fun s i => withdrawHeld s i) s
    else s)

/-- ZDB_BREAK (R407). -/
def execZdbBreak (addr : BitVec 64) (core : Option Nat) (s : State) : Res :=
  .next (s.modZdb (fun z => { z with breaks := z.breaks ++ [{ addr := addr, core := core }] }))

/-- ZDB_RUN (R407): the session's records are sealed in order; an accepted one joins the session. -/
def execZdbRun (s : State) : Res :=
  let go := fun (s : State) (r : List Byte) =>
    let c := s.zdb.ctx
    let before := lastNodeOf s c
    let s := hostIssue (hostIssue s (.area c 0 (r.take 0xF8))) (.area c 0xF8 ((r.drop 0xF8).take 8))
    let id := lastNodeOf s c
    if id == before then s
    else printZdb (s.modZdb (fun z => { z with nodes := z.nodes ++ [id] })) [[(s.dieClock 0).toNat, id]]
  .next ((s.zdb.records.foldl go s).modZdb (fun z => { z with held := false, steps := 0, passed := none }))

/-- ZDB_CONT (R407). -/
def execZdbCont (s : State) : Res :=
  .next (if s.zdb.held then
      printZdb (s.modZdb (fun z => { z with held := false, steps := 0, passed := z.cur })) [[(s.dieClock 0).toNat]]
    else s)

/-- How long a step waits for its thread to issue (R407). -/
def stepClk : Nat := 100000

/-- ZDB_STEP (R407). -/
def execZdbStep (n : Nat) (s : State) : Res :=
  .next (if s.zdb.held then s.modZdb (fun z => { z with steps := n, passed := z.cur, deadline := s.clock + stepClk }) else s)

/-- ZDB_STEP_TIMEOUT (R407): `waiting` is reported. -/
def execZdbStepTimeout (s : State) : Res :=
  .next (if s.zdb.held && s.zdb.steps != 0 && s.zdb.deadline ≤ s.clock then
      printZdb (s.modZdb (fun z => { z with steps := 0 })) [[(s.dieClock 0).toNat, s.zdb.steps]]
    else s)

/-- An instruction of thread `th` has issued: the session's counts follow (R407). -/
def zdbIssued (s : State) (th : Nat) : State :=
  if s.zdb.nodes.isEmpty then s
  else s.modZdb (fun z =>
    let z := if z.passed == some th then { z with passed := none } else z
    if z.held && z.cur == some th && z.steps != 0 then { z with steps := z.steps - 1, deadline := s.clock + stepClk } else z)

/-! ### Reads -/

/-- The current thread. -/
def zdbThread (s : State) : Nat := s.zdb.cur.getD 0

/-- The session thread that a command means: the current one, or the one on a core. -/
def zdbPick (s : State) (q : Option Nat) : Nat :=
  match q with
  | none => zdbThread s
  | some q => (((List.range 4).map (fun k => q * 4 + k)).find? (inSession s)).getD (q * 4)

/-- The core that a command means. -/
def zdbCore (s : State) (q : Option Nat) : Nat := q.getD (coreOf (zdbThread s))

/-- A register's value as the debug port shows it. -/
def debugReg (s : State) (th : Nat) (r : DbgReg) : Nat :=
  let t := s.th th
  match r with
  | .g n => (t.rg (BitVec.ofNat 5 n)).toNat
  | .v n => (t.rv (BitVec.ofNat 5 n)).toNat
  | .p n => (t.rp (n % 8)).toNat
  | .h n => (t.rh (n % 16)).status.toNat
  | .sr ix => (readSr { s with cur := th } ix).toNat

/-- ZDB_PRINT (R407, R409). -/
def execZdbPrint (r : DbgReg) (q : Option Nat) (s : State) : Res := .next (printZdb s [[debugReg s (zdbPick s q) r]])

/-- A byte at its memory home, as it stands there (R406). -/
def peekHome (s : State) (pa key : Nat) : Byte :=
  let pf := pa / 512
  let ws := tget [] (s.stack (stackOf pa)).msc (mscSet (offOf pa))
  let d := match ws.find? (fun w => w.pf == pf) with
    | some w => if w.poison || w.key == key then w.data else 0
    | none => let (k, d, poison) := dramFrame s pf; if poison || k == key then d else 0
  frameByte d (pa % 512)

/-- A byte as the current thread's command sees it (R407): a local one with the thread's own stores over it, a device one at its memory
home. Nothing stands at an address that does not translate. -/
def peekByte (s : State) (th va : Nat) : Option Byte :=
  let q := coreOf th
  let t := s.th th
  if isLocal va then
    let k := localHome q va
    some (((ownBytes t (true, k / 32) t.seqNo)[k % 32]?.getD none).getD ((locRead s k 1).headD 0))
  else
    match (translate s q t.ctx true va .read).2 with
    | .ok (pa, pg) => some (peekHome s pa pg.key)
    | .error _ => none

/-- Bits of an element in memory (R410). -/
def peekBits (t : Ty) : Nat := match t with | .f36 => 64 | .i36 => 64 | t => t.width

/-- ZDB_X (R407, R410): elements from an address, as bit patterns. -/
def execZdbX (addr : BitVec 64) (count : Nat) (ty : Ty) (s : State) : Res :=
  let w := peekBits ty
  let n := (count * w + 7) / 8
  let bs := (List.range n).filterMap (fun i => peekByte s (zdbThread s) (addr.toNat + i))
  let v := bytesToNat bs
  .next (printZdb s [if bs.length == n then (List.range count).map (fun i => v / 2 ^ (i * w) % 2 ^ w) else []])

/-- ZDB_INFO_TILES (R407). -/
def execZdbInfoTiles (s : State) : Res :=
  .next (printZdb s (((s.core (zdbCore s none)).tiles.filter (fun e => e.2.st != 0)).map (fun e => [e.1, e.2.word.toNat])))

/-- ZDB_INFO_CC (R407). -/
def execZdbInfoCc (q : Option Nat) (s : State) : Res :=
  .next (printZdb s (((s.core (zdbCore s q)).cc.filter (fun e => e.2.word != 0)).map (fun e => [e.1, e.2.word.toNat])))

/-- ZDB_INFO_H (R407). -/
def execZdbInfoH (s : State) : Res :=
  .next (printZdb s [(List.range 16).map (fun i => ((s.th (zdbThread s)).rh i).status.toNat)])

/-- A sheaf's tag in its 256-bit layout (R128). -/
def tagWord (x : Sheaf) : Nat :=
  let ws := x.words.zipIdx.map (fun (w, j) => (w, x.s + j))
  let mask := fun (f : SheafWord → Bool) => (ws.map (fun (w, i) => if f w then 2 ^ i else 0)).foldl (· + ·) 0 % 2 ^ 16
  let cores := (ws.map (fun (w, i) => w.core % 256 * 2 ^ (8 * i))).foldl (· + ·) 0 % 2 ^ 128
  2 ^ 249 + x.frame % 2 ^ 31 * 2 ^ 218 + x.s % 16 * 2 ^ 214 + (x.s + x.words.length - 1) % 16 * 2 ^ 210 + mask (·.dirty) * 2 ^ 194
    + mask (·.owned) * 2 ^ 178 + cores * 2 ^ 50 + x.key % 1024 * 2 ^ 40 + x.cls % 4 * 2 ^ 38 + b2n x.ms * 2 ^ 37 + x.phw % 256 * 2 ^ 29
    + x.stamp % 65536 * 2 ^ 13 + x.slot % 128 * 2 ^ 6 + x.age % 64

/-- The fields of a sheaf's tag as the debugger prints them, CORE apart (R409): V, FRAME, S, E, DIRTY, OWNED, KEY, CLASS, MS, PHW, STAMP,
SLOT, AGE. -/
def tagLine (x : Sheaf) : List Nat :=
  [(249, 249), (248, 218), (217, 214), (213, 210), (209, 194), (193, 178), (49, 40), (39, 38), (37, 37), (36, 29), (28, 13), (12, 6), (5, 0)].map
    (fun (hi, lo) => bits (tagWord x) hi lo)

/-- ZDB_INFO_SHEAF (R409): slice and set, then the tags of the frame in ascending S. -/
def execZdbInfoSheaf (addr : BitVec 64) (s : State) : Res :=
  let th := zdbThread s
  let q := coreOf th
  .next (match (translate s q (s.th th).ctx true addr.toNat .read).2 with
    | .error _ => printZdb s [[]]
    | .ok (pa, _) =>
      let l := (tget [] (s.die (dieOf q)).sets (sliceOf pa * 384 + setOf pa)).filter (fun x => x.frame == pa / 512)
      let ls := (List.range 16).filterMap (fun i => (l.find? (fun x => x.s == i)).map tagLine)
      printZdb s ([sliceOf pa, setOf pa] :: ls))

/-- ZDB_INFO_CHUTE (R407). -/
def execZdbInfoChute (s : State) : Res :=
  let c := s.core (zdbCore s none)
  .next (printZdb s [[chuteReg c], (List.range 8).map (fun st => tget 0 c.grants ((s.th (zdbThread s)).ctx * 8 + st))])

/-- ZDB_INFO_PHASE (R407): phase count, kind and arrived ranks of each level of the current thread's node. -/
def execZdbInfoPhase (s : State) : Res :=
  let t := s.th (zdbThread s)
  let ls := (s.node t.node).lrec.levels
  .next (printZdb s ((List.range ls.length).map (fun j =>
    let p := tget {} s.phases (phaseKey t.node j (levelInst ls t.idx j))
    p.count :: b2n t.compute :: p.arrived)))

/-- The number of a node's state. -/
def NodeState.num : NodeState → Nat
  | .waiting => 0
  | .ready => 1
  | .dispatched => 2
  | .running => 3
  | .done => 4
  | .faulted => 5
  | .cancelled => 6

/-- ZDB_INFO_CREW (R407): state, EP, place and Loft ranges of each node of the session. -/
def execZdbInfoCrew (s : State) : Res :=
  .next (printZdb s (s.zdb.nodes.map (fun id =>
    let n := s.node id
    [id, n.st.num, n.ep] ++ (n.place.map (fun sh => sh.q :: sh.base :: sh.size :: sh.slots)).flatten)))

end Sys2Proof.Machine
end

