-- ==== Sys2Proof/Machine/Dispatch.lean ====
section
/-! DEFINITION. The meaning of every step of the table: one call an arm. -/
namespace Sys2Proof.Machine

def exec (i : Instr) (s : State) : Host.Outcome State Fault Refusal :=
  match i with
  | .nop g o => Sys2Proof.Machine.execNop g o s
  | .add g o => Sys2Proof.Machine.execAdd g o s
  | .addi g o => Sys2Proof.Machine.execAddi g o s
  | .sub g o => Sys2Proof.Machine.execSub g o s
  | .mul g o => Sys2Proof.Machine.execMul g o s
  | .mulh g o => Sys2Proof.Machine.execMulh g o s
  | .div g o => Sys2Proof.Machine.execDiv g o s
  | .rem g o => Sys2Proof.Machine.execRem g o s
  | .and g o => Sys2Proof.Machine.execAnd g o s
  | .andi g o => Sys2Proof.Machine.execAndi g o s
  | .or g o => Sys2Proof.Machine.execOr g o s
  | .ori g o => Sys2Proof.Machine.execOri g o s
  | .xor g o => Sys2Proof.Machine.execXor g o s
  | .xori g o => Sys2Proof.Machine.execXori g o s
  | .shl g o => Sys2Proof.Machine.execShl g o s
  | .shr g o => Sys2Proof.Machine.execShr g o s
  | .sra g o => Sys2Proof.Machine.execSra g o s
  | .shi g o => Sys2Proof.Machine.execShi g o s
  | .rot g o => Sys2Proof.Machine.execRot g o s
  | .clz g o => Sys2Proof.Machine.execClz g o s
  | .ctz g o => Sys2Proof.Machine.execCtz g o s
  | .popc g o => Sys2Proof.Machine.execPopc g o s
  | .min g o => Sys2Proof.Machine.execMin g o s
  | .max g o => Sys2Proof.Machine.execMax g o s
  | .cmp g o => Sys2Proof.Machine.execCmp g o s
  | .cmpi g o => Sys2Proof.Machine.execCmpi g o s
  | .sel g o => Sys2Proof.Machine.execSel g o s
  | .movi g o => Sys2Proof.Machine.execMovi g o s
  | .movk g o => Sys2Proof.Machine.execMovk g o s
  | .mov g o => Sys2Proof.Machine.execMov g o s
  | .ext g o => Sys2Proof.Machine.execExt g o s
  | .ins g o => Sys2Proof.Machine.execIns g o s
  | .lea g o => Sys2Proof.Machine.execLea g o s
  | .madd g o => Sys2Proof.Machine.execMadd g o s
  | .digit g o => Sys2Proof.Machine.execDigit g o s
  | .plog g o => Sys2Proof.Machine.execPlog g o s
  | .pmov g o => Sys2Proof.Machine.execPmov g o s
  | .fadd g o => Sys2Proof.Machine.execFadd g o s
  | .fmul g o => Sys2Proof.Machine.execFmul g o s
  | .ffma g o => Sys2Proof.Machine.execFfma g o s
  | .fminmax g o => Sys2Proof.Machine.execFminmax g o s
  | .fcmp g o => Sys2Proof.Machine.execFcmp g o s
  | .fcvt g o => Sys2Proof.Machine.execFcvt g o s
  | .fdiv g o => Sys2Proof.Machine.execFdiv g o s
  | .fsqrt g o => Sys2Proof.Machine.execFsqrt g o s
  | .br g o => Sys2Proof.Machine.execBr g o s
  | .bri g o => Sys2Proof.Machine.execBri g o s
  | .brp g o => Sys2Proof.Machine.execBrp g o s
  | .jmp g o => Sys2Proof.Machine.execJmp g o s
  | .call g o => Sys2Proof.Machine.execCall g o s
  | .jr g o => Sys2Proof.Machine.execJr g o s
  | .ret g o => Sys2Proof.Machine.execRet g o s
  | .loop g o => Sys2Proof.Machine.execLoop g o s
  | .lnest g o => Sys2Proof.Machine.execLnest g o s
  | .lnext g o => Sys2Proof.Machine.execLnext g o s
  | .regroup g o => Sys2Proof.Machine.execRegroup g o s
  | .yield g o => Sys2Proof.Machine.execYield g o s
  | .exit g o => Sys2Proof.Machine.execExit g o s
  | .trap g o => Sys2Proof.Machine.execTrap g o s
  | .brk g o => Sys2Proof.Machine.execBrk g o s
  | .ld g o => Sys2Proof.Machine.execLd g o s
  | .st g o => Sys2Proof.Machine.execSt g o s
  | .vld g o => Sys2Proof.Machine.execVld g o s
  | .vst g o => Sys2Proof.Machine.execVst g o s
  | .vldx g o => Sys2Proof.Machine.execVldx g o s
  | .vstx g o => Sys2Proof.Machine.execVstx g o s
  | .lsld g o => Sys2Proof.Machine.execLsld g o s
  | .lsst g o => Sys2Proof.Machine.execLsst g o s
  | .get g o => Sys2Proof.Machine.execGet g o s
  | .put g o => Sys2Proof.Machine.execPut g o s
  | .ccwait g o => Sys2Proof.Machine.execCcwait g o s
  | .ccopRd g o => Sys2Proof.Machine.execCcopRd g o s
  | .ccopSet g o => Sys2Proof.Machine.execCcopSet g o s
  | .ccopAdd g o => Sys2Proof.Machine.execCcopAdd g o s
  | .ccopClr g o => Sys2Proof.Machine.execCcopClr g o s
  | .tiledef g o => Sys2Proof.Machine.execTiledef g o s
  | .tilest g o => Sys2Proof.Machine.execTilest g o s
  | .pref g o => Sys2Proof.Machine.execPref g o s
  | .flushrFlush g o => Sys2Proof.Machine.execFlushrFlush g o s
  | .flushrInv g o => Sys2Proof.Machine.execFlushrInv g o s
  | .amo g o => Sys2Proof.Machine.execAmo g o s
  | .amon g o => Sys2Proof.Machine.execAmon g o s
  | .cas g o => Sys2Proof.Machine.execCas g o s
  | .fence g o => Sys2Proof.Machine.execFence g o s
  | .phase g o => Sys2Proof.Machine.execPhase g o s
  | .wfence g o => Sys2Proof.Machine.execWfence g o s
  | .nmfence g o => Sys2Proof.Machine.execNmfence g o s
  | .sendOpen g o => Sys2Proof.Machine.execSendOpen g o s
  | .sendMore g o => Sys2Proof.Machine.execSendMore g o s
  | .sendClose g o => Sys2Proof.Machine.execSendClose g o s
  | .sendOne g o => Sys2Proof.Machine.execSendOne g o s
  | .recv g o => Sys2Proof.Machine.execRecv g o s
  | .rpoll g o => Sys2Proof.Machine.execRpoll g o s
  | .barcfg g o => Sys2Proof.Machine.execBarcfg g o s
  | .bararr g o => Sys2Proof.Machine.execBararr g o s
  | .barwait g o => Sys2Proof.Machine.execBarwait g o s
  | .barsync g o => Sys2Proof.Machine.execBarsync g o s
  | .wirebar g o => Sys2Proof.Machine.execWirebar g o s
  | .waitclk g o => Sys2Proof.Machine.execWaitclk g o s
  | .rdclk g o => Sys2Proof.Machine.execRdclk g o s
  | .vadd g o => Sys2Proof.Machine.execVadd g o s
  | .vsub g o => Sys2Proof.Machine.execVsub g o s
  | .vmul g o => Sys2Proof.Machine.execVmul g o s
  | .vfma g o => Sys2Proof.Machine.execVfma g o s
  | .vmin g o => Sys2Proof.Machine.execVmin g o s
  | .vmax g o => Sys2Proof.Machine.execVmax g o s
  | .vun g o => Sys2Proof.Machine.execVun g o s
  | .vand g o => Sys2Proof.Machine.execVand g o s
  | .vor g o => Sys2Proof.Machine.execVor g o s
  | .vxor g o => Sys2Proof.Machine.execVxor g o s
  | .vsh g o => Sys2Proof.Machine.execVsh g o s
  | .vcmp g o => Sys2Proof.Machine.execVcmp g o s
  | .vsel g o => Sys2Proof.Machine.execVsel g o s
  | .vbcast g o => Sys2Proof.Machine.execVbcast g o s
  | .vext g o => Sys2Proof.Machine.execVext g o s
  | .vcvt g o => Sys2Proof.Machine.execVcvt g o s
  | .vdot g o => Sys2Proof.Machine.execVdot g o s
  | .vred g o => Sys2Proof.Machine.execVred g o s
  | .vscan g o => Sys2Proof.Machine.execVscan g o s
  | .vperm g o => Sys2Proof.Machine.execVperm g o s
  | .vshuf g o => Sys2Proof.Machine.execVshuf g o s
  | .vsort g o => Sys2Proof.Machine.execVsort g o s
  | .vquant g o => Sys2Proof.Machine.execVquant g o s
  | .vdeq g o => Sys2Proof.Machine.execVdeq g o s
  | .xop g o => Sys2Proof.Machine.execXop g o s
  | .xred g o => Sys2Proof.Machine.execXred g o s
  | .xscan g o => Sys2Proof.Machine.execXscan g o s
  | .sfu g o => Sys2Proof.Machine.execSfu g o s
  | .rng g o => Sys2Proof.Machine.execRng g o s
  | .sample g o => Sys2Proof.Machine.execSample g o s
  | .maskld g o => Sys2Proof.Machine.execMaskld g o s
  | .pdstep g o => Sys2Proof.Machine.execPdstep g o s
  | .mxclaim g o => Sys2Proof.Machine.execMxclaim g o s
  | .mxrel g o => Sys2Proof.Machine.execMxrel g o s
  | .mxjob g o => Sys2Proof.Machine.execMxjob g o s
  | .mxcurve g o => Sys2Proof.Machine.execMxcurve g o s
  | .mxdrain g o => Sys2Proof.Machine.execMxdrain g o s
  | .mxzero g o => Sys2Proof.Machine.execMxzero g o s
  | .cpjob g o => Sys2Proof.Machine.execCpjob g o s
  | .chld g o => Sys2Proof.Machine.execChld g o s
  | .chstAcc g o => Sys2Proof.Machine.execChstAcc g o s
  | .chstApply g o => Sys2Proof.Machine.execChstApply g o s
  | .gpool g o => Sys2Proof.Machine.execGpool g o s
  | .tblswap g o => Sys2Proof.Machine.execTblswap g o s
  | .optjob g o => Sys2Proof.Machine.execOptjob g o s
  | .hwait g o => Sys2Proof.Machine.execHwait g o s
  | .htest g o => Sys2Proof.Machine.execHtest g o s
  | .hcancel g o => Sys2Proof.Machine.execHcancel g o s
  | .hmovTok g o => Sys2Proof.Machine.execHmovTok g o s
  | .hmovH g o => Sys2Proof.Machine.execHmovH g o s
  | .hmovClr g o => Sys2Proof.Machine.execHmovClr g o s
  | .hstat g o => Sys2Proof.Machine.execHstat g o s
  | .spawn g o => Sys2Proof.Machine.execSpawn g o s
  | .prio g o => Sys2Proof.Machine.execPrio g o s
  | .rdsr g o => Sys2Proof.Machine.execRdsr g o s
  | .wrsr g o => Sys2Proof.Machine.execWrsr g o s
  | .statusWrite g o => Sys2Proof.Machine.execStatusWrite g o s
  | .rxRingRegWrite g o => Sys2Proof.Machine.execRxRingRegWrite g o s
  | .rxheadWrite g o => Sys2Proof.Machine.execRxheadWrite g o s
  | .loftsplitWrite g o => Sys2Proof.Machine.execLoftsplitWrite g o s
  | .wireRegWrite g o => Sys2Proof.Machine.execWireRegWrite g o s
  | .wallowWrite g o => Sys2Proof.Machine.execWallowWrite g o s
  | .vicgroupWrite g o => Sys2Proof.Machine.execVicgroupWrite g o s
  | .fqcfgWrite g o => Sys2Proof.Machine.execFqcfgWrite g o s
  | .eret g o => Sys2Proof.Machine.execEret g o s
  | .scall g o => Sys2Proof.Machine.execScall g o s
  | .tlbinvCtx g o => Sys2Proof.Machine.execTlbinvCtx g o s
  | .tlbinvPage g o => Sys2Proof.Machine.execTlbinvPage g o s
  | .tlbinvAll g o => Sys2Proof.Machine.execTlbinvAll g o s
  | .keyopLoad g o => Sys2Proof.Machine.execKeyopLoad g o s
  | .keyopKill g o => Sys2Proof.Machine.execKeyopKill g o s
  | .tdescRd g o => Sys2Proof.Machine.execTdescRd g o s
  | .tdescWr g o => Sys2Proof.Machine.execTdescWr g o s
  | .tdescWr2 g o => Sys2Proof.Machine.execTdescWr2 g o s
  | .scaleset g o => Sys2Proof.Machine.execScaleset g o s
  | .mscpinPin g o => Sys2Proof.Machine.execMscpinPin g o s
  | .mscpinRel g o => Sys2Proof.Machine.execMscpinRel g o s
  | .mscpinRd g o => Sys2Proof.Machine.execMscpinRd g o s
  | .capr g o => Sys2Proof.Machine.execCapr g o s
  | .powerOnReset => Sys2Proof.Machine.execPowerOnReset s
  | .tftpLoaderPush img => Sys2Proof.Machine.execTftpLoaderPush img s
  | .loaderRun addrOk => Sys2Proof.Machine.execLoaderRun addrOk s
  | .loaderAddressTimeout => Sys2Proof.Machine.execLoaderAddressTimeout s
  | .loaderFetchComplete ok img rangeLen => Sys2Proof.Machine.execLoaderFetchComplete ok img rangeLen s
  | .loaderRetryTimer => Sys2Proof.Machine.execLoaderRetryTimer s
  | .runtimeBringUp trainOk rnd seed => Sys2Proof.Machine.execRuntimeBringUp trainOk rnd seed s
  | .fuseBlow n => Sys2Proof.Machine.execFuseBlow n s
  | .ownerStringMeasure k str => Sys2Proof.Machine.execOwnerStringMeasure k str s
  | .kekDecapsulate reg ct => Sys2Proof.Machine.execKekDecapsulate reg ct s
  | .mgmtKeyLoad slot reg wrapped => Sys2Proof.Machine.execMgmtKeyLoad slot reg wrapped s
  | .mgmtKeyKill slot => Sys2Proof.Machine.execMgmtKeyKill slot s
  | .keyKillStepComplete slot => Sys2Proof.Machine.execKeyKillStepComplete slot s
  | .attestRequestMgmt nonce => Sys2Proof.Machine.execAttestRequestMgmt nonce s
  | .attestGo v => Sys2Proof.Machine.execAttestGo v s
  | .attestReportSigned => Sys2Proof.Machine.execAttestReportSigned s
  | .tempSample n temp => Sys2Proof.Machine.execTempSample n temp s
  | .wearHourlyUpdate w => Sys2Proof.Machine.execWearHourlyUpdate w s
  | .hostRegisterWrite bar off size v => Sys2Proof.Machine.execHostRegisterWrite bar off size v s
  | .portRetrain p => Sys2Proof.Machine.execPortRetrain p s
  | .portLinkLoss p => Sys2Proof.Machine.execPortLinkLoss p s
  | .txFlitSlot p => Sys2Proof.Machine.execTxFlitSlot p s
  | .portEnableWrite p en => Sys2Proof.Machine.execPortEnableWrite p en s
  | .portTrainingDone p lanes => Sys2Proof.Machine.execPortTrainingDone p lanes s
  | .rxReplayRequest p f => Sys2Proof.Machine.execRxReplayRequest p f s
  | .rxAckCredit p f => Sys2Proof.Machine.execRxAckCredit p f s
  | .rxPutdata p f => Sys2Proof.Machine.execRxPutdata p f s
  | .rxGetreq p f => Sys2Proof.Machine.execRxGetreq p f s
  | .rxGetdata p f => Sys2Proof.Machine.execRxGetdata p f s
  | .rxSend p f => Sys2Proof.Machine.execRxSend p f s
  | .rxAmo p f => Sys2Proof.Machine.execRxAmo p f s
  | .rxCount p f => Sys2Proof.Machine.execRxCount p f s
  | .rxRelquery p f => Sys2Proof.Machine.execRxRelquery p f s
  | .rxRelreply p f => Sys2Proof.Machine.execRxRelreply p f s
  | .rxMgmt p f => Sys2Proof.Machine.execRxMgmt p f s
  | .rxRefuse p f => Sys2Proof.Machine.execRxRefuse p f s
  | .rxUnknownOrForeignFlit p f => Sys2Proof.Machine.execRxUnknownOrForeignFlit p f s
  | .rxFlitCrcFailure p f crc fecBad => Sys2Proof.Machine.execRxFlitCrcFailure p f crc fecBad s
  | .intakeRecordWrite c off data => Sys2Proof.Machine.execIntakeRecordWrite c off data s
  | .sealAttempt c off data => Sys2Proof.Machine.execSealAttempt c off data s
  | .contextDisable c => Sys2Proof.Machine.execContextDisable c s
  | .bar2HostRead x n => Sys2Proof.Machine.execBar2HostRead x n s
  | .bar2HostWrite x data => Sys2Proof.Machine.execBar2HostWrite x data s
  | .nodeReady node => Sys2Proof.Machine.execNodeReady node s
  | .epUpdate node => Sys2Proof.Machine.execEpUpdate node s
  | .startClusterMove node => Sys2Proof.Machine.execStartClusterMove node s
  | .crewStart node => Sys2Proof.Machine.execCrewStart node s
  | .crewRefillRestore node => Sys2Proof.Machine.execCrewRefillRestore node s
  | .nodeEnd node => Sys2Proof.Machine.execNodeEnd node s
  | .dispatchDecision die => Sys2Proof.Machine.execDispatchDecision die s
  | .threadStop th => Sys2Proof.Machine.execThreadStop th s
  | .spillWrite node q => Sys2Proof.Machine.execSpillWrite node q s
  | .regroupTimeout th => Sys2Proof.Machine.execRegroupTimeout th s
  | .yieldExpire th => Sys2Proof.Machine.execYieldExpire th s
  | .loftsplitApply q => Sys2Proof.Machine.execLoftsplitApply q s
  | .fqcmdReplay die token => Sys2Proof.Machine.execFqcmdReplay die token s
  | .fqcmdAbort die token => Sys2Proof.Machine.execFqcmdAbort die token s
  | .getputEntryStart q n => Sys2Proof.Machine.execGetputEntryStart q n s
  | .timedLaunch q n => Sys2Proof.Machine.execTimedLaunch q n s
  | .getputEntryComplete q n => Sys2Proof.Machine.execGetputEntryComplete q n s
  | .farCounterBump q n => Sys2Proof.Machine.execFarCounterBump q n s
  | .packetBeatReceive n => Sys2Proof.Machine.execPacketBeatReceive n s
  | .packetPlace q n => Sys2Proof.Machine.execPacketPlace q n s
  | .heldPacketRetry q n => Sys2Proof.Machine.execHeldPacketRetry q n s
  | .barrierArrivalAtHome th => Sys2Proof.Machine.execBarrierArrivalAtHome th s
  | .wireCornerCompletion q => Sys2Proof.Machine.execWireCornerCompletion q s
  | .wireTimeout th => Sys2Proof.Machine.execWireTimeout th s
  | .sfuResult cl => Sys2Proof.Machine.execSfuResult cl s
  | .sliceRequest th n => Sys2Proof.Machine.execSliceRequest th n s
  | .fillDataArrive die n => Sys2Proof.Machine.execFillDataArrive die n s
  | .recallReturn die n => Sys2Proof.Machine.execRecallReturn die n s
  | .sheafMerge die slice set => Sys2Proof.Machine.execSheafMerge die slice set s
  | .phaseBoundary node lev inst => Sys2Proof.Machine.execPhaseBoundary node lev inst s
  | .rangeWalkVisit die n slice set => Sys2Proof.Machine.execRangeWalkVisit die n slice set s
  | .rangeWalkComplete die n => Sys2Proof.Machine.execRangeWalkComplete die n s
  | .mscLookup pa ctx key cls wr => Sys2Proof.Machine.execMscLookup pa ctx key cls wr s
  | .dramFrameRead frame errs => Sys2Proof.Machine.execDramFrameRead frame errs s
  | .writeLaneSlot st => Sys2Proof.Machine.execWriteLaneSlot st s
  | .mscFadePeriod st => Sys2Proof.Machine.execMscFadePeriod st s
  | .budgetWindowStart st => Sys2Proof.Machine.execBudgetWindowStart st s
  | .grantRequest q ctx st => Sys2Proof.Machine.execGrantRequest q ctx st s
  | .grantAnswer q ctx st => Sys2Proof.Machine.execGrantAnswer q ctx st s
  | .chuteWritePerform q st => Sys2Proof.Machine.execChuteWritePerform q st s
  | .creditReturn q st => Sys2Proof.Machine.execCreditReturn q st s
  | .roundCloseQuery q st => Sys2Proof.Machine.execRoundCloseQuery q st s
  | .roundCloseReply q => Sys2Proof.Machine.execRoundCloseReply q s
  | .forwardTableReport die n => Sys2Proof.Machine.execForwardTableReport die n s
  | .nmuOperation st => Sys2Proof.Machine.execNmuOperation st s
  | .engineJobAccept cl unit => Sys2Proof.Machine.execEngineJobAccept cl unit s
  | .mxjobPrepare cl n => Sys2Proof.Machine.execMxjobPrepare cl n s
  | .mxjobRun cl n => Sys2Proof.Machine.execMxjobRun cl n s
  | .mxcurveApply cl n => Sys2Proof.Machine.execMxcurveApply cl n s
  | .mxzeroApply cl n => Sys2Proof.Machine.execMxzeroApply cl n s
  | .mxdrainRun cl n => Sys2Proof.Machine.execMxdrainRun cl n s
  | .cpjobRun cl n => Sys2Proof.Machine.execCpjobRun cl n s
  | .chainJobStart cl n => Sys2Proof.Machine.execChainJobStart cl n s
  | .chstFactorCounted cl n => Sys2Proof.Machine.execChstFactorCounted cl n s
  | .optjobRun cl n => Sys2Proof.Machine.execOptjobRun cl n s
  | .jobComplete cl unit n => Sys2Proof.Machine.execJobComplete cl unit n s
  | .mxclaimGrant cl => Sys2Proof.Machine.execMxclaimGrant cl s
  | .mxrelRelease cl => Sys2Proof.Machine.execMxrelRelease cl s
  | .zdbBreakpointHold th => Sys2Proof.Machine.execZdbBreakpointHold th s
  | .zdbBreak addr core => Sys2Proof.Machine.execZdbBreak addr core s
  | .zdbRun => Sys2Proof.Machine.execZdbRun s
  | .zdbCont => Sys2Proof.Machine.execZdbCont s
  | .zdbStep n => Sys2Proof.Machine.execZdbStep n s
  | .zdbPrint r q => Sys2Proof.Machine.execZdbPrint r q s
  | .zdbX addr count ty => Sys2Proof.Machine.execZdbX addr count ty s
  | .zdbInfoTiles => Sys2Proof.Machine.execZdbInfoTiles s
  | .zdbInfoCc q => Sys2Proof.Machine.execZdbInfoCc q s
  | .zdbInfoH => Sys2Proof.Machine.execZdbInfoH s
  | .zdbInfoSheaf addr => Sys2Proof.Machine.execZdbInfoSheaf addr s
  | .zdbInfoChute => Sys2Proof.Machine.execZdbInfoChute s
  | .zdbInfoPhase => Sys2Proof.Machine.execZdbInfoPhase s
  | .zdbInfoCrew => Sys2Proof.Machine.execZdbInfoCrew s
  | .keyOperationArrive => Sys2Proof.Machine.execKeyOperationArrive s
  | .clockWaitEnd th => Sys2Proof.Machine.execClockWaitEnd th s
  | .zdbStepTimeout => Sys2Proof.Machine.execZdbStepTimeout s
  | .hostRegisterRead bar off size => Sys2Proof.Machine.execHostRegisterRead bar off size s
  | .illegalInstruction w => Sys2Proof.Machine.execIllegalInstruction w s
  | .bar2Resize log => Sys2Proof.Machine.execBar2Resize log s

end Sys2Proof.Machine
end

