-- ==== Sys2Proof/Machine/Schedule.lean ====
section
/-! DEFINITION. What the machine does next while its agenda is empty (R92, R181): a thread's turn, the choice of the next thread, and
the steps of the other components, which come round between the threads' turns. -/
namespace Sys2Proof.Machine

/-- A general register as reads name it. -/
def gReg (r : BitVec 5) : Nat := r.toNat
/-- A vector register as reads name it. -/
def vReg (r : BitVec 5) : Nat := 32 + r.toNat

/-- The registers of a scalar instruction's fields. -/
def regsR (o : OpR) : List Nat := [gReg o.rd, gReg o.ra, gReg o.rb, gReg o.rc]
/-- The registers of a vector instruction's fields; RB may name a general register. -/
def regsV (o : OpR) : List Nat := [vReg o.rd, vReg o.ra, vReg o.rb, vReg o.rc, gReg o.rb]
/-- The same where RD, RA and RC may name general registers too. -/
def regsA (o : OpR) : List Nat := regsV o ++ regsR o
/-- The registers of a memory instruction's fields. -/
def regsM (o : OpM) : List Nat := [gReg o.rd, gReg o.ra, gReg o.rb]
/-- The registers of a vector memory instruction's fields. -/
def regsX (o : OpM) : List Nat := [vReg o.rd, gReg o.ra, gReg o.rb, vReg o.rb]

/-- The guard of a scalar-guarded instruction (R242), and the registers that an instruction reads or writes by its fields (R245 to R250),
pair partners among them (R253); none for a step of another component. A field that names a handle or a predicate counts as the
general register of its number. -/
def operands : Instr → Option Guard × List Nat
  | .nop g o | .add g o | .sub g o | .mul g o | .mulh g o | .div g o | .rem g o | .and g o | .or g o | .xor g o | .shl g o
  | .shr g o | .sra g o | .rot g o | .clz g o | .ctz g o | .popc g o | .min g o | .max g o | .cmp g o | .sel g o | .mov g o
  | .ext g o | .ins g o | .madd g o | .digit g o | .plog g o | .pmov g o | .fadd g o | .fmul g o | .ffma g o | .fminmax g o
  | .fcmp g o | .fcvt g o | .fdiv g o | .fsqrt g o | .jr g o | .regroup g o | .yield g o | .exit g o | .ccopRd g o
  | .ccopSet g o | .ccopAdd g o | .ccopClr g o | .tiledef g o | .tilest g o | .flushrFlush g o | .flushrInv g o | .wfence g o
  | .nmfence g o | .recv g o | .rpoll g o | .wirebar g o | .waitclk g o | .rdclk g o | .pdstep g o | .tblswap g o | .hwait g o
  | .htest g o | .hcancel g o | .hmovTok g o | .hmovH g o | .hmovClr g o | .hstat g o | .prio g o | .eret g o | .tlbinvCtx g o
  | .tlbinvPage g o | .tlbinvAll g o | .scaleset g o => (some g, regsR o)
  | .ret g o => (some g, 30 :: regsR o)
  | .sendOpen g o | .sendMore g o | .sendClose g o | .sendOne g o => (some g, vReg o.rb :: regsR o)
  | .vadd _ o | .vsub _ o | .vmul _ o | .vfma _ o | .vmin _ o | .vmax _ o | .vun _ o | .vand _ o | .vor _ o | .vxor _ o | .vsh _ o
  | .vcmp _ o | .vsel _ o | .vcvt _ o | .vdot _ o | .vscan _ o | .vperm _ o | .vshuf _ o => (none, regsV o)
  | .vbcast _ o | .vext _ o | .vred _ o | .sfu _ o | .rng _ o | .sample _ o => (none, regsA o)
  | .vsort _ o => (none, vReg (o.rd + 1) :: regsV o)
  | .vquant _ o => (none, (if o.ty == .f32 then [vReg (o.ra + 1)] else []) ++ regsA o)
  | .vdeq _ o => (none, (if o.ty == .f32 then [vReg (o.rd + 1)] else []) ++ regsV o)
  | .addi g o | .andi g o | .ori g o | .xori g o | .shi g o | .cmpi g o | .movi g o | .movk g o | .lnest g o | .trap g o
  | .brk g o | .ccwait g o | .phase g o | .mxclaim g o | .mxrel g o | .mxzero g o | .rdsr g o | .wrsr g o | .statusWrite g o
  | .rxRingRegWrite g o | .rxheadWrite g o | .loftsplitWrite g o | .wireRegWrite g o | .wallowWrite g o | .vicgroupWrite g o
  | .fqcfgWrite g o | .scall g o | .capr g o => (some g, [gReg o.rd, gReg o.ra])
  | .vld _ o | .vst _ o | .vldx _ o | .vstx _ o | .lsld _ o | .lsst _ o => (none, regsX o)
  | .lea g o | .ld g o | .st g o | .pref g o | .amo g o | .amon g o | .fence g o | .barcfg g o | .bararr g o | .barwait g o
  | .barsync g o | .maskld g o => (some g, regsM o)
  | .cas g o => (some g, gReg (o.rd + 1) :: gReg (o.rb + 1) :: regsM o)
  | .br g o | .bri g o | .brp g o | .jmp g o | .loop g o | .lnext g o => (some g, [gReg o.ra, gReg o.rb])
  | .call g o => (some g, [30, gReg o.ra, gReg o.rb])
  | .get g o | .put g o | .xop g o | .xred g o | .xscan g o | .mxjob g o | .mxcurve g o | .mxdrain g o | .cpjob g o | .chld g o
  | .chstAcc g o | .chstApply g o | .gpool g o | .optjob g o | .spawn g o | .keyopLoad g o | .keyopKill g o | .tdescRd g o
  | .tdescWr g o | .tdescWr2 g o | .mscpinPin g o | .mscpinRel g o | .mscpinRd g o => (some g, [gReg o.rd, gReg o.ra])
  | .powerOnReset | .tftpLoaderPush _ | .loaderRun _ | .loaderAddressTimeout | .loaderFetchComplete _ _ _ | .loaderRetryTimer
  | .runtimeBringUp _ _ _ | .fuseBlow _ | .ownerStringMeasure _ _ | .kekDecapsulate _ _ | .mgmtKeyLoad _ _ _ | .mgmtKeyKill _
  | .keyKillStepComplete _ | .attestRequestMgmt _ | .attestGo _ | .attestReportSigned | .tempSample _ _ | .wearHourlyUpdate _
  | .hostRegisterWrite _ _ _ _ | .portRetrain _ | .portLinkLoss _ | .txFlitSlot _ | .portEnableWrite _ _
  | .portTrainingDone _ _ | .rxReplayRequest _ _ | .rxAckCredit _ _ | .rxPutdata _ _ | .rxGetreq _ _ | .rxGetdata _ _
  | .rxSend _ _ | .rxAmo _ _ | .rxCount _ _ | .rxRelquery _ _ | .rxRelreply _ _ | .rxMgmt _ _ | .rxRefuse _ _
  | .rxUnknownOrForeignFlit _ _ | .rxFlitCrcFailure _ _ _ _ | .intakeRecordWrite _ _ _ | .sealAttempt _ _ _ | .contextDisable _
  | .bar2HostRead _ _ | .bar2HostWrite _ _ | .nodeReady _ | .epUpdate _ | .startClusterMove _ | .crewStart _
  | .crewRefillRestore _ | .nodeEnd _ | .dispatchDecision _ | .threadStop _ | .spillWrite _ _ | .regroupTimeout _
  | .yieldExpire _ | .loftsplitApply _ | .fqcmdReplay _ _ | .fqcmdAbort _ _ | .getputEntryStart _ _ | .timedLaunch _ _
  | .getputEntryComplete _ _ | .farCounterBump _ _ | .packetBeatReceive _ | .packetPlace _ _ | .heldPacketRetry _ _
  | .barrierArrivalAtHome _ | .wireCornerCompletion _ | .wireTimeout _ | .sfuResult _ | .sliceRequest _ _ | .fillDataArrive _ _
  | .recallReturn _ _ | .sheafMerge _ _ _ | .phaseBoundary _ _ _ | .rangeWalkVisit _ _ _ _ | .rangeWalkComplete _ _
  | .mscLookup _ _ _ _ _ | .dramFrameRead _ _ | .writeLaneSlot _ | .mscFadePeriod _ | .budgetWindowStart _
  | .grantRequest _ _ _ | .grantAnswer _ _ _ | .chuteWritePerform _ _ | .creditReturn _ _ | .roundCloseQuery _ _
  | .roundCloseReply _ | .forwardTableReport _ _ | .nmuOperation _ | .engineJobAccept _ _ | .mxjobPrepare _ _ | .mxjobRun _ _
  | .mxcurveApply _ _ | .mxzeroApply _ _ | .mxdrainRun _ _ | .cpjobRun _ _ | .chainJobStart _ _ | .chstFactorCounted _ _
  | .optjobRun _ _ | .jobComplete _ _ _ | .mxclaimGrant _ | .mxrelRelease _ | .zdbBreakpointHold _ | .zdbBreak _ _ | .zdbRun
  | .zdbCont | .zdbStep _ | .zdbPrint _ _ | .zdbX _ _ _ | .zdbInfoTiles | .zdbInfoCc _ | .zdbInfoH | .zdbInfoSheaf _
  | .zdbInfoChute | .zdbInfoPhase | .zdbInfoCrew | .keyOperationArrive | .clockWaitEnd _ | .zdbStepTimeout
  | .hostRegisterRead _ _ _ | .illegalInstruction _ | .bar2Resize _ => (none, [])

/-- The steps of the management complex, the hub and the host port, which go on without the compute dies and the stacks (R16), the links' among them. -/
def runsUnpowered : Instr → Bool
  | .powerOnReset | .tftpLoaderPush _ | .loaderRun _ | .loaderAddressTimeout | .loaderFetchComplete _ _ _ | .loaderRetryTimer
  | .fuseBlow _ | .ownerStringMeasure _ _ | .kekDecapsulate _ _ | .mgmtKeyLoad _ _ _ | .mgmtKeyKill _ | .keyOperationArrive
  | .attestRequestMgmt _ | .attestGo _ | .attestReportSigned | .tempSample _ _ | .wearHourlyUpdate _
  | .hostRegisterWrite _ _ _ _ | .hostRegisterRead _ _ _ | .bar2Resize _ | .contextDisable _ | .intakeRecordWrite _ _ _
  | .sealAttempt _ _ _ | .portRetrain _ | .portEnableWrite _ _ | .portLinkLoss _
  | .txFlitSlot _ | .portTrainingDone _ _ | .rxReplayRequest _ _ | .rxAckCredit _ _ | .rxPutdata _ _ | .rxGetreq _ _ | .rxGetdata _ _ | .rxSend _ _ | .rxAmo _ _
  | .rxCount _ _ | .rxRelquery _ _ | .rxRelreply _ _ | .rxMgmt _ _ | .rxRefuse _ _ | .rxUnknownOrForeignFlit _ _ | .rxFlitCrcFailure _ _ _ _ | .bar2HostRead _ _ | .bar2HostWrite _ _ => true
  | .nop _ _ | .add _ _ | .sub _ _ | .mul _ _ | .mulh _ _ | .div _ _ | .rem _ _ | .and _ _ | .or _ _ | .xor _ _ | .shl _ _
  | .shr _ _ | .sra _ _ | .rot _ _ | .clz _ _ | .ctz _ _ | .popc _ _ | .min _ _ | .max _ _ | .cmp _ _ | .sel _ _ | .mov _ _
  | .ext _ _ | .ins _ _ | .madd _ _ | .digit _ _ | .plog _ _ | .pmov _ _ | .fadd _ _ | .fmul _ _ | .ffma _ _ | .fminmax _ _
  | .fcmp _ _ | .fcvt _ _ | .fdiv _ _ | .fsqrt _ _ | .jr _ _ | .ret _ _ | .regroup _ _ | .yield _ _ | .exit _ _ | .ccopRd _ _
  | .ccopSet _ _ | .ccopAdd _ _ | .ccopClr _ _ | .tiledef _ _ | .tilest _ _ | .flushrFlush _ _ | .flushrInv _ _ | .wfence _ _
  | .nmfence _ _ | .sendOpen _ _ | .sendMore _ _ | .sendClose _ _ | .sendOne _ _ | .recv _ _ | .rpoll _ _ | .wirebar _ _
  | .waitclk _ _ | .rdclk _ _ | .vadd _ _ | .vsub _ _ | .vmul _ _ | .vfma _ _ | .vmin _ _ | .vmax _ _ | .vun _ _ | .vand _ _
  | .vor _ _ | .vxor _ _ | .vsh _ _ | .vcmp _ _ | .vsel _ _ | .vbcast _ _ | .vext _ _ | .vcvt _ _ | .vdot _ _ | .vred _ _
  | .vscan _ _ | .vperm _ _ | .vshuf _ _ | .vsort _ _ | .vquant _ _ | .vdeq _ _ | .sfu _ _ | .rng _ _ | .sample _ _
  | .pdstep _ _ | .tblswap _ _ | .hwait _ _ | .htest _ _ | .hcancel _ _ | .hmovTok _ _ | .hmovH _ _ | .hmovClr _ _ | .hstat _ _
  | .prio _ _ | .eret _ _ | .tlbinvCtx _ _ | .tlbinvPage _ _ | .tlbinvAll _ _ | .scaleset _ _ | .addi _ _ | .andi _ _
  | .ori _ _ | .xori _ _ | .shi _ _ | .cmpi _ _ | .movi _ _ | .movk _ _ | .lnest _ _ | .trap _ _ | .brk _ _ | .ccwait _ _
  | .phase _ _ | .mxclaim _ _ | .mxrel _ _ | .mxzero _ _ | .rdsr _ _ | .wrsr _ _ | .statusWrite _ _ | .rxRingRegWrite _ _
  | .rxheadWrite _ _ | .loftsplitWrite _ _ | .wireRegWrite _ _ | .wallowWrite _ _ | .vicgroupWrite _ _ | .fqcfgWrite _ _
  | .scall _ _ | .capr _ _ | .lea _ _ | .ld _ _ | .st _ _ | .vld _ _ | .vst _ _ | .vldx _ _ | .vstx _ _ | .lsld _ _ | .lsst _ _
  | .pref _ _ | .amo _ _ | .amon _ _ | .cas _ _ | .fence _ _ | .barcfg _ _ | .bararr _ _ | .barwait _ _ | .barsync _ _
  | .maskld _ _ | .br _ _ | .bri _ _ | .brp _ _ | .jmp _ _ | .call _ _ | .loop _ _ | .lnext _ _ | .get _ _ | .put _ _
  | .xop _ _ | .xred _ _ | .xscan _ _ | .mxjob _ _ | .mxcurve _ _ | .mxdrain _ _ | .cpjob _ _ | .chld _ _ | .chstAcc _ _
  | .chstApply _ _ | .gpool _ _ | .optjob _ _ | .spawn _ _ | .keyopLoad _ _ | .keyopKill _ _ | .tdescRd _ _ | .tdescWr _ _
  | .tdescWr2 _ _ | .mscpinPin _ _ | .mscpinRel _ _ | .mscpinRd _ _ | .runtimeBringUp _ _ _ | .keyKillStepComplete _
         
  | .nodeReady _
  | .epUpdate _ | .startClusterMove _ | .crewStart _ | .crewRefillRestore _ | .nodeEnd _ | .dispatchDecision _ | .threadStop _
  | .spillWrite _ _ | .regroupTimeout _ | .yieldExpire _ | .loftsplitApply _ | .fqcmdReplay _ _ | .fqcmdAbort _ _
  | .getputEntryStart _ _ | .timedLaunch _ _ | .getputEntryComplete _ _ | .farCounterBump _ _ | .packetBeatReceive _
  | .packetPlace _ _ | .heldPacketRetry _ _ | .barrierArrivalAtHome _ | .wireCornerCompletion _ | .wireTimeout _ | .sfuResult _
  | .sliceRequest _ _ | .fillDataArrive _ _ | .recallReturn _ _ | .sheafMerge _ _ _ | .phaseBoundary _ _ _
  | .rangeWalkVisit _ _ _ _ | .rangeWalkComplete _ _ | .mscLookup _ _ _ _ _ | .dramFrameRead _ _ | .writeLaneSlot _
  | .mscFadePeriod _ | .budgetWindowStart _ | .grantRequest _ _ _ | .grantAnswer _ _ _ | .chuteWritePerform _ _
  | .creditReturn _ _ | .roundCloseQuery _ _ | .roundCloseReply _ | .forwardTableReport _ _ | .nmuOperation _
  | .engineJobAccept _ _ | .mxjobPrepare _ _ | .mxjobRun _ _ | .mxcurveApply _ _ | .mxzeroApply _ _ | .mxdrainRun _ _
  | .cpjobRun _ _ | .chainJobStart _ _ | .chstFactorCounted _ _ | .optjobRun _ _ | .jobComplete _ _ _ | .mxclaimGrant _
  | .mxrelRelease _ | .zdbBreakpointHold _ | .zdbBreak _ _ | .zdbRun | .zdbCont | .zdbStep _ | .zdbPrint _ _ | .zdbX _ _ _
  | .zdbInfoTiles | .zdbInfoCc _ | .zdbInfoH | .zdbInfoSheaf _ | .zdbInfoChute | .zdbInfoPhase | .zdbInfoCrew | .clockWaitEnd _
  | .zdbStepTimeout | .illegalInstruction _ => false

/-! ### Steps of the other components -/

/-- The step that a job of a cluster waits for. -/
def jobEvents (cl : Nat) (j : Job) : List Instr :=
  (match j.st, j.kind with
  | .submitted, _ => [.engineJobAccept cl j.unit]
  | .ended, _ => []
  | .accepted, .mx => [.mxjobPrepare cl j.seq]
  | _, .mx => [.mxjobRun cl j.seq]
  | _, .curve => [.mxcurveApply cl j.seq]
  | _, .zero => [.mxzeroApply cl j.seq]
  | _, .drain => [.mxdrainRun cl j.seq]
  | _, .copy => [.cpjobRun cl j.seq]
  | _, .opt => [.optjobRun cl j.seq]
  | _, _ => [.chainJobStart cl j.seq]) ++ [.chstFactorCounted cl j.seq, .jobComplete cl j.unit j.seq]

/-- The steps that a thread's own units wait for. -/
def threadEvents (s : State) (th : Nat) (t : Thread) : List Instr :=
  (List.range t.sb.length).map (fun i => Instr.sliceRequest th i)
    ++ (if t.st == .stopping then [.threadStop th] else [])
    ++ (if t.regroup.isSome then [.regroupTimeout th] else [])
    ++ (if t.yieldTo.isSome then [.yieldExpire th] else [])
    ++ (if t.clkWait.isSome then [.clockWaitEnd th] else [])
    ++ (if t.bar.isSome then [.barrierArrivalAtHome th] else [])
    ++ (if t.wire.isSome then [.wireCornerCompletion (wireCorner s (coreOf th)), .wireTimeout th] else [])
    ++ (if t.live then ((List.range t.idx.length).map (fun j =>
          Instr.phaseBoundary t.node j (t.rank / instSize (s.node t.node).lrec.levels j))) else [])

/-- The steps that a core's units wait for. -/
def coreEvents (s : State) (q : Nat) (c : Core) : List Instr :=
  (List.range (c.sent.length + c.reads.length)).map (fun i => Instr.sliceRequest (q * 4) ((s.th (q * 4)).sb.length + i))
    ++ (c.gp.map (fun e => [Instr.timedLaunch q e.id, .getputEntryStart q e.id, .farCounterBump q e.id, .getputEntryComplete q e.id])).flatten
    ++ ((List.range c.asm.length).map (fun i => [Instr.packetPlace q i, .heldPacketRetry q i])).flatten
    ++ (if c.chute.isEmpty then [] else (List.range 8).map (fun st => Instr.chuteWritePerform q st))
    ++ c.counted.map (fun e => Instr.creditReturn q e.1)
    ++ (if c.rounds.isEmpty then [] else (List.range 8).map (fun st => Instr.roundCloseQuery q st) ++ [.roundCloseReply q])
    ++ c.asked.map (fun e => Instr.grantAnswer q e.1 e.2)
    ++ (if c.loftReq == c.loftCur then [] else [.loftsplitApply q])

/-- The steps that a die waits for. -/
def dieEvents (s : State) (d : Nat) (x : Die) : List Instr :=
  (if x.fills.isEmpty then [] else [.fillDataArrive d 0])
    ++ (if x.recalls.isEmpty then [] else [.recallReturn d 0])
    ++ (List.range x.fwd.length).map (fun i => Instr.forwardTableReport d i)
    ++ (x.walks.map (fun w => (match w.sets with | (a, b, c) :: _ => [Instr.rangeWalkVisit a (walkNum w) b c] | [] => [])
         ++ [.rangeWalkComplete d (walkNum w)])).flatten
    ++ (if s.nodes.any (fun e => e.2.st == .ready && e.2.die == d) then [.dispatchDecision d] else [])

/-- The steps that a node waits for. -/
def nodeEvents (id : Nat) (n : Node) : List Instr :=
  match n.st with
  | .waiting => [.nodeReady id]
  | .ready => [.startClusterMove id] ++ n.spill.map (fun q => Instr.spillWrite id q)
  | .dispatched => [.crewStart id, .crewRefillRestore id]
  | .running => [.nodeEnd id]
  | _ => if n.owed then [.nodeEnd id] else []

/-- The steps that may be due. The outside world's own (boot images, host accesses, flits that arrive, temperatures, a debugger's
commands) are not among them: they come by the agenda. -/
def dueEvents (s : State) : List Instr :=
  (s.threads.map (fun e => threadEvents s e.1 e.2)).flatten
    ++ (s.cores.map (fun e => coreEvents s e.1 e.2)).flatten
    ++ (s.clusters.map (fun e => (if e.2.sfu.isEmpty then [] else [Instr.sfuResult e.1])
         ++ (e.2.jobs.map (jobEvents e.1)).flatten
         ++ (if e.2.claims.isEmpty then [] else [.mxclaimGrant e.1, .mxrelRelease e.1]))).flatten
    ++ ((List.range 4).map (fun d => dieEvents s d (s.die d))).flatten
    ++ (s.hbms.map (fun e => (if e.2.nmu.isEmpty then [] else [Instr.nmuOperation e.1])
         ++ (if e.2.lane.isEmpty then [] else [.writeLaneSlot e.1]))).flatten
    ++ (if s.windowAt.isSome then (List.range 8).map (fun st => Instr.budgetWindowStart st) else [])
    ++ (s.nodes.map (fun e => nodeEvents e.1 e.2)).flatten
    ++ (List.range s.beats.length).map (fun i => Instr.packetBeatReceive i)
    ++ s.host.asked.map (fun e => Instr.grantAnswer hostCore e.1 e.2)
    ++ (s.mgmt.slots.map (fun e => if e.2.st == .killing then [Instr.keyKillStepComplete e.1] else [])).flatten
    ++ (if s.mgmt.keyOps.isEmpty then [] else [.keyOperationArrive])
    ++ (if s.mgmt.signing.isEmpty then [] else [.attestReportSigned])
    ++ (s.ports.map (fun e => if e.2.needReplay || !e.2.resend.isEmpty || e.2.tx.any (fun x => !x.2.isEmpty) then [Instr.txFlitSlot e.1] else [])).flatten

/-- The first of the listed steps that changes the state. -/
def firstChange (s : State) : List Instr → State
  | [] => s
  | e :: l =>
    match if s.powered || runsUnpowered e then exec e s else .next s with
  | .next s' => if s' = s then firstChange s l else s'
  | _ => firstChange s l

/-- One step of another component, if one is enabled; the place where the search starts goes round with the clock. -/
def otherStep (s : State) : State :=
  let l := dueEvents s
  let k := s.clock % (l.length + 1)
  firstChange s (l.drop k ++ l.take k)

/-! ### Threads -/

/-- A thread that may issue: running, or a victim's that cannot stop yet (R87, R211), not held by a debugger, not yielding (R92, R288,
R406). -/
def mayRun (s : State) (th : Nat) : Bool :=
  let t := s.th th
  (t.st == .running || (t.st == .stopping && !(s.node t.node).failing && !mayStop t)) && t.yieldTo.isNone && !heldByZdb s th

/-- A thread that may issue and whose instruction has not been tried in vain in this round. -/
def mayTry (s : State) (th : Nat) : Bool := mayRun s th && !s.tried.contains th

/-- The slot that R92 chooses on a core: the highest EP, then the order last + 1, last + 2, last + 3, last. -/
def issueSlot (s : State) (q : Nat) : Option Nat :=
  let last := (s.core q).lastSlot
  let c := ((List.range 4).map (fun i => (last + 1 + i) % 4)).filter (fun k => mayTry s (q * 4 + k))
  let ep := fun k => (s.node (s.th (q * 4 + k)).node).ep
  let best := c.foldl (fun a k => max a (ep k)) 0
  c.find? (fun k => ep k == best)

/-- The threads that R92 chooses, one a core, in the order of cores. -/
def issuers (s : State) : List Nat :=
  ((s.threads.map (fun e => coreOf e.1)).eraseDups).filterMap (fun q => (issueSlot s q).map (fun k => q * 4 + k))

/-- The next core's thread, or, behind a turn spent in vain, the same core's next choice (R92); behind the last core the other
components have their turn. -/
def nextThread (s : State) (vain : Bool) : State :=
  match (issuers s).find? (fun th => coreOf s.cur < coreOf th || (vain && coreOf s.cur == coreOf th)) with
  | some th => { s with cur := th }
  | none => { s with others := true }

/-- A cached copy goes, if the machine so chooses (R181, Drop): an L1 copy of some core, or a word of some die's cache, each written back
first where it is dirty (R134). -/
def dropSome (s : State) : State :=
  match choose s 3 with
  | (s, 1) =>
    let (s, i) := choose s s.cores.length
    (match s.cores[i]? with
    | some (q, c) =>
      let (s, j) := choose s c.l1.length
      (match c.l1[j]? with | some (p, _) => l1Drop s q p | none => s)
    | none => s)
  | (s, 2) =>
    let (s, d) := choose s 4
    let held := ((s.die d).sets.map (fun e => (e.2.map (fun x => (List.range x.words.length).map (fun j => x.frame * 16 + x.s + j))).flatten)).flatten
    let (s, j) := choose s held.length
    (match held[j]? with | some p => dropWord s d p | none => s)
  | (s, _) => s

/-- A round begins: the other components' turn, copies that go, counted credit that is due (R160), the effective priorities brought up to
date (R84), then the first core's thread. -/
def newRound (s : State) : State :=
  let s := refreshAll (creditDue (dropSome (otherStep { s with others := false, tried := [] })))
  match issuers s with
  | th :: _ => { s with cur := th }
  | [] => s

/-- Whether the registers are ready (R181, R213, R253): no read, atomic or special-function result of the acting thread is still to come
to one of them. -/
def regsReady (s : State) (rs : List Nat) : Bool :=
  !(s.me.pend.any rs.contains)
    && !((s.clus (clusOf (coreOf s.cur))).sfu.any (fun e => e.1 == s.cur && rs.contains (32 + e.2.1)))

/-- What the acting thread's next instruction waits for arrives in the registers it names (R98, R181, R213): its reads, the old values of its
atomics, and the cluster's special-function results up to its own. -/
def regsCome (s : State) (rs : List Nat) : State :=
  let s := readsWhere s s.cur (fun r => rs.contains r.reg)
  let awaited := fun (e : SbEntry) => match e.ret with
    | some r => rs.contains r.rd || (r.pair && rs.contains (r.rd + 1))
    | none => false
  let s := (s.me.sb.filter awaited).foldl (fun s e => forceAtomic s s.cur e.word e.seq) s
  let s := ((s.core (coreOf s.cur)).sent.filter (fun x => x.1 == s.cur && awaited x.2)).foldl (fun s x => forceAtomic s s.cur x.2.word x.2.seq) s
  let s := if s.me.pend.any rs.contains then nmuDrain (chuteFlush s (coreOf s.cur)) else s
  let cl := clusOf (coreOf s.cur)
  (s.clus cl).sfu.foldl (fun s _ => if regsReady s rs then s else sfuPop s cl) s

/-- What the current thread does on its turn. -/
inductive Turning where
  | run (i : Instr) (s : State) | other (s : State)
  deriving DecidableEq, Repr

/-- The current thread fetches and decodes (R98, R237 to R240): a fetch fault and a word that is no instruction trap, PAD words are
passed over (R238), and an instruction whose operands are not ready waits for them, unless its guard is false (R242). -/
def fetchTurn (s : State) : Turning :=
  let t := s.me
  match skipPad s (coreOf s.cur) t.ctx t.sup t.pc.toNat padFuel with
  | (s, a, r) =>
    let s := s.modMe (fun t => { t with pc := BitVec.ofNat 64 a })
    match r with
  | .error f => .other (trapOf s f)
  | .ok bs =>
      match decode bs with
  | .ok (i, _) =>
        let (g, rs) := operands i
        if (match g with | some g => !s.me.guardOk g | none => false) then .run i s
        else
          let s := regsCome s (rs.filter (· != 0))
          if regsReady s (rs.filter (· != 0)) then .run i s else .other s.wait
  | .error _ => .run (.illegalInstruction (BitVec.ofNat 32 (bytesToNat (bs.take 4)))) s

/-- The current thread's turn. -/
def stepThread (s : State) : Res :=
  if atBreak s s.cur then execZdbBreakpointHold s.cur s
  else
    match fetchTurn s with
  | .run i s => exec i s
  | .other s => .next s

/-- What follows a turn of thread `th`: it is tried no more in this round where its instruction waits, and otherwise it has issued, and its
core's threads may be tried again; the next thread is chosen (R92). -/
def afterThread (th : Nat) (r : Res) : Res :=
  match r with
  | .next s =>
    if s.blocked then .next (nextThread { s with tried := th :: s.tried } true)
    else
      let s := { s with tried := s.tried.filter (fun x => coreOf x != coreOf th) }
      .next (nextThread (zdbIssued (s.modCore (coreOf th) (fun c => { c with lastSlot := slotOf th })) th) false)
  | r => r

end Sys2Proof.Machine
end

