-- ==== Sys2Proof/Machine/Step.lean ====
section
/-! DEFINITION. One step of the machine: the next turn of the agenda, or, while it is empty, the turn that R92 and R181 choose. -/
namespace Sys2Proof.Machine

/-- One step. Every step is one clk or more (R124). A thread's turn on the agenda takes place if its core would choose that thread (R92);
another component's step, or time, gives every thread a new try. With the dies and stacks switched off, threads stand still and only the
steps of R16's other parts take place. -/
def step (s : State) : Host.Outcome State Fault Refusal :=
  let s := { s with clock := s.clock + 1, blocked := false }
  match s.agenda with
  | .event i :: l =>
    let s := { s with agenda := l, tried := [] }
    if s.powered || runsUnpowered i then exec i s else .next s
  | .tick n :: l => .next { s with agenda := l, tried := [], clock := s.clock + n }
  | .thread th :: l =>
    let s := { s with agenda := l }
    if s.powered && issueSlot s (coreOf th) == some (slotOf th) then afterThread th (stepThread { s with cur := th }) else .next s
  | [] =>
    if !s.powered then .next (otherStep s)
    else if s.others || !mayRun s s.cur then .next (newRound s)
    else afterThread s.cur (stepThread s)

/-- The state with an instruction of `nbits` bits `w` (the bits above are zero) where the next step fetches: slot 0 of core 0 runs
at address 0, which its micro-TLB maps as executable under key slot 0, LOADED as from STAGE 4, and its cluster's instruction cache holds the block. It stands for the load of a
program. -/
def State.withFetchWord (s : State) (nbits w : Nat) : State :=
  let s := { s with
    agenda := []
    cur := 0
    others := false
    powered := true
    zdb := {}
    mgmt := { s.mgmt with slots := tmod {} s.mgmt.slots 0 (fun k => { k with st := .loaded }) } }
  let s := s.modTh 0 (fun t => { t with st := .running, pc := 0, slot := .plain, pend := [], fbuf := [], yieldTo := none })
  let page : TlbEntry := { ctx := (s.th 0).ctx, vpn := 0, big := false, pte := 2 ^ 48 + 1 }
  let s := s.modCore 0 (fun c => { c with utlb := page :: c.utlb.take 31 })
  let s := s.modClus 0 (fun c => { c with sfu := c.sfu.filter (fun e => e.1 != 0) })
  let line : ICLine := { ctx := (s.th 0).ctx, blk := 0, key := 0, bytes := leBytes 32 (w % 2 ^ nbits) }
  s.modClus 0 (fun c => { c with icache := line :: c.icache })

end Sys2Proof.Machine
end

