-- ==== Sys2Proof/Safety.lean ====
section
/-! DEFINITION. What counts as a safe run: no step ends in a refusal, and the machine's memories keep their canonical form. -/
namespace Sys2Proof.Machine

/-- The byte memories in canonical form. -/
def State.memOk (s : State) : Bool := Memory.wf dramDefault s.dram && Memory.wf locDefault s.loc

/-- A step that the model gives a meaning: a next state. -/
def stepSafe (s : State) : Bool :=
  match step s with
  | .next _ => true
  | .fault _ => false
  | .refused _ => false

end Sys2Proof.Machine
end

