-- ==== Sys2Proof/Certificates/Slice0/Obligations.lean ====
section
/-! DEFINITION. The statements for the provers, from the numbered rules of spec/. The definitions of Sys2Proof.Claims are the manual's
own words for what the statements speak of. -/
namespace Sys2Proof.Claims
open Sys2Proof.Machine

/-- exec answers a next state with a property. -/
def Gives (i : Instr) (s : State) (p : State → Prop) : Prop := ∃ t, exec i s = .next t ∧ p t

/-- The guard of a scalar-guarded instruction holds (R242), and its packet's limit is not reached (R211). -/
def Ready (s : State) (g : Guard) : Prop := (s.me.rp g.pg.toNat).getLsbD 0 = !g.pgn ∧ overLimit s.me = false

/-- The work of an instruction runs to its end. -/
def EndsIn {α : Type} (m : M α) (s : State) (a : α) (t : State) : Prop := m.run s = (.ok a, t)

/-! ### Integers (R218, R264) -/

/-- val_T: the low bits of a register, signed for i types. -/
def val (t : Ty) (x : Word) : Int := if t.signed then Int.bmod x.toNat (2 ^ t.width) else x.toNat % 2 ^ t.width
/-- The least integer of a type. -/
def least (t : Ty) : Int := if t.signed then -2 ^ (t.width - 1) else 0
/-- The greatest integer of a type. -/
def greatest (t : Ty) : Int := if t.signed then 2 ^ (t.width - 1) - 1 else 2 ^ t.width - 1
/-- Wrap to a type and extend to 64 bits. -/
def wrap (t : Ty) (x : Int) : Word := BitVec.ofInt 64 (if t.signed then Int.bmod x (2 ^ t.width) else x % 2 ^ t.width)
/-- Clamp to a type and extend to 64 bits. -/
def clamp (t : Ty) (x : Int) : Word := BitVec.ofInt 64 (max (least t) (min x (greatest t)))
/-- Outside a type. -/
def outside (t : Ty) (x : Int) : Bool := decide (x < least t) || decide (greatest t < x)

/-- An integer instruction leaves the exact integer `x` in g[RD], wrapped, or clamped under `.sat` with SAT set when that changed it. -/
def IntOut (i : Instr) (g : Guard) (o : OpR) (s : State) (x : Int) : Prop :=
  Ready s g → exec i s = .next (s.retireWith 8 (fun t =>
    if o.md.getLsbD 0 then (t.wg o.rd (clamp o.ty x)).raise (if outside o.ty x then flSAT else 0) else t.wg o.rd (wrap o.ty x)))

/-- A scalar instruction leaves the word `x` in g[RD]. -/
def WordOut (i : Instr) (g : Guard) (len : Nat) (rd : BitVec 5) (s : State) (x : Word) : Prop :=
  Ready s g → exec i s = .next (s.retireWith len (fun t => t.wg rd x))

end Sys2Proof.Claims

section
open Sys2Proof Sys2Proof.Machine Sys2Proof.Claims

/-- R265: add, sub, mul, mulh, madd, min and max, with and without `.sat`. -/
def Sys2Proof.Claims.integerResults : Prop := ∀ (g : Guard) (o : OpR) (s : State), o.ty.isInt = true →
  let a := val o.ty (s.me.rg o.ra)
  let b := val o.ty (s.me.rg o.rb)
  let c := val o.ty (s.me.rg o.rc)
  IntOut (.add g o) g o s (a + b) ∧ IntOut (.sub g o) g o s (a - b) ∧ IntOut (.mul g o) g o s (a * b)
    ∧ IntOut (.madd g o) g o s (a * b + c) ∧ IntOut (.mulh g o) g o s (Int.fdiv (a * b) (2 ^ o.ty.width))
    ∧ IntOut (.min g o) g o s (min a b) ∧ IntOut (.max g o) g o s (max a b)

/-- R265: and, or, xor and the shifts, as operations on `w`-bit vectors, and the counts of bits. -/
def Sys2Proof.Claims.bitResults : Prop := ∀ (g : Guard) (o : OpR) (s : State), o.ty.isInt = true →
  let w := o.ty.width
  let a := (s.me.rg o.ra).setWidth w
  let b := (s.me.rg o.rb).setWidth w
  let n := (s.me.rg o.rb).toNat % 64 % w
  let out := fun (x : BitVec w) => if o.ty.signed then x.signExtend 64 else x.setWidth 64
  WordOut (.and g o) g 8 o.rd s (out (a &&& b)) ∧ WordOut (.or g o) g 8 o.rd s (out (a ||| b))
    ∧ WordOut (.xor g o) g 8 o.rd s (out (a ^^^ b)) ∧ WordOut (.shl g o) g 8 o.rd s (out (a <<< n))
    ∧ WordOut (.shr g o) g 8 o.rd s (out (a >>> n)) ∧ WordOut (.sra g o) g 8 o.rd s (out (a.sshiftRight n))
    ∧ WordOut (.rot g o) g 8 o.rd s (out (a.rotateLeft n))
    ∧ (∃ k, WordOut (.clz g o) g 8 o.rd s (BitVec.ofNat 64 k) ∧ k ≤ w ∧ (∀ i, w - k ≤ i → a.getLsbD i = false)
        ∧ (k < w → a.getLsbD (w - 1 - k) = true))
    ∧ (∃ k, WordOut (.ctz g o) g 8 o.rd s (BitVec.ofNat 64 k) ∧ k ≤ w ∧ (∀ i, i < k → a.getLsbD i = false)
        ∧ (k < w → a.getLsbD k = true))
    ∧ WordOut (.popc g o) g 8 o.rd s (BitVec.ofNat 64 ((List.range w).countP (fun i => a.getLsbD i)))

/-- R265: the integer, bitwise, shift and count instructions. -/
def Obligations.IntegerAndBitResults : Prop := Claims.integerResults ∧ Claims.bitResults

end

namespace Sys2Proof.Claims
open Sys2Proof.Machine

/-- An instruction that names no result only goes on with its thread changed. -/
def RegOut (i : Instr) (g : Guard) (len : Nat) (s : State) (f : Thread → Thread) : Prop :=
  Ready s g → exec i s = .next (s.retireWith len f)

/-- The quotient of R266: toward zero, or toward −infinity under FN 1. -/
def quot (floor : Bool) (a b : Int) : Int := if floor then Int.fdiv a b else Int.tdiv a b

/-- The conditions of R267 on two integers. -/
def holds (c : Nat) (a b : Int) : Prop :=
  (c = 0 ∧ a = b) ∨ (c = 1 ∧ a ≠ b) ∨ (c = 2 ∧ a < b) ∨ (c = 3 ∧ a ≤ b) ∨ (c = 4 ∧ a > b) ∨ (c = 5 ∧ a ≥ b)

/-- What a comparison writes: g[RD] 1 or 0 under `.g`, else all 64 bits of p[RD]. -/
def truth (toG : Bool) (rd : BitVec 5) (b : Bool) (t : Thread) : Thread :=
  if toG then t.wg rd (if b then 1 else 0) else t.wp rd.toNat (if b then BitVec.allOnes 64 else 0)

/-- A comparison instruction: some truth value that agrees with the condition is written. -/
def CmpOut (i : Instr) (g : Guard) (toG : Bool) (rd : BitVec 5) (s : State) (c : Prop) : Prop :=
  Ready s g → ∃ b : Bool, (b = true ↔ c) ∧ exec i s = .next (s.retireWith 8 (truth toG rd b))

/-- The rounding mode of R276. -/
def modeOf (s : State) (o : OpR) : Nat := if o.md.getLsbD 3 then o.md.toNat % 8 else bits s.me.status.toNat 7 5

/-- The value of a float operand under the thread's STATUS (R221, R228). -/
def fop (s : State) (o : OpR) (r : BitVec 5) : FVal := decF (numMode s.me.status) o.ty (s.me.rg r).toNat

/-- The draw of a rounding under mode 5 (R226): draw 0 of one fresh block. -/
def draw0 (s : State) (mode : Nat) : Nat := if mode = 5 then (philox s.me.rngkey s.me.rngctr).toNat % 65536 else 0

/-- A scalar float instruction rounds the exact result once (R276): `x` is the exact value with the flags of its operation. -/
def FltOut (i : Instr) (g : Guard) (o : OpR) (s : State) (ops : List FVal) (x : FVal × Flags) : Prop :=
  let r := rndF (numMode s.me.status) o.ty (modeOf s o) (draw0 s (modeOf s o)) x.1
  RegOut i g 8 s (fun t => (({ t with rngctr := if modeOf s o = 5 then t.rngctr + 1 else t.rngctr } : Thread).wg o.rd
    (BitVec.ofNat 64 r.1)).raise (r.2 ||| x.2 ||| (if ops.any FVal.isSig then flINV else 0)))

/-- A branch outside a delay slot whose guard holds. -/
def BranchReady (s : State) (g : Guard) : Prop := Ready s g ∧ s.me.slot = .plain

/-- A branch that writes what `f` says at its issue, and is taken to `a`, or untaken (R281). -/
def BranchOut (i : Instr) (g : Guard) (s : State) (a : Option Word) (f : Thread → Thread) : Prop :=
  BranchReady s g → exec i s = .next (s.branch a f)

/-- The conditions of R248. -/
def branchHolds (c : Nat) (a b : Word) : Bool :=
  [a == b, a != b, decide (a.toInt < b.toInt), decide (a.toInt ≥ b.toInt), decide (a.toNat < b.toNat), decide (a.toNat ≥ b.toNat),
   a &&& b != 0, a &&& b == 0].getD c false

/-- The conditions of brp (R282). -/
def predHolds (c : Nat) (p : Word) : Bool :=
  [p.getLsbD 0, !p.getLsbD 0, p != 0, p == 0, p == BitVec.allOnes 64, p != BitVec.allOnes 64].getD c false

end Sys2Proof.Claims

section
open Sys2Proof Sys2Proof.Machine Sys2Proof.Claims

/-- R270: the 64-bit immediate instructions; shi shifts by IMM32[5:0]. -/
def Sys2Proof.Claims.immediateResults : Prop := ∀ (g : Guard) (o : OpI) (s : State),
  let a := s.me.rg o.ra
  let i := o.imm.signExtend 64
  let n := o.imm.toNat % 64
  WordOut (.addi g o) g 8 o.rd s (a + i) ∧ WordOut (.andi g o) g 8 o.rd s (a &&& i) ∧ WordOut (.ori g o) g 8 o.rd s (a ||| i)
    ∧ WordOut (.xori g o) g 8 o.rd s (a ^^^ i)
    ∧ (o.fn.toNat ≤ 3 → WordOut (.shi g o) g 8 o.rd s
        (if o.fn = 0 then a <<< n else if o.fn = 1 then a >>> n else if o.fn = 2 then a.sshiftRight n else a.rotateLeft n))

/-- R269 and R271 to R273: the moves, the bit fields, lea and digit. -/
def Sys2Proof.Claims.moveResults : Prop := ∀ (g : Guard) (o : OpR) (i : OpI) (m : OpM) (s : State),
  let p := o.md.toNat % 64
  let n := o.fn.toNat % 128
  let esz := if m.ty = .f36 ∨ m.ty = .i36 then 8 else max 1 (m.ty.width / 8)
  RegOut (.nop g o) g 8 s id
    ∧ WordOut (.mov g o) g 8 o.rd s (s.me.rg o.ra)
    ∧ WordOut (.sel g o) g 8 o.rd s (if (s.me.rp o.rc.toNat).getLsbD 0 then s.me.rg o.ra else s.me.rg o.rb)
    ∧ WordOut (.movi g i) g 8 i.rd s (if i.fn = 0 then i.imm.signExtend 64 else i.imm.setWidth 64)
    ∧ (i.fn = 0 → WordOut (.movk g i) g 8 i.rd s (((s.me.rg i.rd) &&& 0xFFFFFFFF00000000) ||| i.imm.setWidth 64))
    ∧ (i.fn = 1 → WordOut (.movk g i) g 8 i.rd s (((s.me.rg i.rd) &&& 0xFFFFFFFF) ||| (i.imm.setWidth 64 <<< 32)))
    ∧ (1 ≤ n → p + n ≤ 64 → o.ty = .n64 → WordOut (.ext g o) g 8 o.rd s (((s.me.rg o.ra).extractLsb' p n).setWidth 64))
    ∧ (1 ≤ n → p + n ≤ 64 → o.ty = .i64 → WordOut (.ext g o) g 8 o.rd s (((s.me.rg o.ra).extractLsb' p n).signExtend 64))
    ∧ (1 ≤ n → p + n ≤ 64 → ∃ x : Word, WordOut (.ins g o) g 8 o.rd s x
        ∧ ∀ j, j < 64 → x.getLsbD j = if p ≤ j ∧ j < p + n then (s.me.rg o.ra).getLsbD (j - p) else (s.me.rg o.rd).getLsbD j)
    ∧ WordOut (.lea g m) g (if m.x.isSome then 12 else 8) m.rd s
        (s.me.rg m.ra + s.me.rg m.rb * BitVec.ofNat 64 esz + m.off.signExtend 64 * BitVec.ofNat 64 esz + (m.x.getD 0).signExtend 64)
    ∧ (s.me.rg o.rb ≠ 0 → s.me.rg o.rc ≠ 0 → WordOut (.digit g o) g 8 o.rd s
        (BitVec.ofNat 64 ((s.me.rg o.ra).toNat / (s.me.rg o.rb).toNat % (s.me.rg o.rc).toNat)))

/-- R269 to R273: the immediate instructions, the moves, the bit fields, lea and digit. -/
def Obligations.ImmediateAndMoveResults : Prop := Claims.immediateResults ∧ Claims.moveResults

/-- R266: quotient and remainder for a divisor other than zero. -/
def Sys2Proof.Claims.divideResults : Prop := ∀ (g : Guard) (o : OpR) (s : State), o.ty.isInt = true →
  let a := val o.ty (s.me.rg o.ra)
  let b := val o.ty (s.me.rg o.rb)
  b ≠ 0 → IntOut (.div g o) g o s (quot (o.fn == 1) a b) ∧ WordOut (.rem g o) g 8 o.rd s (wrap o.ty (a - b * quot (o.fn == 1) a b))

/-- R266 and R273: a zero divisor, or a zero radix, traps with DIVZERO and sr.EINFO 0. -/
def Sys2Proof.Claims.divideByZero : Prop := ∀ (g : Guard) (o : OpR) (s : State), Ready s g →
  (o.ty.isInt = true → val o.ty (s.me.rg o.rb) = 0 →
    exec (.div g o) s = .next (trap s 0x11 0 8 false false) ∧ exec (.rem g o) s = .next (trap s 0x11 0 8 false false))
  ∧ (s.me.rg o.rb = 0 ∨ s.me.rg o.rc = 0 → exec (.digit g o) s = .next (trap s 0x11 0 8 false false))

/-- R266, R273: quotients, remainders and digits, and the trap on a zero divisor or radix. -/
def Obligations.DivisionResults : Prop := Claims.divideResults ∧ Claims.divideByZero

/-- R267, R268, R274, R275: comparisons and predicates. -/
def Obligations.CompareResults : Prop := ∀ (g : Guard) (o : OpR) (i : OpI) (s : State),
  let a := s.me.rp o.ra.toNat
  let b := s.me.rp o.rb.toNat
  (o.ty.isInt = true → o.fn.toNat ≤ 5 →
    CmpOut (.cmp g o) g (o.md.getLsbD 0) o.rd s (holds o.fn.toNat (val o.ty (s.me.rg o.ra)) (val o.ty (s.me.rg o.rb))))
  ∧ (i.fn.toNat % 8 ≤ 5 → CmpOut (.cmpi g i) g (i.fn.getLsbD 4) i.rd s (
      if i.fn.getLsbD 3 then holds (i.fn.toNat % 8) (s.me.rg i.ra).toNat (i.imm.signExtend 64).toNat
      else holds (i.fn.toNat % 8) (s.me.rg i.ra).toInt (i.imm.signExtend 64).toInt))
  ∧ (o.fn.toNat ≤ 7 → RegOut (.plog g o) g 8 s (fun t => t.wp o.rd.toNat
      ([a &&& b, a ||| b, a ^^^ b, a &&& ~~~b, a ||| ~~~b, ~~~(a &&& b), ~~~(a ||| b), ~~~(a ^^^ b)].getD o.fn.toNat 0)))
  ∧ (o.fn = 0 → WordOut (.pmov g o) g 8 o.rd s a)
  ∧ (o.fn = 1 → RegOut (.pmov g o) g 8 s (fun t => t.wp o.rd.toNat (s.me.rg o.ra)))
  ∧ (o.fn = 2 → RegOut (.pmov g o) g 8 s (fun t => t.wp o.rd.toNat (if s.me.rg o.ra = 0 then 0 else BitVec.allOnes 64)))

/-- R277: the exact sum, product, multiply-add, quotient and root, each rounded once. -/
def Sys2Proof.Claims.floatResults : Prop := ∀ (g : Guard) (o : OpR) (s : State),
  let a := fop s o o.ra
  let b := fop s o o.rb
  let c := fop s o o.rc
  let down := modeOf s o == 2
  let p := fmul a b
  FltOut (.fadd g o) g o s [a, b] (fadd down a (if o.fn = 1 then b.neg else b))
    ∧ FltOut (.fmul g o) g o s [a, b] (fmul a b)
    ∧ FltOut (.fdiv g o) g o s [a, b] (fdiv a b)
    ∧ FltOut (.fsqrt g o) g o s [a] (fsqrt a)
    ∧ (o.fn = 0 → FltOut (.ffma g o) g o s [a, b, c] ((fadd down p.1 c).1, p.2 ||| (fadd down p.1 c).2))
    ∧ (o.fn = 1 → FltOut (.ffma g o) g o s [a, b, c] ((fadd down p.1 c.neg).1, p.2 ||| (fadd down p.1 c.neg).2))
    ∧ (o.fn = 2 → FltOut (.ffma g o) g o s [a, b, c] ((fadd down (fmul a.neg b).1 c).1, p.2 ||| (fadd down (fmul a.neg b).1 c).2))
    ∧ (o.fn = 3 → FltOut (.ffma g o) g o s [a, b, c] ((fadd down (fmul a.neg b).1 c.neg).1, p.2 ||| (fadd down (fmul a.neg b).1 c.neg).2))

/-- R278 to R280: minimum and maximum, comparison, conversion. -/
def Sys2Proof.Claims.floatSelectResults : Prop := ∀ (g : Guard) (o : OpR) (s : State),
  let n := numMode s.me.status
  let a := fop s o o.ra
  let b := fop s o o.rb
  let sig := if a.isSig || b.isSig then flINV else 0
  let x := flushed n o.ty (s.me.rg o.ra).toNat
  let y := flushed n o.ty (s.me.rg o.rb).toNat
  let src := (Ty.ofCode (o.fn.toNat % 64)).getD .f32
  let num := fun (v w : FVal) => v.isNan = false ∧ w.isNan = false
  (∃ p, RegOut (.fminmax g o) g 8 s (fun t => (t.wg o.rd (BitVec.ofNat 64 p)).raise sig)
      ∧ (a.isNan = true → b.isNan = true → p = canonNan n o.ty)
      ∧ (a.isNan = true → b.isNan = false → p = y) ∧ (a.isNan = false → b.isNan = true → p = x)
      ∧ (num a b → fltOrd a b = true → p = if o.fn = 1 then y else x)
      ∧ (num a b → fltOrd b a = true → p = if o.fn = 1 then x else y))
  ∧ (o.fn.toNat ≤ 7 → ∃ c, RegOut (.fcmp g o) g 8 s (fun t => (truth (o.md.getLsbD 0) o.rd c t).raise
        (if 2 ≤ o.fn.toNat ∧ o.fn.toNat ≤ 5 then (if a.isNan || b.isNan then flINV else 0) else sig))
      ∧ ((a.isNan || b.isNan) = true → (c = true ↔ o.fn = 1 ∨ o.fn = 6))
      ∧ (∀ r, fcmpv a b = some r → c = [r == .eq, r != .eq, r == .lt, r != .gt, r == .gt, r != .lt, false, true].getD o.fn.toNat false))
  ∧ (let r := cvt n src o.ty (modeOf s o) (draw0 s (modeOf s o)) ((s.me.rg o.ra).toNat % 2 ^ src.width)
     RegOut (.fcvt g o) g 8 s (fun t => (({ t with rngctr := if modeOf s o = 5 then t.rngctr + 1 else t.rngctr } : Thread).wg o.rd
       (if o.ty.isInt then extT o.ty r.1 else BitVec.ofNat 64 r.1)).raise r.2))

/-- R277 to R280: scalar floating point. Rests on choices of the model: log entries 91. -/
def Obligations.FloatingPointResults : Prop := Claims.floatResults ∧ Claims.floatSelectResults

/-- R281 to R284, R286: what a branch outside a delay slot writes at its issue and where it goes. Rests on choices of the model: log entries 71. -/
def Obligations.BranchResults : Prop := ∀ (g : Guard) (o : OpB) (r : OpR) (s : State),
  let tgt := s.me.pc + 4 * o.off.signExtend 64
  let goes := fun (c : Bool) => if c then some tgt else none
  let link := returnAddr s (coreOf s.cur) s.me.ctx s.me.sup (s.me.pc + 8).toNat
  let dec := s.me.rg o.ra - 1
  let n := s.me.nest
  (o.cond.toNat ≤ 7 → BranchOut (.br g o) g s (goes (branchHolds o.cond.toNat (s.me.rg o.ra) (s.me.rg o.rb))) id)
    ∧ (o.cond.toNat ≤ 7 → BranchOut (.bri g o) g s (goes (branchHolds o.cond.toNat (s.me.rg o.ra) (o.rb.signExtend 64))) id)
    ∧ (o.cond.toNat ≤ 5 → BranchOut (.brp g o) g s (goes (predHolds o.cond.toNat (s.me.rp o.ra.toNat))) id)
    ∧ BranchOut (.jmp g o) g s (some tgt) id
    ∧ (BranchReady s g → exec (.call g o) s = .next (link.1.branch (some (link.1.me.pc + 4 * o.off.signExtend 64))
        (fun t => t.wg 30 link.2)))
    ∧ BranchOut (.loop g o) g s (goes (dec != 0)) (fun t => t.wg o.ra dec)
    ∧ ((s.me.rg r.ra).toNat % 4 = 0 → r.fn = 0 → BranchOut (.jr g r) g s (some (s.me.rg r.ra)) id)
    ∧ ((s.me.rg r.ra).toNat % 4 = 0 → r.fn = 1 → BranchReady s g →
        exec (.jr g r) s = .next (link.1.branch (some (s.me.rg r.ra)) (fun t => t.wg r.rd link.2)))
    ∧ ((s.me.rg 30).toNat % 4 = 0 → BranchOut (.ret g r) g s (some (s.me.rg 30)) id)
    ∧ (n.active = false → BranchOut (.lnext g o) g s none id)
    ∧ (n.active = true → n.n.length = 4 → n.i.length = 4 → BranchOut (.lnext g o) g s (goes n.advance.2) (fun t =>
        let t := ({ t with nest := n.advance.1 } : Thread).wg o.ra n.advance.1.addr
        if o.rb = 0 then t else t.wg o.rb n.advance.1.packed))

/-- R208: a control-transfer instruction in a delay slot raises SLOT, with its opcode as sr.EINFO, before it executes. -/
def Sys2Proof.Claims.slotTraps : Prop := ∀ (g : Guard) (o : OpB) (r : OpR) (s : State), s.me.slot ≠ .plain →
  exec (.br g o) s = .next (trap s 0x03 0x30 8 false false) ∧ exec (.bri g o) s = .next (trap s 0x03 0x31 8 false false)
    ∧ exec (.brp g o) s = .next (trap s 0x03 0x32 8 false false) ∧ exec (.jmp g o) s = .next (trap s 0x03 0x33 8 false false)
    ∧ exec (.call g o) s = .next (trap s 0x03 0x34 8 false false) ∧ exec (.jr g r) s = .next (trap s 0x03 0x35 8 false false)
    ∧ exec (.ret g r) s = .next (trap s 0x03 0x36 8 false false) ∧ exec (.loop g o) s = .next (trap s 0x03 0x37 8 false false)
    ∧ exec (.lnext g o) s = .next (trap s 0x03 0x39 8 false false) ∧ exec (.eret g r) s = .next (trap s 0x03 0xE2 8 false false)

/-- R239, R283: a misaligned register target raises ALIGN in the branch, with the target as sr.EINFO. -/
def Sys2Proof.Claims.misalignedTargets : Prop := ∀ (g : Guard) (r : OpR) (s : State), BranchReady s g →
  ((s.me.rg r.ra).toNat % 4 ≠ 0 → exec (.jr g r) s = .next (trap s 0x04 (s.me.rg r.ra).toNat 8 false false))
  ∧ ((s.me.rg 30).toNat % 4 ≠ 0 → exec (.ret g r) s = .next (trap s 0x04 (s.me.rg 30).toNat 8 false false))

/-- R208, R239, R283: where a control-transfer instruction traps before it branches. -/
def Obligations.BranchTraps : Prop := Claims.slotTraps ∧ Claims.misalignedTargets

end

namespace Sys2Proof.Claims
open Sys2Proof.Machine

/-- Scalar-guarded instructions that transfer no control and are no part of a packet, with the bytes they take. -/
def plainForm : Instr → Option (Guard × Nat)
  | .nop g _ | .add g _ | .sub g _ | .mul g _ | .mulh g _ | .div g _ | .rem g _ | .and g _ | .or g _ | .xor g _ | .shl g _ | .shr g _
  | .sra g _ | .rot g _ | .clz g _ | .ctz g _ | .popc g _ | .min g _ | .max g _ | .cmp g _ | .sel g _ | .mov g _ | .ext g _ | .ins g _
  | .madd g _ | .digit g _ | .plog g _ | .pmov g _ | .fadd g _ | .fmul g _ | .ffma g _ | .fminmax g _ | .fcmp g _ | .fcvt g _
  | .fdiv g _ | .fsqrt g _ | .regroup g _ | .yield g _ | .exit g _ | .ccopRd g _ | .ccopSet g _ | .ccopAdd g _ | .ccopClr g _
  | .tiledef g _ | .tilest g _ | .flushrFlush g _ | .flushrInv g _ | .wfence g _ | .nmfence g _ | .sendOpen g _ | .sendOne g _
  | .recv g _ | .rpoll g _ | .wirebar g _ | .waitclk g _ | .rdclk g _ | .sample g _ | .pdstep g _ | .tblswap g _ | .hwait g _
  | .htest g _ | .hcancel g _ | .hmovTok g _ | .hmovH g _ | .hmovClr g _ | .hstat g _ | .prio g _ | .tlbinvCtx g _ | .tlbinvPage g _
  | .tlbinvAll g _ | .scaleset g _ => some (g, 8)
  | .addi g _ | .andi g _ | .ori g _ | .xori g _ | .shi g _ | .cmpi g _ | .movi g _ | .movk g _ | .lnest g _ | .trap g _ | .brk g _
  | .ccwait g _ | .mxclaim g _ | .mxrel g _ | .mxzero g _ | .rdsr g _ | .wrsr g _ | .statusWrite g _ | .rxRingRegWrite g _
  | .rxheadWrite g _ | .loftsplitWrite g _ | .wireRegWrite g _ | .wallowWrite g _ | .vicgroupWrite g _ | .fqcfgWrite g _ | .scall g _
  | .capr g _ | .phase g _ => some (g, 8)
  | .fence g _ | .barcfg g _ | .bararr g _ | .barwait g _ | .barsync g _ | .maskld g _ => some (g, 8)
  | .lea g o | .ld g o | .st g o | .pref g o | .amo g o | .amon g o | .cas g o => some (g, if o.x.isSome then 12 else 8)
  | .get g _ | .put g _ | .xop g _ | .xred g _ | .xscan g _ | .mxjob g _ | .mxcurve g _ | .mxdrain g _ | .cpjob g _ | .chld g _
  | .chstAcc g _ | .chstApply g _ | .gpool g _ | .optjob g _ | .spawn g _ | .keyopLoad g _ | .keyopKill g _ | .tdescRd g _
  | .tdescWr g _ | .tdescWr2 g _ | .mscpinPin g _ | .mscpinRel g _ | .mscpinRd g _ => some (g, 16)
  | _ => none

/-- Supervisor-only instructions with their sr.EINFO (R207, R398 to R401). -/
def supOnly : Instr → Option (Guard × Nat)
  | .tlbinvCtx g _ | .tlbinvPage g _ | .tlbinvAll g _ => some (g, 0xE4)
  | .keyopLoad g _ | .keyopKill g _ => some (g, 0xE5)
  | .rdsr g o => if 0x83 ≤ o.imm.toNat ∧ o.imm.toNat ≤ 0x86 then some (g, 0xE0 + o.imm.toNat * 256) else none
  | .wrsr g o => if o.imm.toNat ∈ [0x80, 0x81, 0x83, 0x85, 0x86] then some (g, 0xE1 + o.imm.toNat * 256) else none
  | .loftsplitWrite g _ => some (g, 0xE1 + 0x40 * 256)
  | .wallowWrite g _ => some (g, 0xE1 + 0x46 * 256)
  | .vicgroupWrite g _ => some (g, 0xE1 + 0x60 * 256)
  | .fqcfgWrite g _ => some (g, 0xE1 + 0x84 * 256)
  | _ => none

/-- The value that a wrsr of sr.STATUS or sr.WALLOW writes is legal there (R160, R254). -/
def legalValue (s : State) : Instr → Bool
  | .statusWrite _ o => decide (bits (s.me.rg o.ra).toNat 7 5 < 6)
  | .wallowWrite _ o => decide (1 ≤ (s.me.rg o.ra).toNat % 128) && decide ((s.me.rg o.ra).toNat % 128 ≤ 64)
  | _ => true

/-- A trap of this cause enters the thread's own handler (R204). -/
def userTrap (t : Thread) (c : Nat) (scall : Bool) : Bool :=
  !t.status.getLsbD 0 && t.umask.getLsbD c && t.utvec.getLsbD 0 && !scall
/-- The die's handler is enabled. -/
def tvecOn (s : State) : Bool := (s.die (s.cur / 1024)).tvec.getLsbD 0

/-- The instruction that would run next in sequence, or the target of a taken branch behind its slot. -/
def follows (t : Thread) (len : Nat) : Word := match t.slot with | .taken a => a | _ => t.pc + BitVec.ofNat 64 len

/-- Nothing of the machine but the acting thread has changed. -/
def OnlyMe (s t : State) : Prop :=
  t = { s with threads := t.threads, blocked := t.blocked } ∧ ∀ th, th ≠ s.cur → t.th th = s.th th

/-- Instructions that write general registers only, with those they write. -/
def gForm : Instr → Option (Guard × List (BitVec 5))
  | .nop g _ => some (g, [])
  | .add g o | .sub g o | .mul g o | .madd g o | .mulh g o | .min g o | .max g o | .and g o | .or g o | .xor g o | .shl g o | .shr g o
  | .sra g o | .rot g o | .clz g o | .ctz g o | .popc g o | .sel g o | .mov g o | .ext g o | .ins g o | .fadd g o | .fmul g o | .ffma g o
  | .fdiv g o | .fsqrt g o | .fminmax g o | .fcvt g o | .ccopRd g o | .tilest g o | .rdclk g o | .hmovTok g o => some (g, [o.rd])
  | .addi g o | .andi g o | .ori g o | .xori g o | .shi g o | .movi g o | .movk g o => some (g, [o.rd])
  | .lea g o => some (g, [o.rd])
  | .mscpinRd g o => some (g, [o.rd])
  | _ => none

/-- The rounding instructions, which may raise flags and draw random bits. -/
def rounds : Instr → Bool
  | .fadd _ _ | .fmul _ _ | .ffma _ _ | .fdiv _ _ | .fsqrt _ _ | .fcvt _ _ => true
  | _ => false

/-- The instructions that may raise a sticky flag. -/
def flags : Instr → Bool
  | .add _ o | .sub _ o | .mul _ o | .madd _ o => o.md.getLsbD 0
  | .fminmax _ _ => true
  | i => rounds i

end Sys2Proof.Claims

section
open Sys2Proof Sys2Proof.Machine Sys2Proof.Claims

/-- R252, R253: g0 reads 0 and p0 reads all ones, writes to them are discarded, and every other register of the four files holds what
was written to it while the others keep theirs. -/
def Obligations.RegisterFiles : Prop := ∀ (t : Thread) (r q : BitVec 5) (i j : Nat) (x : Word) (v : Vec) (h : Handle),
  t.rg 0 = 0 ∧ t.rp 0 = BitVec.allOnes 64 ∧ t.wg 0 x = t ∧ t.wp 0 x = t
    ∧ (t.wg r x).rg q = (if q = r ∧ r ≠ 0 then x else t.rg q) ∧ (t.wp i x).rp j = (if j = i ∧ i ≠ 0 then x else t.rp j)
    ∧ (t.wv r v).rv q = (if q = r then v else t.rv q) ∧ (t.wh i h).rh j = (if j = i then h else t.rh j)

/-- R208, R281: how a thread goes on behind an instruction that has had its effect. -/
def Sys2Proof.Claims.goingOn : Prop := ∀ (s : State) (len : Nat) (f : Thread → Thread) (a : Option Word),
  let t := s.retireWith len f
  let b := s.branch a f
  OnlyMe s t ∧ t.me.pc = follows (f s.me) len ∧ t.me.slot = .plain ∧ t.me.waits = false ∧ t.blocked = false
    ∧ OnlyMe s b ∧ b.me.pc = (f s.me).pc + 8 ∧ b.me.slot = (match a with | some x => .taken x | none => .untaken)
    ∧ (∀ r, t.me.rg r = (f s.me).rg r ∧ b.me.rg r = (f s.me).rg r) ∧ (∀ r, t.me.rp r = (f s.me).rp r ∧ b.me.rp r = (f s.me).rp r)
    ∧ (∀ r, t.me.rv r = (f s.me).rv r ∧ b.me.rv r = (f s.me).rv r)
    ∧ (∀ r, t.me.rh r = (f s.me).rh r ∧ b.me.rh r = (f s.me).rh r) ∧ t.me.status = (f s.me).status ∧ b.me.status = (f s.me).status

/-- R242: an instruction whose guard is false has no effect but to let its thread go on, and a branch is untaken. -/
def Sys2Proof.Claims.falseGuard : Prop := ∀ (i : Instr) (g : Guard) (s : State), (s.me.rp g.pg.toNat).getLsbD 0 = g.pgn →
  (∀ n, plainForm i = some (g, n) → exec i s = .next (s.retireWith n id))
  ∧ (∀ (o : OpB) (r : OpR), s.me.slot = .plain → i ∈ [.br g o, .bri g o, .brp g o, .jmp g o, .call g o, .jr g r, .ret g r, .loop g o, .lnext g o] →
      exec i s = .next (s.branch none id))
  ∧ (∀ (r : OpR), s.me.slot = .plain → exec (.eret g r) s = .next (s.retireWith 8 id))

/-- R208, R242, R281: how a thread goes on, and what a false guard leaves. -/
def Obligations.GuardsAndGoingOn : Prop := Claims.goingOn ∧ Claims.falseGuard

/-- R203, R207, R398: a supervisor-only act in user mode raises PRIV with the opcode, and the register's index for rdsr and wrsr; the
privilege column comes before any check of the written value. -/
def Sys2Proof.Claims.privilege : Prop := ∀ (i : Instr) (g : Guard) (n : Nat) (s : State), i.wf = true → supOnly i = some (g, n) →
  Ready s g → s.me.status.getLsbD 0 = false → exec i s = .next (trap s 0x02 n 8 false false)

/-- R211: an instruction numbered 65 or above in an open packet, and one that waits, raise PKTOPEN. -/
def Sys2Proof.Claims.packetLimits : Prop := ∀ (g : Guard) (o : OpR) (m : OpM) (c : OpI) (s : State) (p : OpenPkt),
  (s.me.rp g.pg.toNat).getLsbD 0 = !g.pgn → s.me.pkt = some p →
  (65 ≤ p.count → ∀ i n, i.wf = true → plainForm i = some (g, n) → supOnly i = none → legalValue s i = true →
    exec i s = .next (trap s 0x0C 0 8 false false))
  ∧ (p.count < 65 → ∀ i, i ∈ [.recv g o, .ccwait g c, .barwait g m, .barsync g m, .wirebar g o, .waitclk g o, .regroup g o, .yield g o,
      .exit g o, .phase g c] → exec i s = .next (trap s 0x0C 1 8 false false))

/-- R203, R207, R211: supervisor-only acts in user mode, and the limits of an open packet. -/
def Obligations.InstructionLimits : Prop := Claims.privilege ∧ Claims.packetLimits

/-- R204: trap entry where a handler is entered: what is saved, the new status and mode, and where the thread goes. -/
def Sys2Proof.Claims.trapEntry : Prop := ∀ (s : State) (c info len : Nat) (scall fut : Bool), c < 256 → s.me.ecause.getLsbD 63 = false →
  (userTrap s.me c scall || tvecOn s) = true →
  let t := (trap s c info len scall fut).me
  let u := s.me
  let user := userTrap u c scall
  let ds := (match u.slot with | .taken _ => true | _ => false) && c != 0x12 && c != 0x13
  let s1 := sfuFlush (abortPacket s s.cur) s.cur
  t.ecause = BitVec.ofNat 64 (2 ^ 63 + c) ∧ t.einfo = BitVec.ofNat 64 info
    ∧ (∀ k, t.estat.getLsbD k = match k with
        | 0 => u.status.getLsbD 0 | 1 => u.status.getLsbD 2 | 2 => ds | 3 => user | 4 => fut | _ => false)
    ∧ (c ≠ 0x12 → c ≠ 0x13 → t.epc = u.pc &&& ~~~(3#64))
    ∧ (c = 0x12 ∨ c = 0x13 → t.epc =
        BitVec.ofNat 64 (nextInstr s1 (s.cur / 4) u.ctx (u.status.getLsbD 0) (follows u len).toNat).2 &&& ~~~(3#64))
    ∧ (ds = true → ∀ a, u.slot = .taken a → t.ebt = a &&& ~~~(3#64)) ∧ (ds = false → t.ebt = 0)
    ∧ (∀ k, t.status.getLsbD k = if k = 0 then (!user || u.status.getLsbD 0) else if k = 2 then false else u.status.getLsbD k)
    ∧ t.pc = (if user then u.utvec else (s.die (s.cur / 1024)).tvec) &&& 0x007FFFFFFFFFFFFC
    ∧ t.slot = .plain ∧ t.pkt = none ∧ (∀ r, t.rg r = u.rg r) ∧ (∀ r, t.rp r = u.rp r) ∧ (∀ r, t.rh r = u.rh r)

/-- R73, R204: a trap while sr.ECAUSE.BUSY is set, or bound for a supervisor handler that is off, faults the crew: the node keeps
the first cause, the thread has ended, and the crew's other threads are to stop. -/
def Sys2Proof.Claims.crewFaults : Prop := ∀ (s : State) (c info len : Nat) (scall fut : Bool),
  s.me.ecause.getLsbD 63 = true ∨ (userTrap s.me c scall = false ∧ tvecOn s = false) →
  let t := trap s c info len scall fut
  let n := s.node s.me.node
  (t.node s.me.node).failing = true ∧ (t.node s.me.node).cause = (if n.failing then n.cause else c) ∧ t.me.st = .exited
    ∧ (∀ th, th ∈ n.crew → th ≠ s.cur → (s.th th).node = s.me.node → (s.th th).st = .running → (t.th th).st = .stopping)

/-- R204, R73: trap entry, and the traps that fault the crew. -/
def Obligations.TrapsEnterOrFaultTheCrew : Prop := Claims.trapEntry ∧ Claims.crewFaults

/-- R290, R399, R240: trap, brk, scall and a word that is no instruction take their traps. -/
def Sys2Proof.Claims.trapInstructions : Prop := ∀ (g : Guard) (o : OpI) (w : BitVec 32) (s : State),
  (Ready s g → exec (.trap g o) s = .next (trap s 0x12 o.imm.toNat 8 false false)
    ∧ exec (.brk g o) s = .next (trap s 0x13 o.imm.toNat 8 false false)
    ∧ exec (.scall g o) s = .next (trap s 0x12 (2 ^ 63 + o.imm.toNat) 8 true false))
  ∧ exec (.illegalInstruction w) s = .next (trap s 0x01 w.toNat 8 false false)

/-- R205: eret restores what entry saved; user mode never reaches supervisor mode by it. -/
def Sys2Proof.Claims.returnFromTrap : Prop := ∀ (g : Guard) (o : OpR) (s : State), Ready s g → s.me.slot = .plain →
  let u := s.me
  (u.status.getLsbD 0 = false ∧ u.estat.getLsbD 0 = true → exec (.eret g o) s = .next (trap s 0x02 0xE2 8 false false))
  ∧ (u.status.getLsbD 0 = true ∨ u.estat.getLsbD 0 = false → Gives (.eret g o) s (fun t =>
      OnlyMe s t ∧ t.me.pc = u.epc ∧ t.me.slot = (if u.estat.getLsbD 2 then .taken u.ebt else .plain)
        ∧ t.me.resWait = u.estat.getLsbD 4
        ∧ (∀ k, t.me.status.getLsbD k = if k = 0 then u.estat.getLsbD 0 else if k = 2 then u.estat.getLsbD 1 else u.status.getLsbD k)
        ∧ (∀ k, t.me.ecause.getLsbD k = if k = 63 then false else u.ecause.getLsbD k)
        ∧ t.me.estat = u.estat ∧ t.me.epc = u.epc ∧ t.me.ebt = u.ebt ∧ t.me.einfo = u.einfo
        ∧ (∀ r, t.me.rg r = u.rg r) ∧ (∀ r, t.me.rp r = u.rp r) ∧ (∀ r, t.me.rv r = u.rv r) ∧ (∀ r, t.me.rh r = u.rh r)))

/-- R205, R240, R290, R399: the instructions that trap, and the return from a handler. -/
def Obligations.TrapAndReturn : Prop := Claims.trapInstructions ∧ Claims.returnFromTrap

/-- The frame of the register instructions that trap on no operand: nothing but their destination registers changes, STATUS only by
sticky flags where the instruction raises some, and every byte of local and device memory reads as before. -/
def Obligations.RegisterFrame : Prop := ∀ (i : Instr) (g : Guard) (l : List (BitVec 5)) (s t : State), i.wf = true → gForm i = some (g, l) →
  (Ready s g ∨ (s.me.rp g.pg.toNat).getLsbD 0 = g.pgn) → exec i s = .next t →
  OnlyMe s t ∧ (∀ r, r ∉ l → t.me.rg r = s.me.rg r) ∧ (∀ r, t.me.rp r = s.me.rp r) ∧ (∀ r, t.me.rv r = s.me.rv r)
    ∧ (∀ r, t.me.rh r = s.me.rh r)
    ∧ (∀ k, (k < 16 ∨ 22 ≤ k) → t.me.status.getLsbD k = s.me.status.getLsbD k)
    ∧ (∀ k, s.me.status.getLsbD k = true → t.me.status.getLsbD k = true)
    ∧ (flags i = false → t.me.status = s.me.status) ∧ (rounds i = false → t.me.rngctr = s.me.rngctr)
    ∧ t.me.rngkey = s.me.rngkey ∧ t.me.utvec = s.me.utvec ∧ t.me.umask = s.me.umask ∧ t.me.epc = s.me.epc ∧ t.me.ebt = s.me.ebt
    ∧ t.me.ecause = s.me.ecause ∧ t.me.einfo = s.me.einfo ∧ t.me.estat = s.me.estat ∧ t.me.sb = s.me.sb ∧ t.me.nest = s.me.nest
    ∧ (∀ k, locRead t k 1 = locRead s k 1) ∧ (∀ a, tget dramDefault t.dram a = tget dramDefault s.dram a)

end

namespace Sys2Proof.Claims
open Sys2Proof.Machine

/-- Element `j` of width `w` (R219). -/
def el (v : Vec) (w j : Nat) : Nat := (v.extractLsb' (w * j) w).toNat
/-- A pattern as an integer of its type. -/
def ival (t : Ty) (x : Nat) : Int := if t.signed then Int.bmod x (2 ^ t.width) else (x % 2 ^ t.width : Nat)
/-- An integer as a pattern of its type, wrapped, or clamped under SAT with the flag set when that changes it (R320). -/
def ipat (t : Ty) (sat : Bool) (x : Int) : Nat × Flags :=
  let y := max (least t) (min x (greatest t))
  if sat then ((y % 2 ^ t.width).toNat, if outside t x then flSAT else 0) else ((x % 2 ^ t.width).toNat, 0)
/-- A float result rounded once, with the flags of its operands. -/
def fpat (n : NumMode) (t : Ty) (mode rand : Nat) (ops : List FVal) (x : FVal × Flags) : Nat × Flags :=
  let r := rndF n t mode rand x.1
  (r.1, r.2 ||| x.2 ||| (if ops.any FVal.isSig then flINV else 0))

/-- Bit `j` of the element mask, or bit `j / 2` of a 4-bit type (R243). -/
def governs (s : State) (g : Guard) (w j : Nat) : Bool := (s.me.rp g.pg.toNat).getLsbD (if w = 4 then j / 2 else j) != g.pgn

/-- The draw of value `j` under mode 5 (R226): eight of each block. -/
def drawN (t : Thread) (mode j : Nat) : Nat :=
  if mode = 5 then (philox t.rngkey (t.rngctr + BitVec.ofNat 128 (j / 8))).toNat / 2 ^ (16 * (j % 8)) % 65536 else 0
/-- The counter behind the blocks of `k` draws. -/
def ctrAfter (t : Thread) (mode k : Nat) : BitVec 128 := if mode = 5 then t.rngctr + BitVec.ofNat 128 ((k + 7) / 8) else t.rngctr

/-- What a vector instruction leaves: `on` are the elements it writes, with their values and flags; the others are zero under Z, or keep
their values. Nothing else of the thread changes but its random counter; `draws` free values are used up. -/
def VecOut (i : Instr) (s : State) (len : Nat) (rd : BitVec 5) (w : Nat) (z : Bool) (on : Nat → Bool) (r : Nat → Nat × Flags)
    (ctr : BitVec 128) (draws : Nat := 0) : Prop :=
  overLimit s.me = false → Gives i s (fun t => OnlyMe { s with freeCount := s.freeCount + draws } t ∧ t.me.pc = follows s.me len ∧ t.me.slot = .plain
    ∧ (∀ j, j < 512 / w → el (t.me.rv rd) w j = if on j then (r j).1 % 2 ^ w else if z then 0 else el (s.me.rv rd) w j)
    ∧ (∀ q, q ≠ rd → t.me.rv q = s.me.rv q) ∧ (∀ q, t.me.rg q = s.me.rg q) ∧ (∀ q, t.me.rp q = s.me.rp q) ∧ (∀ q, t.me.rh q = s.me.rh q)
    ∧ t.me.status = s.me.status ||| BitVec.ofNat 64 (65536 * ((List.range (512 / w)).filter on).foldl (fun a j => a ||| (r j).2) 0)
    ∧ t.me.rngctr = ctr ∧ t.me.rngkey = s.me.rngkey ∧ t.me.sb = s.me.sb)

/-- Operand b of element `j` (R320): IMM32B, g[RB] for every element, or v[RB]. -/
def opB (s : State) (o : OpR) (w j : Nat) : Nat :=
  match o.x with
  | some i => i.toNat % 2 ^ w
  | none => if o.md.getLsbD 6 then (s.me.rg o.rb).toNat % 2 ^ w else el (s.me.rv o.rb) w j

/-- One element of R321: patterns a, b and c give the result and its flags. -/
def elemOut (i : Instr) (o : OpR) (n : NumMode) (mode rand a b c : Nat) : Nat × Flags :=
  let t := o.ty
  let w := t.width
  let I := ipat t (o.md.getLsbD 4)
  let R := fpat n t mode rand
  let down := mode == 2
  let x := decF n t a
  let y := decF n t b
  let z := decF n t c
  let p := ival t a
  let q := ival t b
  let r := ival t c
  let k := b % 64 % w
  let u := BitVec.ofNat w a
  match i with
  | .vadd _ _ => if t.isFloat then R [x, y] (fadd down x y) else I (p + q)
  | .vsub _ _ => if t.isFloat then R [x, y] (fadd down x y.neg) else I (p - q)
  | .vmul _ _ => if t.isFloat then R [x, y] (fmul x y) else if o.fn = 1 then ipat t false (Int.fdiv (p * q) (2 ^ w)) else I (p * q)
  | .vfma _ _ =>
    if t.isFloat then
      let m := fmul (if 2 ≤ o.fn.toNat then x.neg else x) y
      let s := fadd down m.1 (if o.fn.toNat % 2 = 1 then z.neg else z)
      R [x, y, z] (s.1, m.2 ||| s.2)
    else I ((if 2 ≤ o.fn.toNat then -(p * q) else p * q) + (if o.fn.toNat % 2 = 1 then -r else r))
  | .vmin _ _ => if t.isFloat then fMinMax n t false a b else (if q < p then b else a, 0)
  | .vmax _ _ => if t.isFloat then fMinMax n t true a b else (if p < q then b else a, 0)
  | .vun _ _ =>
    match o.fn.toNat with
    | 0 => if t.isFloat then ((u ^^^ ((1 : BitVec w) <<< (w - 1))).toNat, 0) else I (-p)
    | 1 => if t.isFloat then ((u &&& ~~~((1 : BitVec w) <<< (w - 1))).toNat, 0) else I (p.natAbs : Int)
    | 2 => ((~~~u).toNat, 0)
    | 3 => ((List.range w).findIdx (fun k => u.getLsbD (w - 1 - k)), 0)
    | 4 => ((List.range w).countP (fun k => u.getLsbD k), 0)
    | _ => R [x] (fsqrt x)
  | .vand _ _ => (a &&& b, 0)
  | .vor _ _ => (a ||| b, 0)
  | .vxor _ _ => (a ^^^ b, 0)
  | .vsh _ _ =>
    match o.fn.toNat with
    | 0 => ((u <<< k).toNat, 0)
    | 1 => ((u >>> k).toNat, 0)
    | 2 => ((u.sshiftRight k).toNat, 0)
    | _ => ((u.rotateLeft k).toNat, 0)
  | _ => (0, 0)

/-- The rounding mode of a vector instruction that rounds float results. -/
def vmode (s : State) (o : OpR) (rounds : Bool) : Nat := if rounds then modeOf s o else 0

/-- The identity of a reduction (R325) as a pattern: 0 add, 1 min, 2 max, 3 and, 4 or, 5 xor. -/
def ident (t : Ty) (op : Nat) : Nat :=
  let inf := ((fmtOf t false).inf).getD 0
  match op with
  | 1 => if t.isFloat then inf else (greatest t % 2 ^ t.width).toNat
  | 2 => if t.isFloat then inf + 2 ^ (t.width - 1) else (least t % 2 ^ t.width).toNat
  | 3 => 2 ^ t.width - 1
  | _ => 0

/-- A scalar register result of a vector instruction. -/
def RedOut (i : Instr) (s : State) (rd : BitVec 5) (x : Word) (f : Flags) (ctr : BitVec 128) : Prop :=
  overLimit s.me = false → exec i s = .next (s.retireWith 8 (fun t => (({ t with rngctr := ctr } : Thread).wg rd x).raise f))

/-- The governed elements of v[RA], in ascending order. -/
def governed (s : State) (g : Guard) (o : OpR) : List Nat :=
  ((List.range (512 / o.ty.width)).filter (governs s g o.ty.width)).map (el (s.me.rv o.ra) o.ty.width)

/-- The key and payload of sort position `j`. -/
def sortPair (v w : Vec) (j : Nat) : Nat × Nat := (el v 32 j, el w 32 j)

end Sys2Proof.Claims

section
open Sys2Proof Sys2Proof.Machine Sys2Proof.Claims

/-- R320, R321: vadd, vsub, vmul, vfma, vmin, vmax, vun, vand, vor, vxor and vsh, element by element. Rests on choices of the model: log entries 77. -/
def Obligations.VectorArithmetic : Prop := ∀ (i : Instr) (g : Guard) (o : OpR) (s : State), i.wf = true →
  i ∈ [.vadd g o, .vsub g o, .vmul g o, .vfma g o, .vmin g o, .vmax g o, .vun g o, .vand g o, .vor g o, .vxor g o, .vsh g o] →
  let w := o.ty.width
  let r := o.ty.isFloat && (i ∈ [.vadd g o, .vsub g o, .vmul g o, .vfma g o, .vmin g o, .vmax g o] || (i = .vun g o && o.fn = 5))
  let m := vmode s o r
  VecOut i s (if o.x.isSome then 12 else 8) o.rd w (o.md.getLsbD 5) (governs s g w)
    (fun j => elemOut i o (numMode s.me.status) m (drawN s.me m j) (el (s.me.rv o.ra) w j) (opB s o w j) (el (s.me.rv o.rc) w j))
    (ctrAfter s.me m (512 / w))

/-- R322, R327: vsel, vbcast, vext, vperm and vshuf move patterns and set no flag. -/
def Sys2Proof.Claims.vectorMoves : Prop := ∀ (g : Guard) (o : OpR) (s : State),
  let w := o.ty.width
  let n := 512 / w
  let len := if o.x.isSome then 12 else 8
  let a := el (s.me.rv o.ra) w
  let b := el (s.me.rv o.rb) w
  let c := el (s.me.rv o.rc) w
  let z := o.md.getLsbD 5
  let on := governs s g w
  let k := (s.me.rg o.rb).toNat % n
  let out := fun (i : Instr) (len : Nat) (on : Nat → Bool) (z : Bool) (f : Nat → Nat) => VecOut i s len o.rd w z on (fun j => (f j, 0)) s.me.rngctr
  (o.ty.isMove4 = true → out (.vsel g o) len (fun _ => true) false (fun j => if on j then a j else opB s o w j))
  ∧ (o.ty.isMove8 = true → o.fn = 0 → out (.vbcast g o) len on z (fun _ => match o.x with | some i => i.toNat | none => (s.me.rg o.ra).toNat))
  ∧ (o.ty.isMove8 = true → o.fn = 1 → out (.vbcast g o) len on z (fun _ => a k))
  ∧ (o.ty.isMove8 = true → o.fn = 0 → RedOut (.vext g o) s o.rd
      (if on k then (if o.ty.isInt then wrap o.ty (a k) else BitVec.ofNat 64 (a k)) else s.me.rg o.rd) 0 s.me.rngctr)
  ∧ (o.ty.isMove8 = true → o.fn = 1 → out (.vext g o) 8 (fun j => on k && j == k) false (fun _ => (s.me.rg o.ra).toNat))
  ∧ (o.ty.isMove8 = true → o.fn = 0 → out (.vperm g o) 8 on z (fun j => a (b j % n)))
  ∧ (o.ty.isMove8 = true → o.fn = 1 → out (.vperm g o) 8 on z (fun j => if b j % (2 * n) < n then a (b j % (2 * n)) else c (b j % (2 * n) - n)))
  ∧ (o.ty.isMove8 = true → o.fn = 0 → out (.vshuf g o) 8 on z (fun j => if j % 2 = 0 then a (j / 2) else b ((j - 1) / 2)))
  ∧ (o.ty.isMove8 = true → o.fn = 1 → out (.vshuf g o) 8 on z (fun j => if j % 2 = 0 then a (j / 2 + n / 2) else b ((j - 1) / 2 + n / 2)))
  ∧ (o.ty.isMove8 = true → o.fn = 2 → out (.vshuf g o) 8 on z (fun j => if j < n / 2 then a (2 * j) else b (2 * j - n)))
  ∧ (o.ty.isMove8 = true → o.fn = 3 → out (.vshuf g o) 8 on z (fun j => if j < n / 2 then a (2 * j + 1) else b (2 * j - n + 1)))
  ∧ (o.ty.isMove8 = true → o.fn = 4 → out (.vshuf g o) 8 on z (fun j => a (n - 1 - j)))
  ∧ (o.ty.isMove8 = true → o.fn = 5 → out (.vshuf g o) 8 on z (fun j => a ((j + (s.me.rg o.rb).toNat) % n)))

/-- R322, R267, R279: vcmp writes bit j of p[RD] for every governed element j, clears the rest, and sets the flags of float compares. -/
def Sys2Proof.Claims.vectorCompare : Prop := ∀ (g : Guard) (o : OpR) (s : State), (Instr.vcmp g o).wf = true → overLimit s.me = false →
  let w := o.ty.width
  let n := numMode s.me.status
  let a := fun j => el (s.me.rv o.ra) w j
  let b := fun j => opB s o w j
  let on := fun j => decide (j < 512 / w) && governs s g w j
  let cond := fun j =>
    if o.ty.isFloat then fcmpCond o.fn.toNat (decF n o.ty (a j)) (decF n o.ty (b j))
    else cmpCond o.fn.toNat (ival o.ty (a j)) (ival o.ty (b j))
  let fl := fun j => if o.ty.isFloat then cmpFlags o.fn.toNat (decF n o.ty (a j)) (decF n o.ty (b j)) else 0
  ∃ x : Word, (∀ j, j < 64 → x.getLsbD j = (on j && cond j))
    ∧ exec (.vcmp g o) s = .next (s.retireWith (if o.x.isSome then 12 else 8) (fun t => (t.wp o.rd.toNat x).raise
        (((List.range (512 / w)).filter on).foldl (fun f j => f ||| fl j) 0)))

/-- R267, R279, R322, R327: vector moves and comparisons. -/
def Obligations.VectorMovesAndCompares : Prop := Claims.vectorMoves ∧ Claims.vectorCompare

/-- R323, R280: vcvt converts the elements of a part; when narrowing, the others keep their values. Mask bit k governs conversion k; from
e2m1 to e2m1 there are 128 conversions for 64 mask bits, and what governs the upper 64 is left open but for p0 (log 92). -/
def Sys2Proof.Claims.vectorConvert : Prop := ∀ (g : Guard) (o : OpR) (s : State) (src : Ty), (Instr.vcvt g o).wf = true →
  Ty.ofCode (o.fn.toNat % 64) = some src →
  let ws := src.width
  let wd := o.ty.width
  let n := 512 / max ws wd
  let part := o.rc.toNat
  let first := if ws ≤ wd then 0 else part * n
  let ints := src.isInt && o.ty.isInt
  let m := vmode s o (!ints)
  let inside := fun j => decide (first ≤ j) && decide (j < first + n)
  let x := fun k => el (s.me.rv o.ra) ws (if ws ≤ wd then part * n + k else k)
  ∃ hi : Nat → Bool, (g.pg = 0 → ∀ k, hi k = !g.pgn) ∧
  let on := fun j => inside j && (if j - first < 64 then (s.me.rp g.pg.toNat).getLsbD (j - first) != g.pgn else hi (j - first))
  let r := fun j => if ints then ipat o.ty (o.md.getLsbD 4) (ival src (x (j - first)))
    else cvt (numMode s.me.status) src o.ty m (drawN s.me m (j - first)) (x (j - first))
  VecOut (.vcvt g o) s 8 o.rd wd false (fun j => on j || (inside j && o.md.getLsbD 5)) (fun j => if on j then r j else (0, 0))
    (ctrAfter s.me m n) (if src = .e2m1 ∧ o.ty = .e2m1 then 1 else 0)

/-- R324, R235: vdot accumulates exact sums of products into 32-bit lanes. -/
def Obligations.VectorDot : Prop := ∀ (g : Guard) (o : OpR) (s : State), (Instr.vdot g o).wf = true →
  let w := o.ty.width
  let k := 32 / w
  let n := numMode s.me.status
  let m := vmode s o o.ty.isFloat
  let tb := if o.fn = 1 then (match o.ty with | .i8 => Ty.n8 | .n8 => .i8 | .i4 => .n4 | .n4 => .i4 | t => t) else o.ty
  let a := fun lane i => el (s.me.rv o.ra) w (lane * k + i)
  let b := fun lane i => opB s o 32 lane / 2 ^ (w * i) % 2 ^ w
  let acc := fun lane => el (s.me.rv o.rd) 32 lane
  let out := fun r => VecOut (.vdot g o) s (if o.x.isSome then 12 else 8) o.rd 32 (o.md.getLsbD 5) (governs s g 32) r (ctrAfter s.me m 16)
  (o.ty.isFloat = false → out (fun l => ipat .i32 (o.md.getLsbD 4)
      (ival .i32 (acc l) + ((List.range k).map (fun i => ival o.ty (a l i) * ival tb (b l i))).sum)))
  ∧ (o.ty.isFloat = true → out (fun l =>
      let x := fun i => decF n o.ty (a l i)
      let y := fun i => decF n o.ty (b l i)
      let c := decF n .f32 (acc l)
      let sum := fsum (m == 2) [c, (fmul (x 0) (y 0)).1, (fmul (x 1) (y 1)).1]
      let r := fpat n .f32 m (drawN s.me m l) [c, x 0, x 1, y 0, y 1] sum
      (r.1, r.2 ||| (fmul (x 0) (y 0)).2 ||| (fmul (x 1) (y 1)).2)))

/-- R325: vred writes one reduction of the governed elements to g[RD]; with none it writes the operation's identity. -/
def Sys2Proof.Claims.vectorReduce : Prop := ∀ (g : Guard) (o : OpR) (s : State), (Instr.vred g o).wf = true →
  let l := governed s g o
  let n := numMode s.me.status
  let vs := l.map (decF n o.ty)
  let m := vmode s o (o.ty.isFloat && o.fn = 0 && !l.isEmpty)
  let out := fun x f => RedOut (.vred g o) s o.rd x f (ctrAfter s.me m 1)
  let fold := fun (f : Nat → Nat → Nat) (e : Nat) => wrap o.ty (ival o.ty (l.foldl f e))
  (o.ty.isFloat = false → o.fn = 0 → out (BitVec.ofInt 64 (l.map (ival o.ty)).sum) 0)
  ∧ (o.ty.isFloat = false → o.fn = 1 → ∃ x, out (wrap o.ty x) 0 ∧ (∀ e ∈ l, x ≤ ival o.ty e)
      ∧ (l = [] → x = greatest o.ty) ∧ (l ≠ [] → ∃ e ∈ l, x = ival o.ty e))
  ∧ (o.ty.isFloat = false → o.fn = 2 → ∃ x, out (wrap o.ty x) 0 ∧ (∀ e ∈ l, ival o.ty e ≤ x)
      ∧ (l = [] → x = least o.ty) ∧ (l ≠ [] → ∃ e ∈ l, x = ival o.ty e))
  ∧ (o.ty.isFloat = false → o.fn = 3 → out (fold (· &&& ·) (2 ^ o.ty.width - 1)) 0)
  ∧ (o.ty.isFloat = false → o.fn = 4 → out (fold (· ||| ·) 0) 0) ∧ (o.ty.isFloat = false → o.fn = 5 → out (fold (· ^^^ ·) 0) 0)
  ∧ (o.ty.isFloat = true → o.fn = 0 → let r := fpat n o.ty m (drawN s.me m 0) vs (fsum (m == 2) vs)
      out (BitVec.ofNat 64 r.1) r.2)
  ∧ (o.ty.isFloat = true → o.fn = 1 ∨ o.fn = 2 → l = [] → out (BitVec.ofNat 64 (ident o.ty o.fn.toNat)) 0)
  ∧ (o.ty.isFloat = true → o.fn = 1 ∨ o.fn = 2 → ∀ a q, l = a :: q →
      let r := l.foldl (fun (acc : Nat × Flags) x => let p := fMinMax n o.ty (o.fn == 2) acc.1 x; (p.1, acc.2 ||| p.2)) (a, 0)
      out (BitVec.ofNat 64 r.1) r.2)

/-- R326: vscan is the running operation of each segment, one rounding, wrap or clamp a step. -/
def Sys2Proof.Claims.vectorScan : Prop := ∀ (g : Guard) (o : OpR) (s : State), (Instr.vscan g o).wf = true → overLimit s.me = false →
  let w := o.ty.width
  let n := numMode s.me.status
  let op := o.fn.toNat % 4
  let m := vmode s o o.ty.isFloat
  let on := governs s g w
  let y := fun j => if on j then el (s.me.rv o.ra) w j else ident o.ty op
  let head := fun j => j = 0 ∨ (s.me.rp o.rc.toNat).getLsbD j = true
  let oper := fun j a b => elemOut (if op = 0 then .vadd g o else if op = 1 then .vmin g o else .vmax g o) o n m (drawN s.me m j) a b 0
  ∃ before after : Nat → Nat,
    (∀ j, head j → before j = ident o.ty op ∧ after j = y j)
    ∧ (∀ j, ¬ head (j + 1) → before (j + 1) = after j ∧ after (j + 1) = (oper (j + 1) (before (j + 1)) (y (j + 1))).1)
    ∧ Gives (.vscan g o) s (fun t => OnlyMe s t ∧ t.me.pc = follows s.me 8
        ∧ (∀ j, j < 512 / w → el (t.me.rv o.rd) w j = if on j then (if o.fn.getLsbD 2 then before j else after j)
            else if o.md.getLsbD 5 then 0 else el (s.me.rv o.rd) w j)
        ∧ (∀ q, q ≠ o.rd → t.me.rv q = s.me.rv q) ∧ (∀ q, t.me.rg q = s.me.rg q) ∧ t.me.rngctr = ctrAfter s.me m (512 / w))

/-- R325, R326: reductions and segmented scans. Rests on choices of the model: log entries 77. -/
def Obligations.VectorReductions : Prop := Claims.vectorReduce ∧ Claims.vectorScan

/-- R328: vsort orders the governed keys stably, each with its payload, and leaves the other positions as they are. -/
def Obligations.VectorSort : Prop := ∀ (g : Guard) (o : OpR) (s : State), (Instr.vsort g o).wf = true → overLimit s.me = false →
  let on := (List.range 16).filter (governs s g 32)
  let lt := fun (a b : Nat × Nat) => if o.fn = 1 then keyLt o.ty b.1 a.1 else keyLt o.ty a.1 b.1
  let pairs := fun (t : Thread) => on.map (sortPair (t.rv o.rd) (t.rv (o.rd + 1)))
  Gives (.vsort g o) s (fun t => OnlyMe s t ∧ t.me.pc = follows s.me 8 ∧ (pairs t.me).Perm (pairs s.me)
    ∧ (pairs t.me).Pairwise (fun a b => lt b a = false)
    ∧ (∀ x, (pairs t.me).filter (fun a => !lt a x && !lt x a) = (pairs s.me).filter (fun a => !lt a x && !lt x a))
    ∧ (∀ j, j < 16 → j ∉ on → sortPair (t.me.rv o.rd) (t.me.rv (o.rd + 1)) j = sortPair (s.me.rv o.rd) (s.me.rv (o.rd + 1)) j)
    ∧ (∀ q, q ≠ o.rd → q ≠ o.rd + 1 → t.me.rv q = s.me.rv q) ∧ (∀ q, t.me.rg q = s.me.rg q) ∧ t.me.status = s.me.status)

/-- R231, R329, R330: a block of 32 is quantised with one e8m0 scale, and dequantised by exact scaling and one rounding. -/
def Sys2Proof.Claims.vectorQuantise : Prop := ∀ (g : Guard) (o : OpR) (s : State) (src : Ty), overLimit s.me = false →
  Ty.ofCode (o.fn.toNat % 64) = some src →
  let n := numMode s.me.status
  let part := o.md.toNat / 16 % 4
  let f := fun k => if src = .f32 then (if k < 16 then el (s.me.rv o.ra) 32 k else el (s.me.rv (o.ra + 1)) 32 (k - 16)) else el (s.me.rv o.ra) 16 k
  let vs := (List.range 32).map (fun k => decF n src (f k))
  let mq := vmode s o (vs.all FVal.isFin)
  let q := quantBlock n o.ty mq (if mq = 5 then (List.range 32).map (drawN s.me mq) else []) vs
  let m := modeOf s o
  let x := (s.me.rg o.rb).toNat % 256
  let y := fun k => el (s.me.rv o.ra) src.width (part * 32 + k)
  let d := fun k => if x = 0xFF then (canonNan n o.ty, 0)
    else rndF n o.ty m (drawN s.me m k) ((decF n src (y k)).scale ((x : Int) - 127))
  ((Instr.vquant g o).wf = true → Gives (.vquant g o) s (fun t => OnlyMe s t ∧ t.me.pc = follows s.me 8
      ∧ (∀ k, k < 32 → el (t.me.rv o.rd) o.ty.width (part * 32 + k) = (q.2.1[k]?).getD 0 % 2 ^ o.ty.width)
      ∧ (∀ j, j < 512 / o.ty.width → (j < part * 32 ∨ part * 32 + 32 ≤ j) → el (t.me.rv o.rd) o.ty.width j = el (s.me.rv o.rd) o.ty.width j)
      ∧ (∀ r, r ≠ o.rd → t.me.rv r = s.me.rv r) ∧ (o.rc ≠ 0 → t.me.rg o.rc = BitVec.ofNat 64 q.1)
      ∧ (∀ r, r ≠ o.rc → t.me.rg r = s.me.rg r) ∧ t.me.rngctr = ctrAfter s.me mq 32 ∧ t.me.status = s.me.status ||| BitVec.ofNat 64 (65536 * q.2.2)))
  ∧ ((Instr.vdeq g o).wf = true → Gives (.vdeq g o) s (fun t => OnlyMe s t ∧ t.me.pc = follows s.me 8
      ∧ (∀ k, k < 32 → (if o.ty = .f32 then (if k < 16 then el (t.me.rv o.rd) 32 k else el (t.me.rv (o.rd + 1)) 32 (k - 16))
          else el (t.me.rv o.rd) o.ty.width k) = (d k).1 % 2 ^ o.ty.width)
      ∧ (∀ r, r ≠ o.rd → (r ≠ o.rd + 1 ∨ o.ty ≠ .f32) → t.me.rv r = s.me.rv r) ∧ (∀ r, t.me.rg r = s.me.rg r)
      ∧ t.me.rngctr = ctrAfter s.me m 32
      ∧ t.me.status = s.me.status ||| BitVec.ofNat 64 (65536 * (List.range 32).foldl (fun a k => a ||| (d k).2) 0)))

/-- R231, R280, R323, R329, R330: conversions, quantising and dequantising. Rests on choices of the model: log entries 77, 91, 92. -/
def Obligations.VectorConversions : Prop := Claims.vectorConvert ∧ Claims.vectorQuantise

/-- R338 to R340, R213: rng takes four blocks, and sfu queues its result for its register, unless its thread waits. Rests on choices of the model: log entries 12, 78. -/
def Obligations.RandomAndSpecial : Prop := ∀ (g : Guard) (o : OpR) (s : State), overLimit s.me = false →
  let w := o.ty.width
  let q := (s.clus (s.cur / 32)).sfu
  let word := fun j => (philox s.me.rngkey (s.me.rngctr + BitVec.ofNat 128 (j / 4))).toNat / 2 ^ (32 * (j % 4)) % 2 ^ 32
  let r := fun j => sfuElem (numMode s.me.status) o.ty o.fn.toNat (el (s.me.rv o.ra) w j)
  ((Instr.rng g o).wf = true → VecOut (.rng g o) s 8 o.rd 32 (o.md.getLsbD 5) (governs s g 32)
    (fun j => (if o.fn = 0 then word j else ((fmtOf .f32 false).round 0 0 false (.fin false (word j / 256) (-24))).1, 0)) (s.me.rngctr + 4))
  ∧ ((Instr.sfu g o).wf = true → q.length < 32 → (q.filter (fun e => e.1 == s.cur)).length < 4 → Gives (.sfu g o) s (fun t =>
      ∃ v : Vec, (t.clus (s.cur / 32)).sfu = q ++ [(s.cur, o.rd.toNat, v)]
        ∧ (∀ j, j < 512 / w → el v w j = if governs s g w j then (r j).1 % 2 ^ w else if o.md.getLsbD 5 then 0 else el (s.me.rv o.rd) w j)
        ∧ t.me.pc = follows s.me 8 ∧ (∀ x, t.me.rv x = s.me.rv x) ∧ (∀ x, t.me.rg x = s.me.rg x)
        ∧ t.me.status = s.me.status ||| BitVec.ofNat 64 (65536 * ((List.range (512 / w)).filter (governs s g w)).foldl (fun a j => a ||| (r j).2) 0)))
  ∧ ((Instr.sfu g o).wf = true → 32 ≤ q.length ∨ 4 ≤ (q.filter (fun e => e.1 == s.cur)).length → exec (.sfu g o) s = .next s.wait)

end

namespace Sys2Proof.Claims
open Sys2Proof.Machine

/-- The words of an instruction in a program's bytes decode to it, and end with it. -/
def Reads (n w : Nat) (i : Instr) : Prop := decode (leBytes n w) = .ok (i, []) ∧ i.bytes = n

/-- A machine whose acting thread has its turn: nothing is on the agenda, the module has power, and no debugger holds the thread. -/
def Turns (s : State) : Prop :=
  let u : State := { s with clock := s.clock + 1, blocked := false }
  s.agenda = [] ∧ s.powered = true ∧ s.others = false ∧ mayRun u s.cur = true ∧ atBreak u s.cur = false

/-- The thread's next word is translated and may be executed (R175), and its block stands in its fetch buffer or in the cluster's instruction
cache (R98), with these bytes from the word on, which are no PAD word; `u` is the state behind the fetch. -/
def Fetches (s : State) (bs : List Byte) (u : State) : Prop :=
  let a := s.me.pc.toNat
  ∃ x v b, translate { s with clock := s.clock + 1, blocked := false } (s.cur / 4) s.me.ctx s.me.sup a .fetch = (v, .ok x)
    ∧ bs = b.drop (a % 32) ∧ bytesToNat (bs.take 4) ≠ 3
    ∧ ((v.me.fbuf.find? (fun e => e.1 == a / 32) = some (a / 32, b) ∧ u = v)
      ∨ (v.me.fbuf.find? (fun e => e.1 == a / 32) = none ∧ u = deliver v (s.cur / 4) s.me.ctx (a / 32) b
        ∧ ∃ e, (v.clus (s.cur / 32)).icache.find? (fun e => e.ctx == s.me.ctx && e.blk == a / 32) = some e ∧ e.bytes = b))

/-- The registers an instruction waits for: the fields it names, but g0; none where its guard is false (R242). -/
def waitsFor (s : State) (i : Instr) : List Nat :=
  match operands i with
  | (some g, rs) => if (s.me.rp g.pg.toNat).getLsbD 0 = !g.pgn then rs.filter (· != 0) else []
  | (none, rs) => rs.filter (· != 0)

/-- Nothing is on its way to these registers of the acting thread: no read, no atomic and no special-function result. -/
def Arrived (s : State) (rs : List Nat) : Prop :=
  (∀ r ∈ s.me.pend, r ∉ rs) ∧ (∀ r ∈ (s.core (s.cur / 4)).reads, r.th = s.cur → r.reg ∉ rs)
    ∧ (∀ e ∈ (s.clus (s.cur / 32)).sfu, e.1 = s.cur → 32 + e.2.1 ∉ rs)
    ∧ ∀ e, (e ∈ s.me.sb ∨ (s.cur, e) ∈ (s.core (s.cur / 4)).sent) → ∀ r, e.ret = some r → r.rd ∉ rs ∧ (r.pair = true → r.rd + 1 ∉ rs)

end Sys2Proof.Claims

section
open Sys2Proof Sys2Proof.Machine Sys2Proof.Claims

/-- The Reset columns and sentences of the manual: what each register that states a reset value holds in State.reset. -/
def Sys2Proof.Claims.resetState : Prop :=
  let s := State.reset
  s.clock = 0
    ∧ (∀ q, (s.core q).wallow = 16 ∧ (s.core q).wiregrp = 0 ∧ (s.core q).wiretmo = 0 ∧ (s.core q).lsepoch = 0 ∧ (s.core q).out = 0
        ∧ (s.core q).loftCur = 0 ∧ ctxBase s q = 0x7C000)
    ∧ (∀ k, (s.clus k).vicgroup = 0)
    ∧ (∀ d, (s.die d).spilldly = 4096 ∧ (s.die d).gap = 8 ∧ (s.die d).preempts = 0 ∧ (s.die d).tvec = 0 ∧ (s.die d).fqcfg = 0
        ∧ (s.die d).fqHead = 0 ∧ (s.die d).fqTail = 0)
    ∧ (∀ st, (s.stack st).lfsr = 0xACE1 ∧ ∀ w, (tget {} (s.stack st).pins w).st = 0)
    ∧ (∀ c, (s.ctx c).ctl = 0 ∧ ∀ st, tget 0 (s.ctx c).sel st = 0)
    ∧ (∀ th, (s.th th).utvec = 0 ∧ (s.th th).umask = 0 ∧ (s.th th).epc = 0 ∧ (s.th th).ebt = 0 ∧ (s.th th).ecause = 0
        ∧ (s.th th).einfo = 0 ∧ (s.th th).estat = 0 ∧ (s.th th).status = 0 ∧ (s.th th).dlcount = 0 ∧ (s.th th).rngkey = 0
        ∧ (s.th th).rngctr = 0 ∧ (s.th th).rxbase = 0 ∧ (s.th th).rxsize = 0 ∧ (s.th th).rxhead = 0 ∧ (s.th th).rxtail = 0)
    ∧ (∀ p, (s.port p).st = 0 ∧ (s.port p).en = false)
    ∧ s.mgmt.stage = 0 ∧ s.mgmt.code = 0 ∧ (∀ k, tget 0 s.mgmt.meas k = 0) ∧ (∀ k, (tget {} s.mgmt.slots k).st = .empty)
    ∧ (∀ k, (tget {} s.mgmt.wear k).warn = 49152 ∧ (tget {} s.mgmt.wear k).crit = 61440 ∧ (tget {} s.mgmt.wear k).life = 0xFFFFFFFF)

/-- Reset memory lists nothing, and is in canonical form. -/
def Sys2Proof.Claims.resetMemory : Prop := State.reset.memOk = true ∧ State.reset.dram = [] ∧ State.reset.loc = []

/-- What State.reset holds. Rests on choices of the model: log entries 5, 6. -/
def Obligations.ResetHolds : Prop := Claims.resetState ∧ Claims.resetMemory

/-- R237 to R250: every well-formed instruction is read back from its words, with every field. -/
def Obligations.DecodeEncode : Prop := ∀ (i : Instr) (w : BitVec 128), i.wf = true → encode i = some w →
  decode (leBytes i.bytes w.toNat) = .ok (i, [])

/-- Words of each format written out from R245 to R250 and the opcode map of R255 decode to their instructions. -/
def Obligations.DecodeWords : Prop :=
  Reads 8 0x0000000C06294008 (.add ⟨0, false⟩ { rd := 5, ra := 5, rb := 6, rc := 0, ty := .i64, fn := 0, md := 0, x := none })
    ∧ Reads 8 0x0000000900024070 (.movi ⟨0, false⟩ { rd := 9, ra := 0, fn := 0, imm := 9 })
    ∧ Reads 8 0x0020120040290D00 (.ld ⟨3, false⟩
        { rd := 4, ra := 5, rb := 0, rq := .si, scope := .thread, ord := .relaxed, ty := .f32, span := 0, off := 4, x := none })
    ∧ Reads 8 0xFFFFFFFF813940C0 (.br ⟨0, false⟩ { ra := 5, rb := 7, cond := 1, hint := false, off := BitVec.ofInt 35 (-4) })
    ∧ Reads 12 0x3FC0000000000048004201C9 (.vmul ⟨0, false⟩
        { rd := 8, ra := 8, rb := 0, rc := 0, ty := .f32, fn := 0, md := 0, x := some 0x3FC00000 })
    ∧ Reads 16 0x0030C28A (.mxjob ⟨0, false⟩ { rd := 3, ra := 6, fn := 0, imm := 0, aux0 := 0, aux1 := 0 })

/-- Each step of the table goes on: an instruction or a step of a component answers a next state in every state, and so does every step
of the machine. Rests on choices of the model: log entries 58. -/
def Obligations.EveryStepGoesOn : Prop := (∀ (i : Instr) (s : State), ∃ t, exec i s = .next t) ∧ ∀ s : State, ∃ t, step s = .next t

/-- A step of a thread runs the instruction that its bytes decode to, at that very state but for the clock and what the fetch brings into the
TLBs and fetch buffers; what is on its way to the registers the instruction names comes first, and where it does not come the thread waits;
a word that is no instruction runs as one that traps. Rests on choices of the model: log entries 1, 2, 18, 70. -/
def Obligations.StepRunsDecoded : Prop := ∀ (s u : State) (bs : List Byte), Turns s → Fetches s bs u →
  let s1 := u.modMe id
  (∀ i r, decode bs = .ok (i, r) →
    (Arrived s1 (waitsFor s1 i) → step s = afterThread s.cur (exec i s1))
    ∧ (waitsFor s1 i = [] → step s = afterThread s.cur (exec i s1))
    ∧ (let s2 := regsCome s1 (waitsFor s1 i)
      (regsReady s2 (waitsFor s1 i) = true → step s = afterThread s.cur (exec i s2))
      ∧ (regsReady s2 (waitsFor s1 i) = false → step s = afterThread s.cur (.next s2.wait))))
  ∧ (∀ e, decode bs = .error e → step s = afterThread s.cur (exec (.illegalInstruction (BitVec.ofNat 32 (bytesToNat (bs.take 4)))) s1))

/-- Every step keeps both byte memories in canonical form. -/
def Obligations.StepKeepsMemory : Prop := ∀ s t : State, s.memOk = true → step s = .next t → t.memOk = true

end

namespace Sys2Proof.Claims
open Sys2Proof.Machine

/-- The byte at a local home. -/
def locByte (s : State) (k : Nat) : Byte := (locRead s k 1).headD 0
/-- The number that `n` bytes at a local home make. -/
def locNum (s : State) (k n : Nat) : Nat := bytesToNat ((List.range n).map (fun i => locByte s (k + i)))
/-- The byte of a local home as the thread sees it: its newest undrained byte, or the memory's (R182). -/
def seen (s : State) (k : Nat) : Byte :=
  (((ownBytes s.me (true, k / 32) s.me.seqNo)[k % 32]?).getD none).getD (locByte s k)
/-- The number that `n` seen bytes make. -/
def seenNum (s : State) (k n : Nat) : Nat := bytesToNat ((List.range n).map (fun i => seen s (k + i)))

/-- `n` bytes at a virtual address lie in a local window that the thread may use, at home `k` (R102, R103), and STRICTX does not stop it
(R201). -/
def LocalAt (s : State) (va n k : Nat) : Prop :=
  isLocal va = true ∧ localCheck s (s.cur / 4) s.me.ctx s.me.sup va n = .ok k
    ∧ (s.me.status.getLsbD 9 && s.me.compute && barnOther (s.cur / 4) va) = false

/-- No issued read of the acting thread's core is outstanding. -/
def NoReads (s : State) : Prop := (s.core (s.cur / 4)).reads = []
/-- Nothing of the acting thread's core is on its way, its own undrained entries are writes or fences, numbered below its next access, and the
machine performs at once what it may perform at once. -/
def Still (s : State) : Prop :=
  NoReads s ∧ (s.core (s.cur / 4)).sent = [] ∧ s.choices = [] ∧ ∀ e ∈ s.me.sb, e.op = none ∧ e.seq < s.me.seqNo
/-- The same, with an empty store buffer. -/
def Quiet (s : State) : Prop := Still s ∧ s.me.sb = [] ∧ s.me.relStage = 0
/-- A system-scope release has no peer to ask (R166). -/
def NoPeers (s : State) (sc : Scope) : Prop := sc = .system → (s.core (s.cur / 4)).cur.peers = []
/-- No atomic is on its way whose old value a thread awaits. -/
def NoReturns (s : State) : Prop := (∀ st, (s.stack st).nmu = []) ∧ ∀ c, ∀ x ∈ (s.core c).chute, x.op = none
/-- The acquire part of an ordered instruction (R189). -/
def acquired (o : MemOrd) (sc : Scope) (s : State) : State :=
  if o = .acquire ∨ o = .acqRel then acquireSteps s (s.cur / 4) sc else s

/-- Byte `i` of a number. -/
def byteN (x i : Nat) : Byte := BitVec.ofNat 8 (x / 256 ^ i)

/-- Bytes of an element of a vector access (R247). -/
def eb (t : Ty) : Nat := max 1 (t.width / 8)
/-- Byte `i` of a vector register belongs to a governed element (R243). -/
def byteOn (s : State) (g : Guard) (t : Ty) (i : Nat) : Bool := governs s g t.width (8 * i / t.width)

/-- The address of element `j` of a gather or scatter (R296). -/
def gatherAt (s : State) (o : OpM) (j : Nat) : Nat :=
  (OpM.base s.me o + (BitVec.ofNat o.ty.width (el (s.me.rv o.rb) o.ty.width j)).signExtend 64 * BitVec.ofNat 64 (o.ty.width / 8)).toNat

/-- The lane address of element `j` (R297). -/
def laneAt (s : State) (o : OpM) (j : Nat) : Nat :=
  (BitVec.ofNat 32 (el (s.me.rv o.rb) 32 j) + o.off.signExtend 32 * 4 + o.x.getD 0).toNat

/-- Every governed byte of a vector access at `ea` lies in a local window, byte `i` at home `k + i`. -/
def VecLocal (s : State) (g : Guard) (o : OpM) (ea k : Nat) : Prop :=
  ea % eb o.ty = 0 ∧ ea + 64 ≤ 2 ^ 64 ∧ ∀ i, i < 64 → i % eb o.ty = 0 → byteOn s g o.ty i = true → LocalAt s (ea + i) (eb o.ty) (k + i)

/-- The new value of an atomic (R300), of the memory value and the operand. -/
def amoVal (aop : Nat) (t : Ty) (m x : Nat) : Nat :=
  match aop with
  | 0 => if t.isInt then (m + x) % 2 ^ t.width else aopVal 0 t m x
  | 1 => m &&& (x % 2 ^ t.width)
  | 2 => m ||| (x % 2 ^ t.width)
  | 3 => m ^^^ (x % 2 ^ t.width)
  | 4 => if ival t x < ival t m then x % 2 ^ t.width else m
  | 5 => if ival t m < ival t x then x % 2 ^ t.width else m
  | 6 => x % 2 ^ t.width
  | n => aopVal n t m x

/-- A load of local memory leaves everything but its destination and goes on. -/
def LoadKeeps (s t : State) (len : Nat) : Prop :=
  t.loc = s.loc ∧ t.dram = s.dram ∧ t.me.sb = s.me.sb ∧ t.me.pend = s.me.pend ∧ (∀ r, t.me.rp r = s.me.rp r) ∧ (∀ r, t.me.rh r = s.me.rh r)
    ∧ t.me.status = s.me.status ∧ t.me.pc = follows s.me len ∧ t.me.slot = .plain

/-- The byte that new store-buffer entries hold for a local home: the newest one's. -/
def stored (l : List SbEntry) (x : Nat) : Option Byte :=
  l.foldl (fun acc e => if e.pa / 32 = x / 32 then (((e.bytes[x % 32]?).getD none).orElse (fun _ => acc)) else acc) none

/-- A local store of the acting thread puts writes `l` behind its store buffer and changes no memory and no register. -/
def StoreAdds (s t : State) (len : Nat) (o : OpM) (l : List SbEntry) : Prop :=
  t.me.sb = s.me.sb ++ l ∧ (∀ e ∈ l, e.loc = true ∧ e.op = none ∧ e.fence = false ∧ e.rq = o.rq ∧ e.ord = o.ord ∧ e.scope = o.scope ∧ s.me.seqNo ≤ e.seq)
    ∧ t.loc = s.loc ∧ t.dram = s.dram ∧ (∀ r, t.me.rg r = s.me.rg r) ∧ (∀ r, t.me.rv r = s.me.rv r) ∧ (∀ r, t.me.rp r = s.me.rp r)
    ∧ t.me.status = s.me.status ∧ t.me.pc = follows s.me len ∧ t.me.slot = .plain

/-- Bytes from `k` on of local memory hold the number `x`, where they are not the device's own (R104), and every other byte is as before. -/
def LocWritten (s t : State) (k n x : Nat) : Prop :=
  ∀ y, locByte t y = if k ≤ y ∧ y < k + n ∧ reservedByte s y = false then byteN x (y - k) else locByte s y

/-- An atomic on local memory that is performed at once: `old` is what memory held, the new number replaces it, and every other byte stays. -/
def AtomicOut (i : Instr) (o : OpM) (len n k : Nat) (s : State) (new : Nat → Nat) (res : Nat → Thread → Thread) : Prop :=
  Quiet s → s.me.live = true → NoReturns s → NoPeers s o.scope →
    let old := locNum s k n
    Gives i s (fun t => LocWritten s t k n (new old) ∧ (∀ r, t.me.rg r = (res old s.me).rg r) ∧ t.me.sb = []
      ∧ ((o.ord = .relaxed ∨ o.ord = .acquire ∨ wide o.scope = false) → t.dram = s.dram)
      ∧ t.me.pc = follows s.me len ∧ t.me.slot = .plain)

/-- The entry of a fence in the acting thread's store buffer (R192). -/
def fenceEntry (s : State) (sc : Scope) (nm : Bool) : SbEntry := { seq := s.me.seqNo, fence := true, nm := nm, scope := sc, ctx := s.me.ctx }

/-- A fence stands behind the store buffer, and its thread goes on. -/
def FenceOut (i : Instr) (s : State) (sc : Scope) (nm : Bool) : Prop :=
  exec i s = .next (s.retireWith 8 (fun t => { t with seqNo := t.seqNo + 1, sb := t.sb ++ [fenceEntry s sc nm] }))

/-- What a completed release without a write leaves at device or system scope (R188): the core's dirty words are on their way, its round is
closed. -/
def releasedWide (s : State) (sc : Scope) : State :=
  let q := s.cur / 4
  let a := s.modMe (fun t => { t with seqNo := t.seqNo + 1, sb := [fenceEntry s sc false], prog := 2 })
  let b := (pushDirty a q).modMe (fun t => { t with sysWait := [] })
  (closeRound b q).modMe (fun t => { t with sb := [], relStage := 0, prog := 4 })

/-- What the release steps of R188 leave, under `Quiet` and `NoPeers`. -/
def released (s : State) (sc : Scope) : State :=
  if sc = .thread then s else if wide sc then releasedWide s sc else s.modMe (fun t => { t with seqNo := t.seqNo + 1, prog := 4 })

/-- What holds behind the release steps of an instruction of the acting thread, however they end, and where they end at once. -/
def AfterRelease (s : State) (sc : Scope) (p : State → Prop) : Prop :=
  (∀ s1, EndsIn (releaseSteps sc) s ⟨⟩ s1 → s1.cur = s.cur → s1.devId = s.devId → s1.me.ctx = s.me.ctx → p s1)
    ∧ (Quiet s → s.me.prog = 0 → NoPeers s sc → p (released s sc))

end Sys2Proof.Claims

section
open Sys2Proof Sys2Proof.Machine Sys2Proof.Claims

/-- R182, R292 to R296 for local windows: ld, vld and vldx answer the bytes that their thread sees. -/
def Sys2Proof.Claims.localLoads : Prop := ∀ (g : Guard) (o : OpM) (s : State), Still s →
  let ea := (OpM.ea s.me o).toNat
  let n := o.ty.width / 8
  let len := if o.x.isSome then 12 else 8
  (∀ k, (Instr.ld g o).wf = true → Ready s g → ea % n = 0 → LocalAt s ea n k →
    (o.ord = .acquire → exec (.ld g o) s = .next ((acquired o.ord o.scope s).retireWith len (fun t => t.wg o.rd (wrap o.ty (seenNum s k n)))))
    ∧ (o.ord = .relaxed → Gives (.ld g o) s (fun t => LoadKeeps s t len ∧ (∀ r, t.me.rv r = s.me.rv r)
        ∧ ∀ r, t.me.rg r = (s.me.wg o.rd (wrap o.ty (seenNum s k n))).rg r)))
  ∧ (∀ k, (Instr.vld g o).wf = true → overLimit s.me = false → VecLocal s g o ea k → Gives (.vld g o) s (fun t => LoadKeeps s t len
      ∧ (∀ r, t.me.rg r = s.me.rg r) ∧ (∀ r, r ≠ o.rd → t.me.rv r = s.me.rv r)
      ∧ ∀ i, i < 64 → el (t.me.rv o.rd) 8 i = if byteOn s g o.ty i then (seen s (k + i)).toNat else el (s.me.rv o.rd) 8 i))
  ∧ (∀ k : Nat → Nat, (Instr.vldx g o).wf = true → overLimit s.me = false →
    (∀ j, j < 512 / o.ty.width → governs s g o.ty.width j = true → gatherAt s o j % n = 0 ∧ LocalAt s (gatherAt s o j) n (k j)) →
    Gives (.vldx g o) s (fun t => LoadKeeps s t len ∧ (∀ r, t.me.rg r = s.me.rg r) ∧ (∀ r, r ≠ o.rd → t.me.rv r = s.me.rv r)
      ∧ ∀ j, j < 512 / o.ty.width → el (t.me.rv o.rd) o.ty.width j =
        if governs s g o.ty.width j then seenNum s (k j) n else el (s.me.rv o.rd) o.ty.width j))

/-- R181, R188, R294 to R296 for local windows: st, vst and vstx put their bytes into the store buffer, a release with its order and scope, and
the oldest entry's drain and acceptance write them to memory. -/
def Sys2Proof.Claims.localStores : Prop := ∀ (g : Guard) (o : OpM) (s : State),
  let ea := (OpM.ea s.me o).toNat
  let n := o.ty.width / 8
  let len := if o.x.isSome then 12 else 8
  (∀ k, (Instr.st g o).wf = true → Ready s g → ea % n = 0 → LocalAt s ea n k → Gives (.st g o) s (fun t => ∃ e, StoreAdds s t len o [e]
      ∧ ∀ x, stored [e] x = if k ≤ x ∧ x < k + n then some (byteN (s.me.rg o.rd).toNat (x - k)) else none))
  ∧ (∀ k, (Instr.vst g o).wf = true → overLimit s.me = false → VecLocal s g o ea k → Gives (.vst g o) s (fun t => ∃ l, StoreAdds s t len o l
      ∧ ∀ x, stored l x = if k ≤ x ∧ x < k + 64 ∧ byteOn s g o.ty (x - k) = true then some (byteN (s.me.rv o.rd).toNat (x - k)) else none))
  ∧ (∀ k : Nat → Nat, (Instr.vstx g o).wf = true → overLimit s.me = false →
    (∀ j, j < 512 / o.ty.width → governs s g o.ty.width j = true → gatherAt s o j % n = 0 ∧ LocalAt s (gatherAt s o j) n (k j)) →
    let on := fun j x => j < 512 / o.ty.width ∧ governs s g o.ty.width j = true ∧ k j ≤ x ∧ x < k j + n
    Gives (.vstx g o) s (fun t => ∃ l, StoreAdds s t len o l
      ∧ (∀ j x, on j x → (∀ i, j < i → ¬ on i x) → stored l x = some (byteN (el (s.me.rv o.rd) o.ty.width j) (x - k j)))
      ∧ (∀ x, (∀ j, ¬ on j x) → stored l x = none)))
  ∧ (∀ e, Still s → s.me.sb = [e] → e.loc = true → e.fence = false → (e.ord = .relaxed ∨ e.ord = .acquire ∨ e.scope = .thread) → e.bytes.length ≤ 32 →
    Gives (.sliceRequest s.cur 0) s (fun t => t.me.sb = [] ∧ t.dram = s.dram
      ∧ ∀ x, locByte t x = if reservedByte s x then 0 else (stored [e] x).getD (locByte s x)))

/-- R181, R182, R292 to R296: loads and stores of local windows. Rests on choices of the model: log entries 5, 17, 19. -/
def Obligations.LocalMemoryAccess : Prop := Claims.localLoads ∧ Claims.localStores

/-- R108, R297, R300 to R304: lane slices, and atomics on local memory. Rests on choices of the model: log entries 17, 19, 37, 46, 96, 111. -/
def Obligations.LanesAndAtomics : Prop := ∀ (g : Guard) (o : OpM) (s : State),
  let len := if o.x.isSome then 12 else 8
  let q := s.cur / 4
  let on := fun j => j < 16 ∧ governs s g 32 j = true
  let lanes := (∀ j, on j → laneAt s o j % 4 = 0 ∧ laneAt s o j < 4096) ∧ overLimit s.me = false
  let n := if o.span = 10 then 4 else o.ty.width / 8
  let base := (OpM.base s.me o).toNat
  let ea := (OpM.ea s.me o).toNat
  let m := if o.span = 1 then 16 else 8
  let pair := fun (r : BitVec 5) => (s.me.rg r).toNat + (if o.span = 1 then (s.me.rg (r + 1)).toNat * 2 ^ 64 else 0)
  ((Instr.lsld g o).wf = true → lanes → ∃ v : Vec, exec (.lsld g o) s = .next (s.retireWith len (fun t => t.wv o.rd v))
    ∧ ∀ j, j < 16 → el v 32 j = if governs s g 32 j then bytesToNat (mread 0 (s.core q).slices (j * 4096 + laneAt s o j) 4)
        else el (s.me.rv o.rd) 32 j)
  ∧ ((Instr.lsst g o).wf = true → lanes → Gives (.lsst g o) s (fun t => t.me = (s.retire len).me ∧ t.loc = s.loc ∧ t.dram = s.dram
    ∧ (∀ j i, on j → i < 4 → tget 0 (t.core q).slices (j * 4096 + laneAt s o j + i) = byteN (el (s.me.rv o.rd) 32 j) i)
    ∧ (∀ x, (∀ j, on j → ¬ (j * 4096 + laneAt s o j ≤ x ∧ x < j * 4096 + laneAt s o j + 4)) →
        tget 0 (t.core q).slices x = tget 0 (s.core q).slices x)))
  ∧ (∀ k, (Instr.amo g o).wf = true → Ready s g → s.me.prog = 0 → base % n = 0 → LocalAt s base n k →
    AtomicOut (.amo g o) o len n k s (fun old => amoVal o.span.toNat o.ty old (s.me.rg o.rb).toNat)
      (fun old t => t.wg o.rd (if o.span = 10 then BitVec.ofNat 64 old else wrap o.ty old)))
  ∧ (∀ k, (Instr.cas g o).wf = true → Ready s g → s.me.prog = 0 → base % m = 0 → LocalAt s base m k →
    AtomicOut (.cas g o) o len m k s (fun old => if old = pair o.rd then pair o.rb else old)
      (fun old t => let t := t.wg o.rd (BitVec.ofNat 64 old)
        if o.span = 1 then t.wg (o.rd + 1) (BitVec.ofNat 64 (old / 2 ^ 64)) else t))
  ∧ (∀ k, (Instr.amon g o).wf = true → Ready s g → s.me.prog = 0 → (o.scope = .system → o.rb = 0) → ea % n = 0 → LocalAt s ea n k →
    Gives (.amon g o) s (fun t => ∃ e, t.me.sb = s.me.sb ++ [e] ∧ e.loc = true ∧ e.pa + e.at_ = k ∧ e.pa % 32 = 0 ∧ e.at_ < 32 ∧ e.size = n
      ∧ e.op = some (.amo o.span.toNat o.ty (s.me.rg o.rd).toNat) ∧ e.ret = none ∧ e.fence = false ∧ e.ord = o.ord ∧ e.scope = o.scope
      ∧ t.loc = s.loc ∧ t.dram = s.dram ∧ (∀ r, t.me.rg r = s.me.rg r) ∧ t.me.pc = follows s.me len ∧ t.me.slot = .plain))
  ∧ (∀ e aop ty x, (s.core q).reads = [] → (s.core q).sent = [] → s.choices = [] → s.me.sb = [e] → e.loc = true → e.pa % 32 = 0 → e.fence = false →
    (e.ord = .relaxed ∨ e.ord = .acquire ∨ e.scope = .thread) → aopOk aop ty = true → e.op = some (.amo aop ty x) → e.ret = none →
    e.size = aopSize aop ty → Gives (.sliceRequest s.cur 0) s (fun t => t.me.sb = [] ∧ t.dram = s.dram
      ∧ LocWritten s t (e.pa + e.at_) e.size (amoVal aop ty (locNum s (e.pa + e.at_) e.size) x)))

/-- R180 to R182, R293, R294, R298: loads and uncharged stores of device memory, issued loads, prefetches. Rests on choices of the model: log entries 17, 19, 36. -/
def Obligations.DeviceAccess : Prop := ∀ (g : Guard) (o : OpM) (s : State),
  let q := s.cur / 4
  let ea := (OpM.ea s.me o).toNat
  let n := o.ty.width / 8
  let len := if o.x.isSome then 12 else 8
  let num := fun (pa : Nat) (x : BitVec 256) => wrap o.ty ((x.toNat / 256 ^ (pa % 32) % 256 ^ n : Nat))
  ((Instr.ld g o).wf = true → Ready s g → ea % n = 0 → isLocal ea = false → o.rq ≠ .loc → ∀ s1 pa pg,
    translate s q s.me.ctx s.me.sup ea .read = (s1, .ok (pa, pg)) → s1.cur = s.cur → s1.me = s.me → NoReads s1 → (s1.core q).sent = [] →
    (∀ e ∈ s.me.sb, e.op = none ∧ (e.fence = true ∨ e.loc = true ∨ e.pa / 32 ≠ pa / 32)) →
    let w := pa / 32 % 16
    let gl := if o.span = 0 ∧ l1Hit (s1.core q) (pa / 32) (effRq pg o.rq) = none then gleaner s1 q s.me.pc.toNat ea w w else (s1, none)
    let req : Req := { pg := pg, span := o.span.toNat, lo := w, hi := w, gl := gl.2 }
    (o.ord = .acquire ∨ framePoison s1 pa = true → ∀ s2 x, readWord gl.1 q (pa / 32) req o.rq (if o.ord = .acquire then some o.scope else none)
        (phaseTag gl.1 s.cur) = (s2, x) → s2.cur = s.cur →
      (∀ v, x = some v → exec (.ld g o) s = .next ((acquired o.ord o.scope s2).retireWith len (fun t => t.wg o.rd (num pa v))))
      ∧ (x = none → exec (.ld g o) s = .next (trap s2 0x08 ea 8 false false)))
    ∧ (o.ord = .relaxed → framePoison s1 pa = false → s1.choices = [] → ∃ s3 : State, s3 = { gl.1 with threads := s3.threads, cores := s3.cores }
        ∧ s3.me = { s.me with seqNo := s.me.seqNo + 1, pend := o.rd.toNat :: s.me.pend } ∧ (∀ c, s3.core c = gl.1.core c)
        ∧ (∀ th, th ≠ s.cur → s3.th th = gl.1.th th)
        ∧ ∀ s4 v, readWord s3 q (pa / 32) req o.rq none (phaseTag s3 s.cur) = (s4, some v) → s4.cur = s.cur →
          Gives (.ld g o) s (fun t => t.loc = s4.loc ∧ t.dram = s4.dram ∧ (∀ r, t.me.rg r = (s4.me.wg o.rd (num pa v)).rg r)
            ∧ (∀ r, t.me.rv r = s4.me.rv r) ∧ t.me.sb = s4.me.sb ∧ t.me.pend = s4.me.pend.erase o.rd.toNat ∧ t.me.pc = follows s4.me len
            ∧ t.me.slot = .plain))
    ∧ (∀ l, s1.choices = 1 :: l → o.ord = .relaxed → framePoison s1 pa = false → Gives (.ld g o) s (fun t =>
        t.me.pend = o.rd.toNat :: s.me.pend ∧ t.me.pc = follows s.me len ∧ (∀ r, t.me.rg r = s.me.rg r)
        ∧ ∃ r, (t.core q).reads = [r] ∧ r.th = s.cur ∧ r.vec = false ∧ r.rd = o.rd.toNat ∧ r.seq = s.me.seqNo
          ∧ r.parts = [{ loc := false, pa := pa, size := n, dst := 0 }] ∧ r.rq = o.rq ∧ r.key = pg.key)))
  ∧ ((Instr.st g o).wf = true → Ready s g → ea % n = 0 → isLocal ea = false → o.rq ≠ .loc → o.rq ≠ .nc →
    (o.ord = .relaxed ∨ wide o.scope = false) → ∀ s1 pa pg, translate s q s.me.ctx s.me.sup ea .write = (s1, .ok (pa, pg)) → s1.cur = s.cur →
    s1.me = s.me → pg.ms = false → pg.fnc = false → Gives (.st g o) s (fun t => ∃ e, t.me.sb = s.me.sb ++ [e] ∧ e.loc = false ∧ e.pa = pa / 32 * 32
      ∧ e.rq = o.rq ∧ e.ord = o.ord ∧ e.scope = o.scope ∧ e.op = none ∧ e.fence = false ∧ e.seq = s.me.seqNo ∧ e.key = pg.key ∧ e.cls = pg.cls
      ∧ (∀ i, i < 32 → e.bytes[i]? = some (if pa % 32 ≤ i ∧ i < pa % 32 + n then some (byteN (s.me.rg o.rd).toNat (i - pa % 32)) else none))
      ∧ t.me.pc = follows s.me len ∧ (∀ r, t.me.rg r = s.me.rg r) ∧ t.loc = s1.loc ∧ t.dram = s1.dram))
  ∧ ((Instr.pref g o).wf = true → Ready s g → Gives (.pref g o) s (fun t => t.loc = s.loc ∧ t.me.pc = follows s.me len ∧ t.me.slot = .plain
      ∧ t.me.sb = s.me.sb ∧ (∀ r, t.me.rv r = s.me.rv r) ∧ (∀ r, t.me.rp r = s.me.rp r) ∧ (∀ r, t.me.rh r = s.me.rh r)
      ∧ t.me.status = s.me.status))

/-- R147, R188 to R192, R289, R299, R305: what a release does and when it ends, fences, range walks and exit. Rests on choices of the model: log entries 20, 21. -/
def Obligations.Releases : Prop := ∀ (g : Guard) (o : OpM) (r : OpR) (s : State),
  let q := s.cur / 4
  (EndsIn (releaseSteps .thread) s ⟨⟩ s
    ∧ (Quiet s → s.me.prog = 0 → ∀ sc, NoPeers s sc → EndsIn (releaseSteps sc) s ⟨⟩ (released s sc)))
  ∧ (Ready s g →
    (o.ord = .relaxed → exec (.fence g o) s = .next (s.retireWith 8 id))
    ∧ (o.ord = .release → o.scope = .thread → exec (.fence g o) s = .next (s.retireWith 8 id))
    ∧ (o.ord = .release → o.scope ≠ .thread → FenceOut (.fence g o) s o.scope false)
    ∧ (o.ord = .acquire → exec (.fence g o) s = .next ((acquireSteps s q o.scope).retireWith 8 id))
    ∧ (o.ord = .acqRel → AfterRelease s o.scope (fun s1 => exec (.fence g o) s = .next ((acquireSteps s1 (s1.cur / 4) o.scope).retireWith 8 id)))
    ∧ FenceOut (.wfence g r) s .device false ∧ FenceOut (.nmfence g r) s .system true
    ∧ (s.me.pkt = none → AfterRelease s .device (fun s1 => exec (.exit g r) s = .next { threadEnds s1 s1.cur with blocked := false })))
  ∧ (Ready s g → (∀ j, s.me.rh r.rd.toNat ≠ .job j) → (∀ j, s.me.rh r.rd.toNat ≠ .node j) →
    let lo := (s.me.rg r.ra).toNat
    let n := (s.me.rg r.rb).toNat
    (n = 0 → Quiet s → Gives (.flushrFlush g r) s (fun t => t.me.rh r.rd.toNat = .settled {} ∧ t.me.pc = follows s.me 8)
      ∧ Gives (.flushrInv g r) s (fun t => t.me.rh r.rd.toNat = .settled {} ∧ t.me.pc = follows s.me 8))
    ∧ (n ≠ 0 → 2 ^ 55 < lo + n → exec (.flushrFlush g r) s = .next (trap s 0x05 lo 8 false false)
        ∧ exec (.flushrInv g r) s = .next (trap s 0x05 lo 8 false false))
    ∧ (n ≠ 0 → lo + n ≤ 2 ^ 55 → Quiet s → ∀ inv : Bool, Gives (if inv then .flushrInv g r else .flushrFlush g r) s (fun t =>
        ∃ (j : JobRef) (x : Walk), t.me.rh r.rd.toNat = .job j ∧ j.unit = 3 ∧ x ∈ (t.die (q / 256)).walks ∧ x.seq = j.seq ∧ x.th = s.cur
          ∧ x.lo = lo ∧ x.hi = lo + n ∧ x.inv = inv)))

end

namespace Sys2Proof.Claims
open Sys2Proof.Machine

/-- The shape records of a streamed instruction stand at `r`, are well-formed, and their ranges and tiles may be used (R331, R332). -/
def Shapes (s : State) (r : Word) (xs : List Shape) : Prop :=
  Quiet s ∧ ∀ i x, xs[i]? = some x →
    let a := r + BitVec.ofNat 64 (64 * i)
    (∃ bs, EndsIn (recordBytes a 64 64) s bs s ∧ parseShape bs = some x)
      ∧ x.ty.width ≠ 4 ∧ x.count ≤ 2 ^ 20
      ∧ (x.extent ≠ 0 → ∃ k, LocalAt s (Shape.addr s (s.cur / 4) x) x.extent k)
      ∧ (∀ n, x.tile = some n → (tileOf s (s.cur / 4) n).ctx = s.me.ctx ∧ (tileOf s (s.cur / 4) n).st = 2
          ∧ x.extent ≤ ((tileOf s (s.cur / 4) n).lenm1 + 1) * 64)

/-- The vector instruction that an operation code of xop names (R334). -/
def xInstr (vopc : Nat) (o : OpR) : Instr :=
  let g : Guard := ⟨0, false⟩
  match vopc with
  | 0x70 => .vadd g o | 0x71 => .vsub g o | 0x72 => .vmul g o | 0x73 => .vfma g o | 0x74 => .vmin g o | 0x75 => .vmax g o
  | 0x76 => .vun g o | 0x77 => .vand g o | 0x78 => .vor g o | 0x79 => .vxor g o | 0x7A => .vsh g o | _ => .nop g o

/-- Fields of an operation on elements of a type. -/
def xFields (t : Ty) (fn md : BitVec 8) : OpR := { rd := 0, ra := 0, rb := 0, rc := 0, ty := t, fn := fn, md := md, x := none }

/-- A reduction of R325 and R335 over patterns, as a register value. -/
def redWord (n : NumMode) (t : Ty) (op mode rand : Nat) (l : List Nat) : Word × Flags :=
  if t.isFloat then
    if op = 0 then
      let vs := l.map (decF n t)
      let r := fpat n t mode rand vs (fsum (mode == 2) vs)
      (BitVec.ofNat 64 r.1, r.2)
    else match l with
      | [] => (BitVec.ofNat 64 (ident t op), 0)
      | a :: _ =>
        let r := l.foldl (fun (acc : Nat × Flags) x => let p := fMinMax n t (op == 2) acc.1 x; (p.1, acc.2 ||| p.2)) (a, 0)
        (BitVec.ofNat 64 r.1, r.2)
  else match op with
    | 0 => (BitVec.ofInt 64 (l.map (ival t)).sum, 0)
    | 1 => (wrap t ((l.map (ival t)).foldl min (greatest t)), 0)
    | 2 => (wrap t ((l.map (ival t)).foldl max (least t)), 0)
    | 3 => (wrap t (ival t (l.foldl (· &&& ·) (2 ^ t.width - 1))), 0)
    | 4 => (wrap t (ival t (l.foldl (· ||| ·) 0)), 0)
    | _ => (wrap t (ival t (l.foldl (· ^^^ ·) 0)), 0)

/-- A streamed instruction writes the elements of `d` one after another, i0 fastest, from what memory then holds (nothing being on its way before): `res` gives the value of
element `k` with its flags. -/
def Streams (i : Instr) (s : State) (d : Shape) (ctr : BitVec 128) (res : State → Nat → Nat × Flags) : Prop :=
  ∃ f : Nat → State, f 0 = s
    ∧ (∀ k, k < d.count → f (k + 1) = Shape.put (f k) d (d.tuple k) (res (f k) k).1)
    ∧ exec i s = .next ((f d.count).retireWith 16 (fun t => ({ t with rngctr := ctr } : Thread).raise
        ((List.range d.count).foldl (fun a k => a ||| (res (f k) k).2) 0)))

/-- The quanta of R342: positive legal weights, scaled by the largest exponent. -/
def quanta (ws : List (Bool × FVal)) : List Nat :=
  let pos := ws.map (fun w => match w with | (true, .fin false m x) => if m = 0 then none else some (m, x) | _ => none)
  let top := (pos.filterMap (·.map (fun w => max (-126) (w.2 + Nat.log2 w.1)))).foldl max (-126)
  pos.map (fun w => match w with
    | some (m, x) => if 0 ≤ x + 24 - top then m * 2 ^ (x + 24 - top).toNat else m / 2 ^ (top - x - 24).toNat
    | none => 0)
/-- A legal weight that counts as zero and sets INV (R342). -/
def weightBad (w : Bool × FVal) : Bool :=
  match w with | (false, _) => false | (_, .fin neg m _) => neg && m != 0 | _ => true

/-- The probe of R344 and R345 stops at its `j`-th slot: the entries before it are valid and of other keys; `hit` tells a valid entry of
the key from an entry that is not valid. The entries lie in a local window, entry `i` at home `k i`. -/
def Probes (s : State) (base slot log size key keep : Nat) (k : Nat → Nat) (j : Nat) (hit : Bool) : Prop :=
  let w := fun i => locNum s (k i) 8
  j < 16 ∧ (∀ i, i ≤ j → LocalAt s (base + (slot + i) % 2 ^ log * size) size (k i))
    ∧ (∀ i, i < j → w i / 2 ^ 63 = 1 ∧ w i % 2 ^ keep ≠ key)
    ∧ (if hit then w j / 2 ^ 63 = 1 ∧ w j % 2 ^ keep = key else w j / 2 ^ 63 = 0)

end Sys2Proof.Claims

section
open Sys2Proof Sys2Proof.Machine Sys2Proof.Claims

/-- R334 to R336: streamed element operations, reductions and scans over shapes in local memory. Rests on choices of the model: log entries 73, 77. -/
def Obligations.StreamedOperations : Prop := ∀ (g : Guard) (o : OpJ) (s : State) (d a : Shape), Ready s g →
  let r := s.me.rg o.ra + o.imm.setWidth 64
  let n := numMode s.me.status
  let md : BitVec 8 := o.aux0.extractLsb' 16 8
  let vopc := (o.aux0.extractLsb' 0 8).toNat
  let fn : BitVec 8 := o.aux0.extractLsb' 8 8
  let fields := xFields d.ty fn md
  let src := (Ty.ofCode fn.toNat).getD .f32
  let ints := d.ty.isInt && (vopc != 0x7F || src.isInt)
  let rounds := if vopc = 0x7F then !ints else d.ty.isFloat && (vopc ≤ 0x73 || (vopc = 0x76 && fn = 5))
  let m := vmode s fields rounds
  let okX := xopTyOk vopc fn.toNat d.ty = true ∧ a.n = d.n ∧ a.ty = (if vopc = 0x7F then src else d.ty)
    ∧ (ints = true → md.extractLsb' 0 4 = 0) ∧ (d.ty.isInt = false → md.getLsbD 4 = false)
  let resX := fun (b : State → Nat → Nat) (u : State) (k : Nat) =>
    let x := a.get u (d.tuple k)
    if vopc = 0x7F then (if ints then ipat d.ty (md.getLsbD 4) (ival src x) else cvt n src d.ty m (drawN s.me m k) x)
    else elemOut (xInstr vopc fields) fields n m (drawN s.me m k) x (b u k) (d.get u (d.tuple k))
  -- xred and xscan
  let op := o.fn.toNat % 8
  let mdR : BitVec 8 := (o.aux0.extractLsb' 0 4).setWidth 8
  let mR := vmode s (xFields d.ty 0 mdR) (d.ty.isFloat && op = 0)
  let okR := if op ≤ 2 then d.ty.isArith = true else d.ty.isVInt = true
  let row := fun (u : State) (k : Nat) => (List.range (a.n.headD 0)).map (fun j => a.get u (j :: (d.tuple k).drop 1))
  let opS := o.fn.toNat % 4
  let mS := vmode s (xFields d.ty 0 mdR) (d.ty.isFloat && opS = 0)
  let n0 := d.n.headD 0
  let sat : BitVec 8 := if o.aux0.getLsbD 4 then 16 else 0
  let fS := xFields d.ty 0 sat
  (∀ b, (Instr.xop g o).wf = true → o.fn = 0 → vopc ≠ 0x76 → vopc ≠ 0x7F → Shapes s r [d, a, b] → okX → b.n = d.n → b.ty = d.ty →
    Streams (.xop g o) s d (ctrAfter s.me m d.count) (resX (fun u k => b.get u (d.tuple k))))
  ∧ ((Instr.xop g o).wf = true → (o.fn = 1 ∨ vopc = 0x76 ∨ vopc = 0x7F) → Shapes s r [d, a] → okX →
    Streams (.xop g o) s d (ctrAfter s.me m d.count) (resX (fun _ _ => o.aux1.toNat % 2 ^ d.ty.width)))
  ∧ ((Instr.xred g o).wf = true → o.fn.getLsbD 3 = false → Shapes s r [d] → okR →
    let x := redWord n d.ty op mR (drawN s.me mR 0) ((List.range d.count).map (fun k => d.get s (d.tuple k)))
    exec (.xred g o) s = .next (s.retireWith 16 (fun t => (({ t with rngctr := ctrAfter s.me mR 1 } : Thread).wg o.rd x.1).raise x.2)))
  ∧ ((Instr.xred g o).wf = true → o.fn.getLsbD 3 = true → Shapes s r [d, a] → okR → a.ty = d.ty → n0 = 1 → d.n.drop 1 = a.n.drop 1 →
    Streams (.xred g o) s d (ctrAfter s.me mR d.count) (fun u k =>
      if d.ty.isInt && op = 0 then ipat d.ty (o.aux0.getLsbD 4) ((row u k).map (ival d.ty)).sum
      else let x := redWord n d.ty op mR (drawN s.me mR k) (row u k); (x.1.toNat % 2 ^ d.ty.width, x.2)))
  ∧ ((Instr.xscan g o).wf = true → Shapes s r [d, a] → d.ty.isArith = true → a.ty = d.ty → a.n = d.n →
    ∃ (before after : Nat → Nat) (fl : Nat → Flags) (f : Nat → State), f 0 = s
      ∧ (∀ k, k < d.count → let y := a.get (f k) (d.tuple k)
          if k % n0 = 0 then before k = ident d.ty opS ∧ after k = y ∧ fl k = 0
          else before k = after (k - 1) ∧ (after k, fl k) =
            elemOut (if opS = 0 then .vadd g fS else if opS = 1 then .vmin g fS else .vmax g fS) fS n mS (drawN s.me mS (k - k / n0 - 1)) (before k) y 0)
      ∧ (∀ k, k < d.count → f (k + 1) = Shape.put (f k) d (d.tuple k) (if o.fn.getLsbD 2 then before k else after k))
      ∧ exec (.xscan g o) s = .next ((f d.count).retireWith 16 (fun t =>
          ({ t with rngctr := ctrAfter s.me mS (d.count - d.count / n0) } : Thread).raise ((List.range d.count).foldl (fun x k => x ||| fl k) 0))))

/-- R342 to R345: exact sampling, and the grammar tables where they stand in a local window. Rests on choices of the model: log entries 79. -/
def Obligations.SampleAndGrammar : Prop := ∀ (g : Guard) (o : OpR) (m : OpM) (s : State), Ready s g → Quiet s → s.me.got = [] →
  let pf := o.fn.toNat % 8
  let len8 := fun (t : State) => (∀ r, t.me.rv r = s.me.rv r) ∧ t.me.pc = follows s.me 8 ∧ t.me.slot = .plain
  (∀ k b, (Instr.sample g o).wf = true →
    let wa := (s.me.rg o.ra).toNat
    let ba := (s.me.rg o.rb).toNat
    let n := (s.me.rg o.rc).toNat % 2 ^ 32
    let u := (s.me.rg o.rc).toNat / 2 ^ 32
    wa % 4 = 0 → isLocal wa = true → n ≤ 262144 → n ≠ 0 → LocalAt s wa (4 * n) k →
    (o.rb ≠ 0 → ba % 64 = 0 ∧ LocalAt s ba ((n + 7) / 8) b) →
    let ws := (List.range n).map (fun i => (o.rb == 0 || (locRead s (b + i / 8) 1).headD 0 / 2 ^ (i % 8) % 2 = 1,
      f32v (bytesToNat (locRead s (k + 4 * i) 4))))
    let total := (quanta ws).sum
    let inv := if ws.any weightBad then flINV else 0
    (total = 0 → exec (.sample g o) s = .next (s.retireWith 8 (fun t => ((t.wg o.rd 0xFFFFFFFF).wp pf 0).raise inv)))
    ∧ (total ≠ 0 → ∃ i, i < n ∧ u * total / 2 ^ 32 < ((quanta ws).take (i + 1)).sum ∧ ((quanta ws).take i).sum ≤ u * total / 2 ^ 32
        ∧ exec (.sample g o) s = .next (s.retireWith 8 (fun t => ((t.wg o.rd (BitVec.ofNat 64 i)).wp pf (BitVec.allOnes 64)).raise inv))))
  ∧ (∀ h kd kE j hit km, (Instr.maskld g m).wf = true →
    let ea := (OpM.base s.me m).toNat
    let dst := (s.me.rg m.rd).toNat
    let key := (s.me.rg m.rb).toNat
    let v := locNum s (h + 16) 4
    let log := locNum s (h + 20) 4
    let size := (v + 511) / 512 * 64
    let slot := key * 0x9E3779B1 % 2 ^ 32 / 2 ^ (32 - log)
    ea % 64 = 0 → LocalAt s ea 64 h → key < 2 ^ 32 → 1 ≤ v → v ≤ 262144 → 4 ≤ log → log ≤ 24 → locNum s (h + 24) 40 = 0 →
    dst % 64 = 0 → LocalAt s dst size kd → Probes s (locNum s h 8) slot log 8 key 32 kE j hit →
    (hit = true → LocalAt s (locNum s (h + 8) 8 + locNum s (kE j) 8 / 2 ^ 32 % 2 ^ 24 * size) size km) →
    Gives (.maskld g m) s (fun t => len8 t ∧ (∀ r, t.me.rg r = s.me.rg r) ∧ t.me.status = s.me.status
      ∧ ∀ x, locByte t x = if kd ≤ x ∧ x < kd + size ∧ reservedByte s x = false then (if hit then locByte s (km + (x - kd)) else 0)
          else locByte s x))
  ∧ (∀ h k kE j hit, (Instr.pdstep g o).wf = true →
    let st := (s.me.rg o.rd).toNat % 2 ^ 20
    let sa := (s.me.rg o.ra).toNat
    let ta := (s.me.rg o.rb).toNat
    let cls := (s.me.rg o.rc).toNat % 65536
    let hd := locNum s k 8
    let depth := hd % 512
    let log := locNum s (h + 8) 8
    let top := if depth = 0 then 0 else locNum s (k + 6 + 2 * depth) 2 % 4096
    let key := cls * 2 ^ 32 + st * 4096 + top
    let slot := ((st * 4096 + top) * 0x9E3779B1 + cls * 0x85EBCA77) % 2 ^ 32 / 2 ^ (32 - log)
    let act := locNum s (kE j + 8) 8
    let op := act / 2 ^ 62
    let sym := act / 2 ^ 32 % 4096
    sa % 8 = 0 → LocalAt s sa 520 k → ta % 64 = 0 → LocalAt s ta 64 h → depth ≤ 256 → 4 ≤ log → log ≤ 24 → locNum s (h + 16) 48 = 0 →
    Probes s (locNum s h 8) slot log 16 key 48 kE j hit →
    (hit = false → Gives (.pdstep g o) s (fun t => len8 t ∧ (∀ r, t.me.rg r = s.me.rg r) ∧ t.me.rp pf = (s.me.wp pf 0).rp pf
      ∧ t.loc = s.loc))
    ∧ (hit = true → (op = 1 → depth < 256) → (2 ≤ op → 0 < depth) →
      let new := if op = 1 then depth + 1 else if op = 2 then depth - 1 else depth
      let at2 := if op = 1 then k + 8 + 2 * depth else k + 6 + 2 * depth
      Gives (.pdstep g o) s (fun t => len8 t ∧ t.me.rp pf = (s.me.wp pf (BitVec.allOnes 64)).rp pf
        ∧ (∀ r, t.me.rg r = (s.me.wg o.rd (BitVec.ofNat 64 (act % 2 ^ 20))).rg r)
        ∧ ∀ x, locByte t x = if reservedByte s x = false ∧ 1 ≤ op ∧ op ≤ 2 ∧ k ≤ x ∧ x < k + 8 then byteN (hd - depth + new) (x - k)
            else if reservedByte s x = false ∧ (op = 1 ∨ op = 3) ∧ at2 ≤ x ∧ x < at2 + 2 then byteN sym (x - at2) else locByte s x))
    ∧ (hit = true → (op = 1 ∧ depth = 256) ∨ (2 ≤ op ∧ depth = 0) →
      exec (.pdstep g o) s = .next (trap s 0x14 (st + 2 ^ 20 * op) 8 false false)))

end

namespace Sys2Proof.Claims
open Sys2Proof.Machine

/-- The word of a completion counter (R309). -/
def ccWord (c : Counter) : Word := BitVec.ofNat 64 (c.cause % 256 * 2 ^ 40 + (if c.flt then 1 else 0) * 2 ^ 32 + c.value.toNat)
/-- The word of a tile entry (R110). -/
def tileWord (x : Tile) : Word :=
  BitVec.ofNat 64 (x.pend * 2 ^ 56 + x.ctx * 2 ^ 48 + (if x.flt then 1 else 0) * 2 ^ 43 + (if x.keep then 1 else 0) * 2 ^ 42 + x.st * 2 ^ 40
    + x.lenm1 * 2 ^ 19 + x.base)

/-- Completion counter `n` of the acting thread's core changes to `f` of it, and nothing else but that the thread goes on. -/
def CounterOut (i : Instr) (g : Guard) (s : State) (n : Nat) (f : Counter → Counter) : Prop :=
  Ready s g → Gives i s (fun t => t.me = (s.retire 8).me ∧ t.loc = s.loc ∧ t.dram = s.dram
    ∧ ∀ k, tget {} (t.core (s.cur / 4)).cc k = if k = n then f (tget {} (s.core (s.cur / 4)).cc k) else tget {} (s.core (s.cur / 4)).cc k)

/-- A field of a record's bytes. -/
def field (d : List Byte) (off n : Nat) : Nat := bytesToNat ((d.drop off).take n)

/-- The scope that a MOD field names (R251). -/
def scopeMd (o : OpR) : Scope := (scopeOf (o.md.extractLsb' 0 3)).getD .system

/-- A beat of the acting thread to a thread of this module. -/
def beatOf (s : State) (dst : Word) (v : Vec) (first last : Bool) : Beat :=
  { src := threadAddr s s.cur, dst := dst, data := v, nf := s.me.status.getLsbD 2, peer := false, first := first, last := last, ctx := s.me.ctx }

/-- The destination of an opening send stands on this module, no packet is open, and the send need not wait (R125, R314). -/
def SendReady (s : State) (o : OpR) : Prop :=
  s.me.pkt = none ∧ devOf (s.me.rg o.ra) = s.devId ∧ (s.me.rg o.ra).toNat < 2 ^ 49 ∧ heldBack s s.cur = false
    ∧ (o.md.getLsbD 3 = true → (s.me.rg o.rc).toNat ≤ (s.dieClock (s.cur / 1024)).toNat)

/-- The barrier of a number, at its home on the acting thread's die (R119, R316). -/
def barAt (s : State) (b : Nat) : Barrier := tget {} (s.core (s.cur / 1024 * 256 + b / 1024 % 256)).bars (b % 1024)

/-- The acting thread's wait at barrier `id` of core `q` has begun and ended (R120). -/
def barWaited (s : State) (q id : Nat) (tok : Bool) : State :=
  (s.modMe (fun t => { t with barWait := some { q := q, id := id, tok := tok } })).modMe (fun t => { t with barWait := none })

/-- The place of an index tuple in the order of a nest, innermost first. -/
def place : List Nat → List Nat → Nat
  | n :: ns, i :: l => i + n * place ns l
  | _, _ => 0

end Sys2Proof.Claims

section
open Sys2Proof Sys2Proof.Machine Sys2Proof.Claims

/-- R110, R111, R114, R309 to R313: completion counters and tiles. -/
def Obligations.CountersAndTiles : Prop := ∀ (g : Guard) (o : OpR) (i : OpI) (s : State),
  let q := s.cur / 4
  let n := o.md.toNat % 64
  let c := tget {} (s.core q).cc n
  let a := s.me.rg o.ra
  WordOut (.ccopRd g o) g 8 o.rd s (ccWord c)
    ∧ CounterOut (.ccopSet g o) g s n (fun _ => { value := a.setWidth 32, flt := false, cause := 0 })
    ∧ CounterOut (.ccopAdd g o) g s n (fun c => { c with value := c.value + a.setWidth 32 })
    ∧ CounterOut (.ccopClr g o) g s n (fun c => { c with flt := false, cause := 0 })
    ∧ (let k := tget {} (s.core q).cc (i.fn.toNat % 64)
       let w := acquireSteps s q (if i.fn.getLsbD 7 then .system else .die)
       let ahead := (k.value - ((s.me.rg i.ra).setWidth 32 + i.imm)).getLsbD 31
       Ready s g → s.me.pkt = none →
        (ahead = false → (i.fn.getLsbD 6 && k.flt) = false → exec (.ccwait g i) s = .next (w.retireWith 8 (fun t => t.wg i.rd (ccWord k))))
        ∧ (ahead = false → (i.fn.getLsbD 6 && k.flt) = true → exec (.ccwait g i) s = .next (trap w k.cause (i.fn.toNat % 64) 8 false false))
        ∧ (ahead = true → exec (.ccwait g i) s = .next s.wait))
    ∧ WordOut (.tilest g o) g 8 o.rd s (tileWord (tget {} (s.core q).tiles (a.toNat % 256)))
    ∧ (let x := tget {} (s.core q).tiles o.md.toNat
       let len := (s.me.rg o.rb).toNat
       Ready s g →
        ((x.st = 0 ∨ (x.st = 2 ∧ x.ctx = s.me.ctx)) → a.toNat % 64 = 0 → len % 64 = 0 → 0 < len → len ≤ 524288 →
          a.toNat + len ≤ ctxBase s q → loftAllowed s q s.me.ctx s.me.sup a.toNat len = true →
          Gives (.tiledef g o) s (fun t => t.me = (s.retire 8).me ∧ ∀ j, tget {} (t.core q).tiles j =
            if j = o.md.toNat then { pend := 0, ctx := s.me.ctx, flt := false, keep := false, st := 0, lenm1 := len / 64 - 1, base := a.toNat / 64 }
            else tget {} (s.core q).tiles j))
        ∧ ((x.st = 1 ∨ x.st = 3) → exec (.tiledef g o) s = .next (trap s 0x0E (o.md.toNat + 256 * x.st) 8 false false)))

/-- R111 to R114, R307, R308: a get or a put places its entry in the core's queue, with its tile; the thread goes on at once. Rests on choices of the model: log entries 43, 96. -/
def Obligations.Transfers : Prop := ∀ (g : Guard) (o : OpJ) (put : Bool) (s : State) (d : List Byte),
  let i := if put then Instr.put g o else .get g o
  let q := s.cur / 4
  let kind := (o.aux1.extractLsb' 18 2).toNat
  let tile := o.aux1.getLsbD 17
  let far := field d 8 8
  let dev := field d 16 4
  let len := field d 20 4
  let x := tget {} (s.core q).tiles (field d 0 8)
  let start := if tile then 0xFF00000000000000 + x.base * 64 else field d 0 8
  i.wf = true → Ready s g → Quiet s → EndsIn (recordBytes (s.me.rg o.ra + o.imm.setWidth 64) 32 32) s d s →
  (kind = 1 → (s.me.status.getLsbD 9 && s.me.compute) = false) → (tile = true → field d 0 8 < 256) → (kind = 2 → far < 2 ^ 27) →
  dev < 2 ^ 31 → (kind ≠ 1 → dev = 0) → 1 ≤ len → len ≤ 2 ^ 24 → (tile = true → len ≤ (x.lenm1 + 1) * 64) →
  isLocal start = true → (∃ k, localCheck s q s.me.ctx s.me.sup start len = .ok k) → (kind = 0 → isLocal far = false) →
  (kind = 1 → BitVec.ofNat 21 dev ≠ s.devId ∧ ∃ r, routeTo s (BitVec.ofNat 21 dev) = some r) → (s.core q).gp.length < 64 →
  (tile = true → x.ctx = s.me.ctx ∧ (if put then x.st = 2 else x.st ≠ 3 ∧ (x.st = 1 → x.pend < 255))) →
  Gives i s (fun t => ∃ e : GpEntry, (t.core q).gp = (s.core q).gp ++ [e] ∧ (∀ y ∈ (s.core q).gp, y.id ≠ e.id) ∧ e.id < 64
    ∧ e.put = put ∧ e.th = s.cur ∧ e.ctx = s.me.ctx ∧ e.kind = kind ∧ e.loc = start ∧ e.far = far ∧ e.dev = dev % 2 ^ 21 ∧ e.len = len
    ∧ e.lcc = (o.aux0.extractLsb' 0 6).toNat ∧ e.linc = (o.aux0.extractLsb' 6 16).toNat ∧ e.fcc = (o.aux0.extractLsb' 22 6).toNat
    ∧ e.fen = o.aux0.getLsbD 28 ∧ e.finc = (o.aux1.extractLsb' 0 16).toNat ∧ e.launch = field d 24 8 ∧ e.st = .placed ∧ e.prog = 0
    ∧ e.tile = (if tile then some (field d 0 8) else none)
    ∧ (tile = true → tget {} (t.core q).tiles (field d 0 8) = if put then { x with st := 3, keep := o.aux1.getLsbD 20 }
        else if x.st = 1 then { x with pend := x.pend + 1 } else { x with st := 1, pend := 1, flt := false })
    ∧ t.me.pc = follows s.me 16 ∧ (∀ r, t.me.rg r = s.me.rg r))

/-- R116, R117, R211, R216, R314, R315: sends to a thread of this module, and the receiving ring. Rests on choices of the model: log entries 43. -/
def Obligations.Messages : Prop := ∀ (g : Guard) (o : OpR) (s : State), Ready s g →
  let dst := s.me.rg o.ra
  let v := s.me.rv o.rb
  let q := s.cur / 4
  let size := s.me.rxsize.toNat % 2 ^ 20
  let off := s.me.rxhead.toNat % size
  let nf := (locByte s (q * 2 ^ 19 + s.me.rxbase.toNat % 2 ^ 19 + off + 9)).getLsbD 0
  let head := BitVec.ofNat 64 (0xFF00000000000000 + s.me.rxbase.toNat % 2 ^ 19 + off)
  let taken := (acquireSteps s q (scopeMd o)).retireWith 8 (fun t => t.wg o.rd head)
  ((Instr.sendOpen g o).wf = true → SendReady s o → Gives (.sendOpen g o) s (fun t => t.beats = s.beats ++ [beatOf s dst v true false]
      ∧ t.me.pkt = some { dst := dst, beats := 1, count := 1, scope := scopeMd o, data := [] } ∧ t.me.pc = follows s.me 8
      ∧ (∀ r, t.me.rg r = s.me.rg r) ∧ t.loc = s.loc))
  ∧ (∀ p, s.me.pkt = some p → devOf p.dst = s.devId → heldBack s s.cur = false →
      (p.beats < 15 → Gives (.sendMore g o) s (fun t => t.beats = s.beats ++ [beatOf s p.dst v false false]
        ∧ t.me.pkt = some { p with beats := p.beats + 1, count := p.count + 1 } ∧ t.me.pc = follows s.me 8 ∧ (∀ r, t.me.rg r = s.me.rg r)))
      ∧ (p.beats ≥ 15 → exec (.sendMore g o) s = .next (trap s 0x0C 0 8 false false))
      ∧ AfterRelease s p.scope (fun s1 => Gives (.sendClose g o) s (fun t =>
          t.beats = s1.beats ++ [beatOf s1 p.dst v false true] ∧ t.me.pkt = none ∧ t.me.pc = follows s1.me 8 ∧ (∀ r, t.me.rg r = s1.me.rg r))))
  ∧ (s.me.pkt = none → exec (.sendMore g o) s = .next (trap s 0x01 (firstWord (.sendMore g o)).toNat 8 false false)
      ∧ exec (.sendClose g o) s = .next (trap s 0x01 (firstWord (.sendClose g o)).toNat 8 false false))
  ∧ ((Instr.sendOne g o).wf = true → SendReady s o → AfterRelease s (scopeMd o) (fun s1 =>
      Gives (.sendOne g o) s (fun t => t.beats = s1.beats ++ [beatOf s1 dst v true true] ∧ t.me.pkt = none ∧ t.me.pc = follows s1.me 8
        ∧ (∀ r, t.me.rg r = s1.me.rg r))))
  ∧ (s.me.pkt.isSome = true → (Instr.sendOne g o).wf = true →
      exec (.sendOne g o) s = .next (trap s 0x0C 2 8 false false) ∧ exec (.sendOpen g o) s = .next (trap s 0x0C 2 8 false false))
  ∧ ((Instr.rpoll g o).wf = true → size ≠ 0 →
      (s.me.rxtail = s.me.rxhead → WordOut (.rpoll g o) g 8 o.rd s 0 ∧ (s.me.pkt = none → exec (.recv g o) s = .next s.wait))
      ∧ (s.me.rxtail ≠ s.me.rxhead → nf = s.me.status.getLsbD 2 → exec (.rpoll g o) s = .next taken
          ∧ (s.me.pkt = none → exec (.recv g o) s = .next taken))
      ∧ (s.me.rxtail ≠ s.me.rxhead → nf ≠ s.me.status.getLsbD 2 → exec (.rpoll g o) s = .next (trap s 0x0B off 8 false false)
          ∧ (s.me.pkt = none → exec (.recv g o) s = .next (trap s 0x0B off 8 false false))))
  ∧ (size = 0 → exec (.rpoll g o) s = .next (trap s 0x05 0 8 false false)
      ∧ (s.me.pkt = none → exec (.recv g o) s = .next (trap s 0x05 0 8 false false)))

/-- R119 to R125, R316 to R318: named barriers, wire barriers, and the clock. Rests on choices of the model: log entries 13, 23, 86. -/
def Obligations.BarriersAndClock : Prop := ∀ (g : Guard) (m : OpM) (o : OpR) (s : State), Ready s g →
  let b := (s.me.rg m.ra + s.me.rg m.rb + m.off.signExtend 64).toNat
  let n := (s.me.rg m.rd).toNat
  let q := s.cur / 4
  let clk := s.dieClock (s.cur / 1024)
  let only := fun (u t : State) (x : Barrier) => ∀ j, j < 2 ^ 18 → barAt t j = if j = b then x else barAt u j
  let arrive := fun (x : Barrier) => if x.arr + 1 = x.count then { x with gen := !x.gen, arr := 0 } else { x with arr := x.arr + 1 }
  let bad := trap s 0x16 (b % 1024) 8 false false
  (2 ^ 18 ≤ b → exec (.barcfg g m) s = .next bad ∧ exec (.bararr g m) s = .next bad
    ∧ (s.me.pkt = none → exec (.barwait g m) s = .next bad ∧ exec (.barsync g m) s = .next bad))
  ∧ (b < 2 ^ 18 → s.me.bar = none → s.choices = [] →
      (1 ≤ n → n ≤ 1024 → (barAt s b).arr = 0 → Gives (.barcfg g m) s (fun t =>
        only s t { ctx := s.me.ctx, gen := (barAt s b).gen, arr := 0, count := n } ∧ t.me.bar = none ∧ t.me.pc = follows s.me 8
        ∧ (∀ r, t.me.rg r = s.me.rg r))))
  ∧ (b < 2 ^ 18 → s.me.bar = none → s.choices = [] → s.me.barWait = none → AfterRelease s m.scope (fun s1 =>
      let x := barAt s1 b
      s1.me.bar = none → s1.me.barWait = none → s1.choices = [] → x.count ≠ 0 → x.ctx = s.me.ctx →
      Gives (.bararr g m) s (fun t => only s1 t (arrive x) ∧ t.me.bar = none ∧ t.me.pc = follows s1.me 8
        ∧ (∀ r, t.me.rg r = (s1.me.wg m.rd (if x.gen then 1 else 0)).rg r))
      ∧ (s.me.pkt = none → s.me.prog ≠ 7 → (s.me.rg m.rd).getLsbD 63 = false → (m.rd = 0 → x.gen = false) →
          (x.arr + 1 = x.count → Gives (.barsync g m) s (fun t => only s1 t (arrive x) ∧ t.me.pc = follows s1.me 8
            ∧ (∀ r, t.me.rg r = (s1.me.wg m.rd (if x.gen then 1 else 0)).rg r)))
          ∧ (x.arr + 1 ≠ x.count → Gives (.barsync g m) s (fun t => only s1 t (arrive x) ∧ t.blocked = true ∧ t.me.pc = s1.me.pc
            ∧ t.me.barWait = some { q := s.cur / 1024 * 256 + b / 1024 % 256, id := b % 1024, tok := x.gen }
            ∧ (∀ r, t.me.rg r = (s1.me.wg m.rd (2 ^ 63 + if x.gen then 1 else 0)).rg r))))))
  ∧ (b < 2 ^ 18 → s.me.pkt = none →
      let x := barAt s b
      let tok := (s.me.rg m.rd).getLsbD 0
      let home := s.cur / 1024 * 256 + b / 1024 % 256
      let on := fun (u : State) => acquireSteps u q m.scope
      let after := fun (u : State) => exec (.barwait g m) s = .next ((on u).retire 8)
        ∧ ((s.me.rg m.rd).getLsbD 63 = true → exec (.barsync g m) s = .next ((on u).retireWith 8 (fun t => t.wg m.rd (if tok then 1 else 0))))
      let waits := fun (u : State) => exec (.barwait g m) s = .next u.wait
        ∧ ((s.me.rg m.rd).getLsbD 63 = true → exec (.barsync g m) s = .next u.wait)
      (s.me.barWait = none →
        (x.count = 0 ∨ x.ctx ≠ s.me.ctx → exec (.barwait g m) s = .next bad)
        ∧ (x.count ≠ 0 → x.ctx = s.me.ctx → (x.gen ≠ tok → after (barWaited s home (b % 1024) tok))
          ∧ (x.gen = tok → waits (s.modMe (fun t => { t with barWait := some { q := home, id := b % 1024, tok := tok } })))))
      ∧ (∀ w, s.me.barWait = some w → (x.gen ≠ tok ∨ w.done = true → after (s.modMe (fun t => { t with barWait := none })))
          ∧ (x.gen = tok → w.done = false → waits s)))
  ∧ (s.me.pkt = none →
      (∀ w r, s.me.wire = some w → w.result = some r → Gives (.wirebar g o) s (fun t => t.me.wire = none ∧ t.me.pc = follows s.me 8
        ∧ (∀ x, t.me.rg x = (s.me.wg o.rd (BitVec.ofNat 64 r)).rg x)))
      ∧ (s.me.wire = none → wireOk q (s.cur % 4) (s.core q).wiregrp = false → exec (.wirebar g o) s = .next (trap s 0x16 0 8 false false))
      ∧ (s.me.wire = none → wireOk q (s.cur % 4) (s.core q).wiregrp = true → s.choices = [] →
          let s1 := s.modMe (fun t => { t with wire := some { since := s.clock } })
          (wireComplete s1 (wireCorner s1 q) = true → sameRect s1 q (wireCorner s1 q) = true → Gives (.wirebar g o) s (fun t =>
            t.me.wire = none ∧ t.me.pc = follows s.me 8 ∧ (∀ x, t.me.rg x = (s.me.wg o.rd 1).rg x)))
          ∧ (wireComplete s1 (wireCorner s1 q) = false → exec (.wirebar g o) s = .next s1.wait))
      ∧ ((s.me.rg o.ra).toNat ≤ clk.toNat → exec (.waitclk g o) s = .next (s.retireWith 8 (fun t => { t with clkWait := none })))
      ∧ (clk.toNat < (s.me.rg o.ra).toNat → Gives (.waitclk g o) s (fun t => t.blocked = true ∧ t.me.clkWait = some (s.me.rg o.ra) ∧ t.me.pc = s.me.pc)))
  ∧ WordOut (.rdclk g o) g 8 o.rd s clk

/-- R100, R199, R285 to R288, R306: loop nests, phases, regroup and yield. -/
def Obligations.NestsAndPhases : Prop := ∀ (g : Guard) (o : OpI) (p : OpR) (s : State), Ready s g →
  let r := s.me.rg o.ra + o.imm.signExtend 64
  let j := o.fn.toNat % 8
  let n := s.node s.me.node
  let inst := s.me.rank / instSize n.lrec.levels j
  let key := phaseKey s.me.node j inst
  let sc := groupScope n j (members n j inst)
  (∀ bs x, EndsIn (recordBytes r 64 64) s bs s → parseShape bs = some x →
    (∀ k, x.tile = some k → (tileOf s (s.cur / 4) k).ctx = s.me.ctx ∧ (tileOf s (s.cur / 4) k).st = 2) →
    let base := BitVec.ofNat 64 (Shape.addr s (s.cur / 4) x)
    let live := !x.n.contains 0
    exec (.lnest g o) s = .next (s.retireWith 8 (fun t => ({ t with nest :=
      { base := base, n := x.n, i := [0, 0, 0, 0], s := x.st.drop 1, active := live, esize := esize x.ty } } : Thread).wg o.rd (if live then base else 0))))
  ∧ (∀ (m : Nest), m.n.length = 4 → m.i.length = 4 → (∀ a ∈ m.n.zip m.i, a.2 < a.1) →
      let t := m.advance
      let total := m.n.foldl (· * ·) 1
      (t.2 = decide (place m.n m.i + 1 < total)) ∧ (t.2 = true → place m.n t.1.i = place m.n m.i + 1 ∧ ∀ a ∈ m.n.zip t.1.i, a.2 < a.1)
        ∧ t.1.active = t.2 ∧ t.1.n = m.n ∧ t.1.s = m.s ∧ t.1.base = m.base)
  ∧ (∀ (m : Nest) (i0 i1 i2 i3 s1 s2 s3 : Nat), m.i = [i0, i1, i2, i3] → m.s = [s1, s2, s3] →
      m.addr = m.base + BitVec.ofNat 64 ((i0 + i1 * s1 + i2 * s2 + i3 * s3) * m.esize)
        ∧ m.packed = BitVec.ofNat 64 (i0 % 2 ^ 16 + i1 % 2 ^ 16 * 2 ^ 16 + i2 % 2 ^ 16 * 2 ^ 32 + i3 % 2 ^ 16 * 2 ^ 48))
  ∧ (s.me.pkt = none → Gives (.yield g p) s (fun t => OnlyMe s t ∧ t.me.pc = follows s.me 8 ∧ t.me.yieldTo = some (s.clock + 4)
      ∧ (∀ x, t.me.rg x = s.me.rg x)))
  ∧ (s.me.pkt = none → (s.me.regroup = none → Gives (.regroup g p) s (fun t => OnlyMe s t ∧ t.blocked = true ∧ t.me.pc = s.me.pc
        ∧ t.me.regroup = some s.clock))
      ∧ (∀ c, s.me.regroup = some c → (s.me.prog = 1 ∨ c + 512 ≤ s.clock ∨ (clusterMates s).all (fun th => regroupSettled s.me.pc (s.th th)) = true) →
        Gives (.regroup g p) s (fun t => t.blocked = false ∧ t.me.pc = follows s.me 8 ∧ t.me.regroup = none ∧ (∀ x, t.me.rg x = s.me.rg x)))
      ∧ (∀ c, s.me.regroup = some c → s.me.prog ≠ 1 → s.clock < c + 512 →
        (clusterMates s).all (fun th => regroupSettled s.me.pc (s.th th)) = false → exec (.regroup g p) s = .next s.wait))
  ∧ (s.me.pkt = none → n.lrec.levels.length ≤ j → exec (.phase g o) s = .next (trap s 0x16 j 8 false false))
  ∧ (s.me.pkt = none → j < n.lrec.levels.length → s.me.rank ∉ (tget {} s.phases key).due → s.me.rank ∉ (tget {} s.phases key).arrived →
    AfterRelease s sc (fun s1 =>
      let ph := tget {} s1.phases key
      let s2 := takeSig { s1 with phases := tmod {} s1.phases key (fun p => { p with arrived := p.arrived ++ [s.me.rank] }) } s.me.node j inst (s.cur / 4)
      (groupReady s2 s.me.node j inst = false → Gives (.phase g o) s (fun t => t.blocked = true ∧ t.me.pc = s1.me.pc
        ∧ (tget {} t.phases key).arrived = ph.arrived ++ [s.me.rank] ∧ (tget {} t.phases key).count = ph.count))
      ∧ (groupReady s2 s.me.node j inst = true → Gives (.phase g o) s (fun t =>
        t.blocked = false ∧ t.me.pc = follows s1.me 8 ∧ t.me.compute = !o.fn.getLsbD 3
        ∧ t.me.rg o.rd = (s1.me.wg o.rd (BitVec.ofNat 64 (ph.count + 1))).rg o.rd
        ∧ (tget {} t.phases key).count = ph.count + 1 ∧ (tget {} t.phases key).arrived = []
        ∧ (tget {} t.phases key).due = (ph.arrived ++ [s.me.rank] ++ ph.due).erase s.me.rank))))

end

namespace Sys2Proof.Claims
open Sys2Proof.Machine

/-- The acting thread may submit to a unit of its cluster and be accepted at once (R194, R356): its writes have left its store buffer, it has
no submission waiting, the unit's queue is not full, and no other submission of the unit is pending. -/
def CanSubmit (s : State) (unit : Nat) : Prop :=
  Quiet s ∧ s.me.sub = false ∧ (unitJobs s (s.cur / 32) unit).length < 32
    ∧ ∀ x ∈ (s.clus (s.cur / 32)).jobs, x.unit = unit → x.st ≠ .submitted

/-- What an accepted submission leaves (R194, R355, R356): the job as the last entry of its unit's queue under the unit's next number,
a pending handle that names it, and the thread gone on. -/
def Submitted (i : Instr) (s : State) (len unit : Nat) (kind : JobKind) (card : List Byte) (hd : Option Nat) (p : Job → State → Prop) : Prop :=
  let cl := s.cur / 32
  Gives i s (fun t => ∃ j : Job, (t.clus cl).jobs = (s.clus cl).jobs.filter (fun x => !(x.unit == unit && x.seq == j.seq)) ++ [j]
    ∧ j.seq = (s.unit (cl * 3 + unit)).next ∧ j.st = .accepted ∧ j.unit = unit ∧ j.kind = kind ∧ j.th = s.cur ∧ j.ctx = s.me.ctx
    ∧ j.node = s.me.node ∧ j.status = s.me.status ∧ j.card = card ∧ j.hd = hd ∧ j.prog = 0 ∧ j.result = none ∧ j.park = none ∧ p j t
    ∧ t.me.pc = follows s.me len ∧ t.blocked = false ∧ t.me.sub = false ∧ (∀ r, t.me.rg r = s.me.rg r) ∧ (∀ r, t.me.rp r = s.me.rp r)
    ∧ (∀ k, t.me.rh k = if hd = some k then .job { ctx := s.me.ctx, unit := unit, cl := cl, core := s.cur / 4 % 8, seq := j.seq }
        else s.me.rh k))

/-- The owner of an operand slot or accumulator tile of the acting thread's cluster as node + 1, 0 when unclaimed (R349). -/
def owner (s : State) (acc : Bool) (i : Nat) : Nat := ownerOf (s.clus (s.cur / 32)) acc i
/-- The acting thread's crew holds a slot or tile. -/
def Holds (s : State) (acc : Bool) (i : Nat) : Prop := owner s acc i = s.me.node + 1
/-- The mask of R350. -/
def mask32 (s : State) (o : OpI) : BitVec 32 := (s.me.rg o.ra).setWidth 32 ||| o.imm

/-- A local range lies in one local window that the thread may use, and a device range below 2^55 (R368, R370). -/
def RangeOk (s : State) (va len : Nat) : Prop :=
  if isLocal va then ∃ k, localCheck s (s.cur / 4) s.me.ctx s.me.sup va len = .ok k else va + len ≤ 2 ^ 55

/-- The records of the card instructions. -/
def CardAt (s : State) (o : OpJ) (n : Nat) (d : List Byte) : Prop := EndsIn (recordBytes (s.me.rg o.ra + o.imm.setWidth 64) n 64) s d s

/-- A chain-unit card that passes R376. -/
def ChainOk (s : State) (kind : JobKind) (d : List Byte) (gb : List Byte) : Prop :=
  ∃ c, readChain kind d = some c ∧ (isLocal c.data = true → RangeOk s c.data (c.count * c.pitch))
    ∧ (if kind = .gpool then isLocal c.offs = true → RangeOk s c.offs ((c.count + 1) * 4) else isLocal c.list = true → RangeOk s c.list (c.count * 8))
    ∧ (if kind = .chst false then isLocal c.gbl = true ∧ c.gbl % 2 ^ 56 + 64 ≤ scratch s (s.cur / 4)
        ∧ EndsIn (recordBytes (BitVec.ofNat 64 c.gbl) 64 64) s gb s ∧ ∀ i, i < 8 → field gb (8 * i) 8 % 64 = 0 else gb = [])

end Sys2Proof.Claims

section
open Sys2Proof Sys2Proof.Machine Sys2Proof.Claims

/-- R349, R350, R366: claims and releases of operand slots and accumulator tiles. Rests on choices of the model: log entries 26. -/
def Obligations.Claims : Prop := ∀ (g : Guard) (o : OpI) (s : State),
  let acc := o.fn.getLsbD 0
  let m := mask32 s o
  let own := fun (t : State) (v : Nat) => ∀ b i, i < 32 → owner t b i = if b = acc ∧ m.getLsbD i = true then v else owner s b i
  let open_ := ∀ i, i < 32 → m.getLsbD i = true → owner s acc i = 0 ∨ Holds s acc i
  let mine := ∀ i, i < 32 → m.getLsbD i = true → Holds s acc i
  let others := fun (x : Claim) => x.th ≠ s.cur
  let used := ∃ j ∈ (s.clus (s.cur / 32)).jobs, j.st ≠ .submitted ∧ ∃ i, i < 32 ∧ m.getLsbD i = true ∧ i ∈ (if acc then j.uses.2 else j.uses.1)
  Ready s g →
  (acc = true → 256 ≤ m.toNat → exec (.mxclaim g o) s = .next (trap s 0x17 m.toNat 8 false false)
      ∧ exec (.mxrel g o) s = .next (trap s 0x17 m.toNat 8 false false))
  ∧ ((acc = true → m.toNat < 256) → open_ → (∀ x ∈ (s.clus (s.cur / 32)).claims, others x → x.rel = true ∨ x.acc ≠ acc ∨ x.mask &&& m.toNat = 0) →
      Gives (.mxclaim g o) s (fun t => own t (s.me.node + 1) ∧ t.me = (s.retireWith 8 (fun t => t.wg o.rd (m.setWidth 64))).me
        ∧ t.loc = s.loc ∧ t.dram = s.dram))
  ∧ ((acc = true → m.toNat < 256) → ¬ open_ → o.fn.getLsbD 1 = true → exec (.mxclaim g o) s = .next (s.retireWith 8 (fun t => t.wg o.rd 0)))
  ∧ ((acc = true → m.toNat < 256) → ¬ open_ → o.fn.getLsbD 1 = false → Gives (.mxclaim g o) s (fun t => t.blocked = true ∧ t.me.pc = s.me.pc
      ∧ (∃ x ∈ (t.clus (s.cur / 32)).claims, x.th = s.cur) ∧ (∀ b i, owner t b i = owner s b i) ∧ (∀ r, t.me.rg r = s.me.rg r)))
  ∧ ((acc = true → m.toNat < 256) → mine → ¬ used → Gives (.mxrel g o) s (fun t => own t 0 ∧ t.me = (s.retire 8).me ∧ t.loc = s.loc ∧ t.dram = s.dram))
  ∧ ((acc = true → m.toNat < 256) → mine → used → Gives (.mxrel g o) s (fun t => t.blocked = true ∧ t.me.pc = s.me.pc
      ∧ (∀ b i, owner t b i = owner s b i)))
  ∧ ((acc = true → m.toNat < 256) → ∀ i, i < 32 → m.getLsbD i = true → ¬ Holds s acc i → (∀ j, j < i → m.getLsbD j = true → Holds s acc j) →
      exec (.mxrel g o) s = .next (trap s 0x17 (if acc then 0x100 + i else i) 8 false false))

/-- R352 to R356, R364 to R371, R376, R383, R384: the instructions that submit a job, where every check of theirs passes. Rests on choices of the model: log entries 24, 29, 82. -/
def Obligations.Submissions : Prop := ∀ (g : Guard) (o : OpJ) (z : OpI) (s : State) (d gb : List Byte), Ready s g →
  let q := s.cur / 4
  let h := o.rd.toNat
  let tile := fun n => tget {} (s.core q).tiles n
  let start := fun n => 0xFF00000000000000 + (tile n).base * 64
  let room := fun n => ((tile n).lenm1 + 1) * 64
  let full := fun n => (tile n).ctx = s.me.ctx ∧ (tile n).st = 2
  let free_ := (s.me.rh h).pending = false
  (∀ c, CanSubmit s 0 → free_ → CardAt s o 128 d → readMxCard d = some c → mxCardOk d c = true →
    (c.tap = true → c.tapBytes ≤ room c.tapt ∧ full c.tapt) → (∀ x ∈ c.alist.take c.nch, Holds s false (x / 8)) →
    (∀ x ∈ c.blist.take c.nch, Holds s false x) → (∀ x ∈ c.tiles, Holds s true x) →
    Submitted (.mxjob g o) s 16 0 .mx d (some h) (fun j t => j.foot = cardFoot q d 0x40 ∧ j.dst = start c.tapt ∧ t.loc = s.loc))
  ∧ (CanSubmit s 0 → CardAt s o 400 d → (readCurve d).isSome = true →
    Submitted (.mxcurve g o) s 16 0 .curve d none (fun j _ => j.arg = o.aux0.toNat % 16))
  ∧ (s.me.sub = false → CardAt s o 400 d → (readCurve d).isSome = false →
    exec (.mxcurve g o) s = .next (trap s 0x18 (o.aux0.toNat % 16) 8 false false))
  ∧ (CanSubmit s 0 → (mask32 s z).toNat < 256 → (∀ i, i < 8 → (mask32 s z).getLsbD i = true → Holds s true i) →
    Submitted (.mxzero g z) s 8 0 .zero [] none (fun j _ => j.arg = (mask32 s z).toNat))
  ∧ (∀ c, CanSubmit s 0 → free_ → CardAt s o 64 d → readDrain d = some c →
    let to_ := if c.tile then start c.dst else c.dst
    (c.tile = true → c.span ≤ room c.dst ∧ full c.dst) → RangeOk s to_ c.span → Holds s true c.acc →
    Submitted (.mxdrain g o) s 16 0 .drain d (some h) (fun j _ => j.dst = to_ ∧ j.foot = (mkRegion q true to_ c.span).toList))
  ∧ (∀ c, CanSubmit s 1 → free_ → CardAt s o 64 d → readCopy d = some c →
    let at_ := fun kind v => if kind = 0 then v else if kind = 1 then v / 8 * 32768 + v % 8 * 4096 else start v
    let src := at_ c.skind c.src
    let dst := at_ c.dkind c.dst
    let fits := fun (kind v a len : Nat) => if kind = 0 then RangeOk s a len else if kind = 1 then a % 32768 + len ≤ 32768
      else len ≤ room v ∧ ∃ k, localCheck s q s.me.ctx s.me.sup a len = .ok k
    let x := tile c.dst
    c.transOk src dst = true → fits c.skind c.src src c.sspan → fits c.dkind c.dst dst c.dspan →
    (c.skind = 1 → Holds s false (c.src / 8)) → (c.dkind = 1 → Holds s false (c.dst / 8)) → (c.skind = 2 → full c.src) →
    (c.dkind = 2 → x.ctx = s.me.ctx ∧ x.st ≠ 3 ∧ (x.st = 1 → x.pend < 255)) →
    Submitted (.cpjob g o) s 16 1 .copy d (some h) (fun j t => j.src = src ∧ j.dst = dst
      ∧ j.tileD = (if c.dkind = 2 then some c.dst else none)
      ∧ j.foot = copyRegion q c.skind false src c.sspan ++ copyRegion q c.dkind true dst c.dspan
      ∧ (c.dkind = 2 → tget {} (t.core q).tiles c.dst =
          if x.st = 1 then { x with pend := x.pend + 1 } else { x with st := 1, pend := 1, flt := false })))
  ∧ (∀ i kind, (i, kind) ∈ [(.chld g o, .chld), (.chstAcc g o, .chst false), (.chstApply g o, .chst true), (.gpool g o, JobKind.gpool)] →
    CanSubmit s 2 → free_ → CardAt s o 128 d → ChainOk s kind d gb →
    Submitted i s 16 2 kind d (some h) (fun j _ => j.foot = cardFoot q d 0x40 ∧ j.entB = gb))
  ∧ (∀ c, CanSubmit s 2 → free_ → CardAt s o 128 d → readOpt d = some c →
    Submitted (.optjob g o) s 16 2 .opt d (some h) (fun j _ => j.foot = c.arrays.filterMap (fun (b, n, w) => mkRegion 0 w b n)))
  ∧ (∀ i ∈ [Instr.mxjob g o, .mxdrain g o, .cpjob g o, .chld g o, .chstAcc g o, .chstApply g o, .gpool g o, .optjob g o],
    (s.me.sub = true → exec i s = .next s.wait)
    ∧ (s.me.sub = false → ∀ r, s.me.rh h = .job r → exec i s = .next s.wait))
  ∧ (s.me.sub = true → exec (.mxcurve g o) s = .next s.wait ∧ exec (.mxzero g z) s = .next s.wait)

end

namespace Sys2Proof.Claims
open Sys2Proof.Machine

/-- The status word of an end state (R389). -/
def endWord (r : Settled) : Word := BitVec.ofNat 64 (r.info % 2 ^ 32 * 2 ^ 32 + r.cause % 256 * 2 ^ 8 + r.state)
/-- The status word of a handle (R389). -/
def statusWord : Handle → Word
  | .empty => 4
  | .settled r => endWord r
  | _ => 0
/-- The token of a handle (R390). -/
def tokenWord : Handle → Word
  | .empty => 0
  | .job j => BitVec.ofNat 64 (1 * 2 ^ 61 + j.ctx * 2 ^ 53 + j.unit * 2 ^ 50 + j.cl * 2 ^ 43 + j.core * 2 ^ 40 + j.seq % 2 ^ 32)
  | .node n => BitVec.ofNat 64 (2 * 2 ^ 61 + n)
  | .settled r => BitVec.ofNat 64 (3 * 2 ^ 61 + r.info % 2 ^ 32 * 2 ^ 16 + r.cause % 256 * 2 ^ 8 + r.state)

/-- A handle that a thread of the acting thread's context may take from its token (R393): what it names is still known and has not
ended. -/
def Takeable (s : State) : Handle → Prop
  | .empty => True
  | .job j => j.ctx = s.me.ctx ∧ j.ctx < 256 ∧ j.unit ≤ 4 ∧ j.cl < 128 ∧ j.core < 8 ∧ j.seq < 2 ^ 32 ∧ jobAlive s j = true
      ∧ ∀ e ∈ (s.unit (unitKey j)).ended, e.1 ≠ j.seq
  | .node n => n < 2 ^ 48 ∧ ctxOf n = s.me.ctx ∧ nodeKept s n = true ∧ (s.node n).st.ended = false
  | .settled r => 1 ≤ r.state ∧ r.state ≤ 3 ∧ r.cause < 256 ∧ r.info < 2 ^ 32 ∧ r.node = false

/-- The state in which the thread goes on behind an observation of a handle (R195, R392). -/
def observed (s : State) (r : Settled) : State := if r.state = 1 ∨ r.state = 2 then acquireSteps s (s.cur / 4) .device else s

/-- The value of a special register for the acting thread (R398), by its index. -/
def srValue (s : State) (ix : Nat) : Option Word :=
  let t := s.me
  let q := s.cur / 4
  let c := s.core q
  let d := s.die (s.cur / 1024)
  let n := s.node t.node
  match ix with
  | 0x000 => some t.status
  | 0x001 => some (BitVec.ofNat 64 (s.devId.toNat + s.cur / 1024 * 2 ^ 21 + s.cur / 32 % 32 * 2 ^ 23 + q % 8 * 2 ^ 28 + s.cur % 4 * 2 ^ 31
      + t.gen.toNat * 2 ^ 33))
  | 0x002 => some (BitVec.ofNat 64 t.node)
  | 0x003 => some n.lrec.arg
  | 0x004 => some (BitVec.ofNat 64 (t.idx.foldr (fun i acc => i % 2 ^ 8 + acc * 2 ^ 8) 0))
  | 0x005 => some (BitVec.ofNat 64 (n.prio + n.ep * 2 ^ 8 + agedOf s t.node * 2 ^ 16))
  | 0x006 => (n.place.find? (fun x => x.q == q)).map (fun x => BitVec.ofNat 64 (x.base + x.size * 2 ^ 32))
  | 0x007 => some (s.dieClock (s.cur / 1024))
  | 0x008 => some t.dlcount
  | 0x009 => some t.rngkey
  | 0x00A => some (t.rngctr.extractLsb' 0 64)
  | 0x00B => some (t.rngctr.extractLsb' 64 64)
  | 0x010 => some t.rxbase
  | 0x011 => some (BitVec.ofNat 64 (t.rxsize.toNat % 2 ^ 20
      + if c.asm.any (fun p => p.held && threadOfAddr p.dst == s.cur && decide (t.rxsize.toNat % 2 ^ 20 < 64 + 64 * p.beats.length)) then 2 ^ 31 else 0))
  | 0x012 => some t.rxhead
  | 0x013 => some t.rxtail
  | 0x020 => some t.epc
  | 0x021 => some t.ebt
  | 0x022 => some t.ecause
  | 0x023 => some t.einfo
  | 0x024 => some t.estat
  | 0x025 => some t.utvec
  | 0x026 => some t.umask
  | 0x040 => some (BitVec.ofNat 64 (c.loftReq + c.loftCur * 2 ^ 4))
  | 0x041 => some (BitVec.ofNat 64 (scratch s q - 16384))
  | 0x042 => some (c.lsepoch.setWidth 64)
  | 0x043 => some c.wiregrp
  | 0x044 => some c.wiretmo
  | 0x045 => some (BitVec.ofNat 64 (c.out % 2 ^ 19 + c.round * 2 ^ 28 + (c.rounds.length + 1) * 2 ^ 32 + ((c.stalled.map (·.2)).eraseDups.map (fun st => 2 ^ (40 + st))).sum))
  | 0x046 => some c.wallow
  | 0x060 => some (s.clus (s.cur / 32)).vicgroup
  | 0x080 => some d.spilldly
  | 0x081 => some d.gap
  | 0x082 => some d.preempts
  | 0x083 => some d.tvec
  | 0x084 => some d.fqcfg
  | 0x085 => some (BitVec.ofNat 64 (d.fqHead.toNat + d.fqTail.toNat * 2 ^ 32))
  | 0x086 => some 0
  | _ => none

/-- What a wrsr of a register of the thread writes (R206, R215, R341). -/
def srThread (v : Word) (ix : Nat) (t : Thread) : Option Thread :=
  match ix with
  | 0x008 => some { t with dlcount := v &&& 0xFFFFFFFF }
  | 0x009 => some { t with rngkey := v }
  | 0x00A => some { t with rngctr := t.rngctr.extractLsb' 64 64 ++ v }
  | 0x00B => some { t with rngctr := v ++ t.rngctr.extractLsb' 0 64 }
  | 0x020 => some { t with epc := v &&& 0xFFFFFFFFFFFFFFFC }
  | 0x021 => some { t with ebt := v &&& 0xFFFFFFFFFFFFFFFC }
  | 0x022 => some { t with ecause := v &&& 0x80000000000000FF }
  | 0x023 => some { t with einfo := v }
  | 0x024 => some { t with estat := v &&& 0x1F }
  | 0x025 => some { t with utvec := v &&& 0x007FFFFFFFFFFFFD }
  | 0x026 => some { t with umask := v &&& 0x1FFFFFE }
  | _ => none

/-- What a wrsr of a register of the die writes (R95, R178, R206). -/
def srDie (v : Word) (ix : Nat) (d : Die) : Option Die :=
  match ix with
  | 0x080 => some { d with spilldly := v &&& 0xFFFFFFFF }
  | 0x081 => some { d with gap := v &&& 0x7F }
  | 0x083 => some { d with tvec := v &&& 0x007FFFFFFFFFFFFD }
  | 0x085 => some { d with fqHead := v.setWidth 32 }
  | _ => none

/-- The acting thread goes on by `len` bytes with its registers changed by `f`, and no other thread and no memory has changed. -/
def GoesOn (s t : State) (len : Nat) (f : Thread → Thread) : Prop :=
  t.me = (s.retireWith len f).me ∧ t.blocked = false ∧ t.cur = s.cur ∧ (∀ th, th ≠ s.cur → t.th th = s.th th) ∧ t.loc = s.loc ∧ t.dram = s.dram

end Sys2Proof.Claims

section
open Sys2Proof Sys2Proof.Machine Sys2Proof.Claims

/-- R388 to R394, R210: the instructions on future handles. -/
def Obligations.Handles : Prop := ∀ (g : Guard) (o : OpR) (s : State), Ready s g →
  let n := o.ra.toNat % 16
  let h := o.rd.toNat % 16
  let x := s.me.rh n
  (x = .empty → exec (.hwait g o) s = .next (trap s 0x0F n 8 false false))
  ∧ (s.me.pkt = none → (∀ j, x = .job j → exec (.hwait g o) s = .next s.wait)
      ∧ (∀ k, x = .node k → exec (.hwait g o) s = .next (s.modMe (fun t => { t with waitOn := some k })).wait))
  ∧ (s.me.pkt.isSome = true → (∀ j, x = .job j → exec (.hwait g o) s = .next (trap s 0x0C 1 8 false false))
      ∧ (∀ k, x = .node k → exec (.hwait g o) s = .next (trap s 0x0C 1 8 false false)))
  ∧ (∀ r, x = .settled r →
      let a := observed s r
      (o.fn = 1 → r.state = 2 → s.me.resWait = false →
        exec (.hwait g o) s = .next (trap a r.cause (n + r.info * 256 % 2 ^ 64) 8 false true))
      ∧ (¬ (o.fn = 1 ∧ r.state = 2 ∧ s.me.resWait = false) →
        exec (.hwait g o) s = .next (a.retireWith 8 (fun t => t.wg o.rd (endWord r))))
      ∧ exec (.htest g o) s = .next (a.retireWith 8 (fun t => t.wp o.rd.toNat (BitVec.allOnes 64)))
      ∧ exec (.hstat g o) s = .next (a.retireWith 8 (fun t => t.wg o.rd (endWord r))))
  ∧ ((∀ r, x ≠ .settled r) → exec (.htest g o) s = .next (s.retireWith 8 (fun t => t.wp o.rd.toNat 0))
      ∧ exec (.hstat g o) s = .next (s.retireWith 8 (fun t => t.wg o.rd (statusWord x))))
  ∧ exec (.hmovTok g o) s = .next (s.retireWith 8 (fun t => t.wg o.rd (tokenWord x)))
  ∧ exec (.hmovClr g o) s = .next (s.retireWith 8 (fun t => t.wh h .empty))
  ∧ (∀ j, s.me.rh h = .job j → exec (.hmovH g o) s = .next s.wait)
  ∧ ((s.me.rh h).pending = false → ∀ y, Takeable s y → s.me.rg o.ra = tokenWord y →
      exec (.hmovH g o) s = .next (s.retireWith 8 (fun t => t.wh h y)))
  ∧ ((s.me.rh h).pending = false → (s.me.rg o.ra).toNat / 2 ^ 61 ≥ 4 ∨ ((s.me.rg o.ra).toNat / 2 ^ 61 = 0 ∧ s.me.rg o.ra ≠ 0)
        ∨ ((s.me.rg o.ra).toNat / 2 ^ 61 = 1 ∧ (s.me.rg o.ra).toNat / 2 ^ 53 % 256 ≠ s.me.ctx) →
      exec (.hmovH g o) s = .next (trap s 0x0F h 8 false false))
  ∧ (x.pending = false → exec (.hcancel g o) s = .next (s.retireWith 8 (fun t => t.wg o.rd 0)))
  ∧ (∀ j b, x = .job j → j.unit < 3 → jobAt s j.cl j.unit j.seq = some b →
      (b.st = .running → exec (.hcancel g o) s = .next (s.retireWith 8 (fun t => t.wg o.rd 0)))
      ∧ (b.st = .accepted → b.ref = j → Gives (.hcancel g o) s (fun t => t.me.rg o.rd = (s.me.wg o.rd 1).rg o.rd
          ∧ jobAt t j.cl j.unit j.seq = none ∧ t.me.rh n = .settled { state := 3 } ∧ t.me.pc = follows s.me 8
          ∧ (∀ k, s.me.rh k ≠ x → t.me.rh k = s.me.rh k) ∧ t.loc = s.loc)))
  ∧ (∀ k, x = .node k → nodeKept s k = true → (s.node k).preempted = false → (s.node k).lrec.done = 0 → (s.node k).crew = [] →
      ((s.node k).st = .waiting ∨ (s.node k).st = .ready) → Gives (.hcancel g o) s (fun t => t.me.rg o.rd = (s.me.wg o.rd 1).rg o.rd
        ∧ (t.node k).st = .cancelled ∧ t.me.rh n = .settled { state := 3, node := true } ∧ t.me.pc = follows s.me 8 ∧ t.loc = s.loc))

/-- R56, R58, R73, R93, R395, R396: spawn and prio. Rests on choices of the model: log entries 68. -/
def Obligations.SpawnAndPriority : Prop := ∀ (g : Guard) (o : OpR) (p : OpJ) (s : State), Ready s g →
  let h := p.rd.toNat % 16
  let ctx := s.me.ctx
  let lower := fun (i : Instr) (k : Nat) => nodeKept s k = true → (s.node k).st.ended = false → Gives i s (fun t =>
    (t.node k).prio = min (s.me.rg o.ra).toNat (bits (s.ctx (ctxOf k)).ctl.toNat 13 8) ∧ (∀ j, j ≠ k → t.node j = s.node j)
      ∧ GoesOn s t 8 (fun t => t.wg o.rd (BitVec.ofNat 64 (s.node k).prio)))
  let gone := fun (i : Instr) => exec i s = .next (s.retireWith 8 (fun t => t.wg o.rd (BitVec.allOnes 64)))
  (∀ d, (s.me.rh h).pending = false → CardAt s p 256 d → AfterRelease s .device (fun s1 =>
    let code := poolCode s1 ctx d true true
    (code ≠ 0 → exec (.spawn g p) s = .next (s1.retireWith 16 (fun t => t.wh h (.settled { state := 2, cause := 0x0F, info := code }))))
    ∧ (code = 0 → (readLaunch d).pred = [] → Gives (.spawn g p) s (fun t =>
        let k := (s1.ctx ctx).count + 1
        let id := ctx * 2 ^ 40 + k
        (t.ctx ctx).count = k ∧ (t.node id).st = .ready ∧ (t.node id).lrec = readLaunch d ∧ (t.node id).spawned = true
          ∧ (t.node id).prio = (readLaunch d).prio ∧ t.me.rh h = .node id ∧ t.me.pc = follows s1.me 16 ∧ (∀ r, t.me.rg r = s1.me.rg r)))))
  ∧ (∀ j, s.me.rh h = .job j → exec (.spawn g p) s = .next s.wait)
  ∧ (o.fn = 0 → lower (.prio g o) s.me.node ∧ ((nodeKept s s.me.node = false ∨ (s.node s.me.node).st.ended = true) → gone (.prio g o)))
  ∧ (o.fn = 1 → (∀ k, s.me.rh (o.rb.toNat % 16) = .node k → lower (.prio g o) k)
      ∧ (∀ r, s.me.rh (o.rb.toNat % 16) = .settled r → if r.node then gone (.prio g o) else exec (.prio g o) s =
          .next (trap s 0x0F (o.rb.toNat % 16) 8 false false))
      ∧ (s.me.rh (o.rb.toNat % 16) = .empty → exec (.prio g o) s = .next (trap s 0x0F (o.rb.toNat % 16) 8 false false)))

/-- R4, R95, R105, R106, R116, R121, R160, R178, R206, R215, R254, R341, R398: reads and writes of special registers. Rests on choices of the model: log entries 76. -/
def Obligations.SystemRegisters : Prop := ∀ (g : Guard) (o : OpI) (s : State), Ready s g →
  let ix := o.imm.toNat % 65536
  let v := s.me.rg o.ra
  let d := s.cur / 1024
  let q := s.cur / 4
  let sup := s.me.status.getLsbD 0 = true
  let on := fun (i : Instr) (f : Thread → Thread) => Gives i s (fun t => GoesOn s t 8 f)
  (∀ x, srValue s ix = some x → (0x83 ≤ ix ∧ ix ≤ 0x86 → sup) → exec (.rdsr g o) s = .next (s.retireWith 8 (fun t => t.wg o.rd x)))
  ∧ ((srThread v ix s.me).isSome = true → on (.wrsr g o) (fun t => (srThread v ix t).getD t))
  ∧ (∀ x, srDie v ix (s.die d) = some x → sup → Gives (.wrsr g o) s (fun t => GoesOn s t 8 id ∧ ∀ k, t.die k = if k = d then x else s.die k))
  ∧ (ix = 0x086 → sup → Gives (.wrsr g o) s (fun t => t.me.pc = follows s.me 8 ∧ t.blocked = false ∧ (∀ r, t.me.rg r = s.me.rg r)
      ∧ ∀ cl j, cl / 32 = d → jobAt s cl j.unit j.seq = some j → j.result = none → (∀ p, j.park = some p → p.token = some (v.toNat % 2 ^ 32) →
        (∀ c e, c / 32 = d → e ∈ (s.clus c).jobs → parkedAs (v.toNat % 2 ^ 32) e.park = true → c = cl ∧ e.unit = j.unit ∧ e.seq = j.seq) →
        ∃ k, jobAt t cl j.unit j.seq = some k ∧ k.park = none)))
  ∧ (ix = 0x000 → (v.toNat / 32 % 8 < 6 → on (.statusWrite g o) (fun t =>
        { t with status := (v &&& 0x3F03FC) ||| (t.status &&& 1) }))
      ∧ (6 ≤ v.toNat / 32 % 8 → exec (.statusWrite g o) s = .next (trap s 0x01 (firstWord (.statusWrite g o)).toNat 8 false false)))
  ∧ (ix = 0x010 → if v.toNat % 64 = 0 ∧ ringOk s (v.toNat % 2 ^ 19) (s.me.rxsize.toNat % 2 ^ 20) = true
      then on (.rxRingRegWrite g o) (fun t => { t with rxbase := v &&& 0x7FFC0, rxhead := 0, rxtail := 0 })
      else exec (.rxRingRegWrite g o) s = .next (trap s 0x05 v.toNat 8 false false))
  ∧ (ix = 0x011 → if (v.toNat % 2 ^ 20 = 0 ∨ ∃ i, i < 10 ∧ v.toNat % 2 ^ 20 = 2 ^ (10 + i)) ∧
        ringOk s (s.me.rxbase.toNat % 2 ^ 19) (v.toNat % 2 ^ 20) = true
      then on (.rxRingRegWrite g o) (fun t => { t with rxsize := v &&& 0xFFFFF, rxhead := 0, rxtail := 0 })
      else exec (.rxRingRegWrite g o) s = .next (trap s 0x05 v.toNat 8 false false))
  ∧ (ix = 0x012 → on (.rxheadWrite g o) (fun t => { t with rxhead :=
        if (t.rxtail.setWidth 32 - v.setWidth 32 : BitVec 32).toNat > t.rxsize.toNat % 2 ^ 20 then t.rxtail else (v.setWidth 32 : BitVec 32).setWidth 64 }))
  ∧ (ix = 0x040 → sup → Gives (.loftsplitWrite g o) s (fun t => GoesOn s t 8 id ∧ (t.core q).loftReq = v.toNat % 4
      ∧ (t.core q).loftCur = (s.core q).loftCur ∧ ∀ k, k ≠ q → t.core k = s.core k))
  ∧ (ix = 0x043 ∨ ix = 0x044 → Gives (.wireRegWrite g o) s (fun t => GoesOn s t 8 id ∧ (∀ k, k ≠ q → t.core k = s.core k) ∧
      if ∃ k : Fin 4, (s.th (q * 4 + k.val)).wire.isSome = true
      then (t.core q).wiregrp = (s.core q).wiregrp ∧ (t.core q).wiretmo = (s.core q).wiretmo
        ∧ (ix = 0x043 → (t.core q).wireNew = some (v &&& 0xFFFFF)) ∧ (ix = 0x044 → (t.core q).tmoNew = some (v &&& 0xFFFFFFFF))
      else (ix = 0x043 → (t.core q).wiregrp = v &&& 0xFFFFF) ∧ (ix = 0x044 → (t.core q).wiretmo = v &&& 0xFFFFFFFF)))
  ∧ (ix = 0x046 → if 1 ≤ v.toNat % 128 ∧ v.toNat % 128 ≤ 64
      then sup → Gives (.wallowWrite g o) s (fun t => GoesOn s t 8 id ∧ ∀ k, t.core k = if k = q then { s.core q with wallow := v &&& 0x7F } else s.core k)
      else sup → exec (.wallowWrite g o) s = .next (trap s 0x01 (firstWord (.wallowWrite g o)).toNat 8 false false))
  ∧ (ix = 0x060 → sup → Gives (.vicgroupWrite g o) s (fun t => GoesOn s t 8 id ∧ (t.clus (s.cur / 32)).vicgroup = v &&& 0xFF
      ∧ ∀ k, k / 8 = s.cur / 32 → ∀ e ∈ (t.core k).l1, e.2.pool = false ∧ e ∈ (s.core k).l1))
  ∧ (ix = 0x084 → sup → if v.toNat / 2 ^ 32 % 16 ≤ 10 ∧ v.toNat / 32 % 2 ^ 19 * 32 + 2 ^ (v.toNat / 2 ^ 32 % 16 + 6) * 32 ≤ 2 ^ 24
      then Gives (.fqcfgWrite g o) s (fun t => GoesOn s t 8 id ∧ ∀ k, t.die k = if k = d then { s.die d with fqcfg := v &&& 0xFFFF000F00FFFFE0 } else s.die k)
      else exec (.fqcfgWrite g o) s = .next (trap s 0x05 v.toNat 8 false false))

end

namespace Sys2Proof.Claims
open Sys2Proof.Machine

/-- A thread's event at the home of `n` bytes reads `e` there (R301, R382, R402): no earlier access of the thread is on its way, and the writes
of its die to those words have reached the home. -/
def Homed (s : State) (pa : Nat) (pg : Page) (n : Nat) (e : List Byte) (t : State) : Prop :=
  s.me.sb = [] ∧ (∀ r ∈ (s.core (s.cur / 4)).reads, r.th ≠ s.cur) ∧ (∀ x ∈ (s.core (s.cur / 4)).sent, x.2.loc = true)
    ∧ homeRead (toHome s (s.cur / 4) pa n) pa n pg.ctx pg.key pg.cls = (t, some e)
/-- The event's write at the home, word by word as charged Chute writes, recorded in the signature of core `q` (R144, R159). -/
def homePut (s : State) (q pa : Nat) (pg : Page) (new : List Byte) : State :=
  let put := fun (s : State) (w : Nat × Nat) => writeHome (recordSig s q w.1) q (piece w.1 ((new.drop (w.1 - pa)).take w.2) pg true true)
  toHome ((wordPieces pa new.length).foldl put s) q pa new.length
/-- `n` bytes at a tensor table index of the acting thread's context lie within the table and one frame, at a place that translation
gives (R64, R176). -/
def EntryAt (s : State) (idx n : Nat) (acc : Acc) (pa : Nat) (pg : Page) (t : State) : Prop :=
  let va := entryVa s s.me.ctx idx
  idx + n / 64 ≤ (s.ctx s.me.ctx).ttcount.toNat ∧ idx < 65536 ∧ va % 512 + n ≤ 512
    ∧ translate s (s.cur / 4) s.me.ctx s.me.sup va acc = (t, .ok (pa, pg))
/-- The charge and the release steps of a write run to their end. -/
def Paid (l : List Nat) (s t : State) : Prop := ∃ u, EndsIn (charge l) s ⟨⟩ u ∧ EndsIn (releaseSteps .device) u ⟨⟩ t
/-- How many scales a tensor has (R403). -/
def scales (e : List Byte) : Nat :=
  let n := fun i => field e (8 + 4 * i) 4
  let up := fun x d => (x + (d - 1)) / d
  (match entSmode e with
   | 1 => up (n 0) 32 * n 1
   | 2 => up (n 0) 128 * n 1
   | _ => up (n 0) 128 * up (n 1) 128) * n 2 * n 3
/-- A pinned window of a stack (R157). -/
def pinAt (s : State) (st w : Nat) : Pin := tget {} (s.stack st).pins w
/-- The record of a window (R157). -/
def pinWord (p : Pin) : Word :=
  BitVec.ofNat 64 (p.ngran % 2 ^ 20 * 2 ^ 6 + p.start % 2 ^ 20 * 2 ^ 26 + p.ctx % 256 * 2 ^ 46 + p.fade % 256 * 2 ^ 54 + p.st * 2 ^ 62)

end Sys2Proof.Claims

section
open Sys2Proof Sys2Proof.Machine Sys2Proof.Claims

/-- R382, R402, R403: the tensor table's instructions, where their checks pass: what they read and write at the entry's home. Rests on choices of the model: log entries 80. -/
def Obligations.TensorTable : Prop := ∀ (g : Guard) (o : OpR) (p : OpJ) (s s1 s2 s3 s4 s5 s6 s7 s8 : State) (pa spa : Nat) (pg spg : Page)
    (list r e x e2 : List Byte), Ready s g → s.me.prog = 0 →
  let q := s.cur / 4
  let addr := (s.me.rg p.ra + p.imm.setWidth 64).toNat
  -- tblswap
  (let idx := (s.me.rg o.ra).toNat
   let v := o.fn = 1
   let n := if v then 128 else 64
   let base := (s.me.rg o.rb).toNat
   let off := if v then 0x28 else 0x34
   let ver := field e off 4
   let fb := (List.range 8).map (fun i => field list (8 * i) 8)
   let out := fun (t : State) => exec (.tblswap g o) s = .next (t.retireWith 8 (fun t => t.wg o.rd (BitVec.ofNat 64 ver)))
   (if v then EndsIn (recordBytes (s.me.rg o.rb) 64 64) s list s else base < 2 ^ 55) → EntryAt s idx n .write pa pg s1 →
   Paid (List.replicate (if v then 3 else 2) (stackOf pa)) s1 s2 → Homed s2 pa pg n e s3 → s2.cur = s.cur →
   entValid e = true → (if v then pairOk e = true ∧ basesOk fb (field e 0x21 1 % 16) = true
     else entLayout e ≤ 1 ∧ ∃ ty, Ty.ofCode (entTy e) = some ty ∧ base % esize ty = 0) →
   (o.rc ≠ 0 → ver ≠ (s.me.rg o.rc).toNat % 2 ^ 32 → out s3)
   ∧ (o.rc = 0 ∨ ver = (s.me.rg o.rc).toNat % 2 ^ 32 → ∃ new : List Byte, new.length = n
      ∧ (∀ i, i < n → new[i]? =
          if off ≤ i ∧ i < off + 4 then some (byteN (ver + 1) (i - off))
          else if v then (if 0x30 ≤ i ∧ i < 0x60 then list[i - 0x30]? else if 0x68 ≤ i ∧ i < 0x78 then list[i - 0x38]? else e[i]?)
          else if i < 8 then some (byteN base i) else e[i]?)
      ∧ out (homePut s3 q pa pg new)))
  -- tdesc
  ∧ (let idx := p.aux0.toNat % 65536
     (CardAt s p 64 r → EntryAt s idx 64 .read pa pg s1 → Homed s1 pa pg 64 e s3 → s1.cur = s.cur → s3.cur = s.cur →
       let a := acquireSteps s3 q .device
       let k := localHome q addr
       Gives (.tdescRd g p) s (fun t => (∀ y, seen t y = if k ≤ y ∧ y < k + 64 then (e[y - k]?).getD 0 else seen a y) ∧ t.dram = a.dram
         ∧ t.me.pc = follows a.me 16 ∧ (∀ j, t.me.rg j = (a.me.wg p.rd (BitVec.ofNat 64
             (if entLayout e ≤ 1 then field e 0x34 4 else if entLayout e = 2 then field e 0x28 4 else 0))).rg j)))
     ∧ (CardAt s p 64 r → entLayout r ≤ 1 → EntryAt s idx 64 .write pa pg s1 → Paid [stackOf pa, stackOf pa] s1 s2 → Homed s2 pa pg 64 e s3 →
       s2.cur = s.cur → ∃ new : List Byte, new.length = 64
         ∧ (∀ i, i < 64 → new[i]? = if 0x30 ≤ i ∧ i < 0x38 then (if entLayout e ≤ 1 then e[i]? else some 0) else r[i]?)
         ∧ exec (.tdescWr g p) s = .next ((homePut s3 q pa pg new).retireWith 16 (fun t => t.wg p.rd (BitVec.ofNat 64 (field new 0x34 4)))))
     ∧ (CardAt s p 128 r → entLayout r = 2 → entLayout (r.drop 64) = 3 → EntryAt s idx 128 .write pa pg s1 →
       Paid (List.replicate 4 (stackOf pa)) s1 s2 → Homed s2 pa pg 128 e s3 → s2.cur = s.cur → ∃ new : List Byte, new.length = 128
         ∧ (∀ i, i < 128 → new[i]? = if 0x28 ≤ i ∧ i < 0x2C then (if entLayout e = 2 then e[i]? else some 0) else r[i]?)
         ∧ exec (.tdescWr2 g p) s = .next ((homePut s3 q pa pg new).retireWith 16 (fun t => t.wg p.rd (BitVec.ofNat 64 (field new 0x28 4)))))
     ∧ (CardAt s p 64 r → 1 < entLayout r → exec (.tdescWr g p) s = .next (trap s 0x05 addr 8 false false)))
  -- scaleset
  ∧ (let idx := (s.me.rg o.ra).toNat
     let j := (s.me.rg o.rb).toNat
     let size := if o.fn = 0 then 4 else 1
     let sva := (field e 0x28 8 + j * size) % 2 ^ 64
     EntryAt s idx 64 .write pa pg s1 → Homed s1 pa pg 64 e s2 → s2.cur = s.cur → entValid e = true → entSmode e ≠ 0 →
     (entSmode e = 1 ↔ o.fn = 1) → j < scales e → sva % size = 0 →
     translate s2 q s.me.ctx s.me.sup sva .write = (s3, .ok (spa, spg)) → Paid [stackOf spa, stackOf pa] s3 s4 → s4.cur = s.cur →
     Homed s4 spa spg size x s5 → s6 = homePut s5 q spa spg ((List.range size).map (byteN (s.me.rg o.rc).toNat)) → s6.cur = s.cur →
     Homed s6 pa pg 64 e2 s7 →
     let v := (field e2 0x30 4 + 1) % 2 ^ 32
     s8 = homePut s7 q pa pg (e2.take 0x30 ++ (List.range 4).map (byteN v) ++ e2.drop 0x34) →
     exec (.scaleset g o) s = .next (s8.retireWith 8 (fun t => t.wg o.rd (BitVec.ofNat 64 v))))

/-- R46, R71, R157, R158, R388, R400, R401, R404, R405: translation invalidation, key operations, pinned windows and the capability list. Rests on choices of the model: log entries 73, 74. -/
def Obligations.SystemActs : Prop := ∀ (g : Guard) (o : OpR) (p : OpJ) (c : OpI) (s : State), Ready s g →
  let sup := s.me.status.getLsbD 0 = true
  let drops := fun (i : Instr) (hit : TlbEntry → Bool) (blk : Nat → Bool) => AfterRelease s .device (fun s1 => Gives i s (fun t =>
    (∀ k, (t.core k).utlb = (s1.core k).utlb.filter (fun e => !hit e)) ∧ (∀ k, (t.clus k).tlb = (s1.clus k).tlb.filter (fun e => !hit e))
      ∧ (∀ k, (t.die k).tcache = (s1.die k).tcache.filter (fun e => !hit e))
      ∧ (∀ k, (t.clus k).icache = (s1.clus k).icache.filter (fun e => !blk e.ctx))
      ∧ (∀ th, (t.th th).fbuf = if blk (s1.th th).ctx then [] else (s1.th th).fbuf)
      ∧ t.me = { (s1.retire 8).me with fbuf := t.me.fbuf } ∧ t.loc = s1.loc ∧ t.dram = s1.dram))
  let a := (s.me.rg o.ra).toNat
  (sup → a < 256 → drops (.tlbinvCtx g o) (fun e => e.ctx == a) (· == a))
  ∧ (sup → a < 256 → drops (.tlbinvPage g o)
      (fun e => e.ctx == a && e.vpn == (s.me.rg o.rb).toNat / (if e.big then 2 ^ 29 else 2 ^ 16)) (· == a))
  ∧ (sup → drops (.tlbinvAll g o) (fun _ => true) (fun _ => true))
  ∧ (sup → 256 ≤ a → exec (.tlbinvCtx g o) s = .next (trap s 0x05 a 8 false false)
      ∧ exec (.tlbinvPage g o) s = .next (trap s 0x05 a 8 false false))
  ∧ (let h := p.rd.toNat % 16
     let j : JobRef := { ctx := s.me.ctx, unit := 4, cl := s.cur / 32, core := s.cur / 4 % 8, seq := (s.unit 3000).next }
     let sends := fun (i : Instr) (k : KeyOp) => Gives i s (fun t => t.mgmt = { s.mgmt with keyOps := s.mgmt.keyOps ++ [{ k with ref := some j, node := s.me.node }] }
       ∧ GoesOn s t 16 (fun t => t.wh h (.job j)))
     sup → (s.me.rh h).pending = false →
     (∀ d, CardAt s p 128 d →
       ((d.drop 3).take 5).all (· == 0) = true → ((d.drop 0x50).take 48).all (· == 0) = true → field d 2 1 < 16 →
       (1 ≤ field d 0 2 → field d 0 2 ≤ 1023 →
         sends (.keyopLoad g p) { load := true, slot := field d 0 2, kek := field d 2 1, wrapped := BitVec.ofNat 576 (field d 8 72) })
       ∧ (field d 0 2 = 0 ∨ 1023 < field d 0 2 → exec (.keyopLoad g p) s = .next (trap s 0x05 (field d 0 2) 8 false false)))
     ∧ (p.aux0.toNat < 1024 → p.aux0.toNat ≠ 0 → sends (.keyopKill g p) { load := false, slot := p.aux0.toNat })
     ∧ (p.aux0 = 0 → exec (.keyopKill g p) s = .next (trap s 0x05 0 8 false false)))
  ∧ (let st := p.aux0.toNat / 2 ^ 24 % 8
     let w := p.aux0.toNat / 2 ^ 20 % 16
     let start := p.aux0.toNat % 2 ^ 20
     let n := p.aux1.toNat % 2 ^ 20
     let old := pinAt s st w
     let foreign := ¬ sup ∧ old.st ≠ 0 ∧ old.ctx ≠ s.me.ctx
     let total := ((s.stack st).pins.filter (fun e => e.1 != w && e.2.st == 1)).map (·.2.ngran) |>.sum
     let bad := n = 0 ∨ 1536 < n ∨ 2 ^ 20 < start + n
     let refuse := fun (i : Instr) (k : Nat) => exec i s = .next (s.retireWith 16 (fun t => t.wg p.rd (BitVec.ofNat 64 (3 * 2 ^ 62 + k))))
     let sets := fun (i : Instr) (x : Pin) => Gives i s (fun t => GoesOn s t 16 (fun t => t.wg p.rd (pinWord x))
       ∧ ∀ a b, pinAt t a b = if a = st ∧ b = w then x else pinAt s a b)
     (bad → refuse (.mscpinPin g p) 3) ∧ (¬ bad → foreign → refuse (.mscpinPin g p) 2)
     ∧ (¬ bad → ¬ foreign → 1536 < total + n → refuse (.mscpinPin g p) 1)
     ∧ (¬ bad → ¬ foreign → total + n ≤ 1536 → sets (.mscpinPin g p) { st := 1, fade := 255, ctx := s.me.ctx, start := start, ngran := n })
     ∧ (foreign → refuse (.mscpinRel g p) 2) ∧ (¬ foreign → sets (.mscpinRel g p) { old with st := 0 })
     ∧ exec (.mscpinRd g p) s = .next (s.retireWith 16 (fun t => t.wg p.rd (pinWord old))))
  ∧ (let b := (s.me.rg c.ra + c.imm.signExtend 64).toNat
     (b % 8 ≠ 0 → exec (.capr g c) s = .next (trap s 0x04 b 8 false false))
     ∧ (b % 8 = 0 → 0x10000 ≤ b → exec (.capr g c) s = .next (trap s 0x05 b 8 false false))
     ∧ (b % 8 = 0 → b < 0x10000 → exec (.capr g c) s = .next (s.retireWith 8 (fun t => t.wg c.rd (capWord s b)))
         ∧ (capList s).length = 14 ∧ (112 ≤ b → capWord s b = 0)))

end

namespace Sys2Proof.Claims
open Sys2Proof.Machine

/-- A boot image passes the checks of R36 and R37: magic, size, signature and security version. -/
def ImageOk (bs : List Byte) (most fsv : Nat) : Prop :=
  let len := field bs 12 4
  field bs 0 4 = 0x424C445A ∧ len ≤ most ∧ slhVerify slh256s Config.fusedKey (bs.take (16 + len)) ((bs.drop (16 + len)).take 29792) = true
    ∧ fsv ≤ field bs 8 4
/-- The most bytes an image fetched into a range of `n` bytes may have (R37). -/
def most (n : Nat) : Nat := min n 67108864
/-- The CODE of the check that a fetched image fails first, 0 when it passes (R37). -/
def imageCode (x : List Byte × Nat) (fsv : Nat) (code : Nat) : Prop :=
  let len := field x.1 12 4
  let signed := slhVerify slh256s Config.fusedKey (x.1.take (16 + len)) ((x.1.drop (16 + len)).take 29792) = true
  if field x.1 0 4 ≠ 0x424C445A then code = 5 else if most x.2 < len then code = 6 else if ¬ signed then code = 5
    else if field x.1 8 4 < fsv then code = 2 else code = 0
/-- The signed bytes of an image. -/
def imageOf (x : List Byte × Nat) : List Byte := x.1.take (16 + field x.1 12 4)
/-- Measurement register `k` is extended by a byte string, and no other is (R35). -/
def Extended (s t : State) (k : Nat) (x : List Byte) : Prop :=
  ∀ j, tget 0 t.mgmt.meas j = if j = k then
    BitVec.ofNat 512 (bytesToNat (shake256 (natToBytes 64 (tget 0 s.mgmt.meas k).toNat ++ shake256 x 64) 64)) else tget 0 s.mgmt.meas j
/-- A key slot (R44). -/
def slotOf' (s : State) (k : Nat) : KeySlot := tget {} s.mgmt.slots k
/-- Only the management complex has changed. -/
def OnlyMgmt (s t : State) : Prop := t = { s with mgmt := t.mgmt }
/-- The record of a wear indicator after the hourly reading `w` (R48, R49). -/
def WearRead (o n : Wear) (w : Int) (eol clock : Nat) : Prop :=
  n.raw = BitVec.ofInt 64 w ∧ n.index = min 65535 (65535 * (max w 0).toNat / eol) ∧ n.seq = o.seq + 2 ∧ n.warn = o.warn ∧ n.crit = o.crit
    ∧ n.flagW = (o.flagW || decide (o.warn ≤ n.index)) ∧ n.flagC = (o.flagC || decide (o.crit ≤ n.index)) ∧ n.time = BitVec.ofNat 64 clock

end Sys2Proof.Claims

section
open Sys2Proof Sys2Proof.Machine Sys2Proof.Claims

/-- R33 to R43: reset, the boot ROM, the loader, the runtime's start, fuses, measurements and attestation. -/
def Sys2Proof.Claims.bootAndAttestation : Prop := ∀ (s : State) (img str : List Byte) (ok : Bool) (len n k : Nat) (key seed : BitVec 512) (nonce : BitVec 256)
    (v : Word),
  let m := s.mgmt
  let flash := fun (m : Mgmt) a len => mread 0xFF m.flash a len
  let kept := fun (t : State) => t.threads = [] ∧ t.nodes = [] ∧ t.cores = [] ∧ t.clusters = [] ∧ t.dies = [] ∧ t.ports = [] ∧ t.ctxs = []
    ∧ t.dram = s.dram ∧ t.host.mem = s.host.mem ∧ t.mgmt.fsv = m.fsv ∧ t.mgmt.slots = [] ∧ t.mgmt.keks = []
  let cfg := flash m 0x2000000 0xF00000
  let idle := m.slot ≠ 0 ∧ m.stage ≤ 1 ∧ m.retryAt = none
  let noAddr := fun (t : State) => OnlyMgmt s t ∧ t.mgmt.stage = 1 ∧ t.mgmt.code = 3 ∧ t.mgmt.linkUp = false
    ∧ t.mgmt.retryAt = some (s.clock + 10 * 2250000000)
  let fails := fun (t : State) (code : Nat) => OnlyMgmt s t ∧ t.mgmt.code = code ∧ t.mgmt.fails = m.fails + 1 ∧ t.mgmt.step = 0 ∧ t.mgmt.fetched = []
    ∧ (if 8 ≤ m.fails + 1 then t.mgmt.stage = 14 else t.mgmt.stage = 2 ∧ t.mgmt.retryAt = some (s.clock + 10 * 2250000000))
  let fetching := m.stage = 2 ∧ m.step < 3 ∧ m.retryAt = none
  let got := m.fetched ++ [(img, len)]
  let late := m.stepAt + 60 * 2250000000 ≤ s.clock
  let asking := m.signing.any (·.1)
  -- reset
  Gives .powerOnReset s (fun t => kept t ∧ t.mgmt.flash = m.flash
    ∧ (t.mgmt.stage = 0 ∧ (t.mgmt.slot = 1 ∨ t.mgmt.slot = 2) ∨ t.mgmt.stage = 15 ∧ (t.mgmt.code = 1 ∨ t.mgmt.code = 2)))
  ∧ (m.stage = 15 → ImageOk img 16747408 m.fsv → Gives (.tftpLoaderPush img) s (fun t => kept t
      ∧ t.mgmt.flash = mwrite 0xFF m.flash 0x1000000 (img.take (16 + field img 12 4 + 29792))))
  ∧ (m.stage = 15 → ¬ ImageOk img 16747408 m.fsv → Gives (.tftpLoaderPush img) s (fun t => kept t ∧ t.mgmt.flash = m.flash))
  ∧ (m.stage ≠ 15 → exec (.tftpLoaderPush img) s = .next s)
  -- the loader
  ∧ (idle → Gives (.loaderRun true) s (fun t => t.mgmt.stage = 2 ∧ t.mgmt.step = 0 ∧ t.mgmt.linkUp = true ∧ t.mgmt.retryAt = none
        ∧ t.mgmt.devId = some (Config.bootDevId cfg) ∧ t.threads = s.threads ∧ t.dram = s.dram
        ∧ ∀ p, p < 16 → (Config.bootPorts cfg).getLsbD p = true ∨ (s.port p).en = true → (t.port p).en = true ∧ (t.port p).st ≠ 0)
      ∧ Gives (.loaderRun false) s noAddr ∧ (late → Gives .loaderAddressTimeout s noAddr))
  ∧ (¬ idle → exec (.loaderRun ok) s = .next s)
  ∧ (¬ (idle ∧ late) → exec .loaderAddressTimeout s = .next s)
  ∧ (fetching → Gives (.loaderFetchComplete false img len) s (fun t => fails t 4)
      ∧ (m.step < 2 → exec (.loaderFetchComplete true img len) s = .next { s with mgmt := { m with fetched := got, step := m.step + 1 } })
      ∧ (m.step = 2 → (∀ (i : Nat) (x : List Byte × Nat) (code : Nat), got[i]? = some x → (∀ (j : Nat) (y : List Byte × Nat), j < i → got[j]? = some y → ImageOk y.1 (most y.2) m.fsv) → code ≠ 0 →
            imageCode x m.fsv code → Gives (.loaderFetchComplete true img len) s (fun t => fails t code))
          ∧ (∀ x y z, got = [x, y, z] → (∀ i : List Byte × Nat, i ∈ got → ImageOk i.1 (most i.2) m.fsv) → Gives (.loaderFetchComplete true img len) s (fun t =>
              OnlyMgmt s t ∧ t.mgmt.step = 3 ∧ t.mgmt.code = 0 ∧ t.mgmt.fetched = [] ∧ ∃ a b c : State, Extended s a 1 (imageOf x)
                ∧ Extended a b 2 (imageOf y) ∧ Extended b c 3 (imageOf z) ∧ Extended c t 4 cfg))))
  ∧ (¬ fetching → exec (.loaderFetchComplete ok img len) s = .next s)
  ∧ (∀ a, m.retryAt = some a → (a ≤ s.clock → exec .loaderRetryTimer s = .next { s with mgmt := { m with retryAt := none, stepAt := s.clock } })
      ∧ (s.clock < a → exec .loaderRetryTimer s = .next s))
  -- the runtime
  ∧ (m.stage = 2 → 3 ≤ m.step → Gives (.runtimeBringUp true key seed) s (fun t => t.mgmt.stage = 4 ∧ t.mgmt.seed = seed
        ∧ slotOf' t 0 = { st := .loaded, key := key } ∧ t.windowAt = some s.clock ∧ t.mgmt.elapsed = some (s.clock / 2250000)
        ∧ (∀ c st, st < 8 → twf {} s.ctxs = true →
            tget 0 (t.stack st).remain c = (tget 0 (s.ctx c).budget st).toNat % 2 ^ 32) ∧ t.threads = s.threads ∧ t.dram = s.dram)
      ∧ exec (.runtimeBringUp false key seed) s = .next { s with mgmt := { m with stage := 3, code := 7 } })
  ∧ (m.stage = 4 → m.fsv ≤ n → n ≤ min 64 m.loaderSv → exec (.fuseBlow n) s = .next { s with mgmt := { m with fsv := n } })
  ∧ (n < m.fsv ∨ min 64 m.loaderSv < n → exec (.fuseBlow n) s = .next s)
  ∧ (m.stage = 4 → 5 ≤ k → k ≤ 7 → Gives (.ownerStringMeasure k str) s (fun t => OnlyMgmt s t ∧ Extended s t k str))
  -- attestation
  ∧ exec (.attestRequestMgmt nonce) s = .next { s with mgmt := { m with signing := m.signing ++ [(false, nonce)] } }
  ∧ (v.getLsbD 0 = true → asking = false →
      exec (.attestGo v) s = .next { s with mgmt := { m with signing := m.signing ++ [(true, m.nonce)] } })
  ∧ (v.getLsbD 0 = false ∨ asking = true → exec (.attestGo v) s = .next s)
  ∧ (∀ l bar, m.signing = (bar, nonce) :: l → Gives .attestReportSigned s (fun t =>
      ∃ b r : List Byte, b.length = 656 ∧ r = slhSign slh256f idKey (Config.signRandom s.freeCount) b ∧ (b.drop 16).take 32 = natToBytes 32 nonce.toNat
        ∧ (b.drop 8).take 4 = natToBytes 4 s.devId.toNat ∧ (∀ k, k < 8 → (b.drop (48 + 64 * k)).take 64 = natToBytes 64 (tget 0 m.meas k).toNat)
        ∧ b.drop 592 = shake256 (mlkemPublic m.seed) 64
        ∧ t = { s with
            mgmt := if bar then { m with signing := l, report := b ++ r } else { m with signing := l, mgmtRep := b ++ r }
            freeCount := s.freeCount + 1 }))

/-- R44 to R52, R171, R401: keys and their destruction, temperatures and wear. -/
def Sys2Proof.Claims.keysAndSensors : Prop := ∀ (s : State) (k r n : Nat) (ct : List Byte) (w : BitVec 576) (temp : BitVec 16) (l : List Int),
  let m := s.mgmt
  let x := slotOf' s k
  let soft := m.stage = 4 ∧ 1 ≤ k ∧ k ≤ 1023
  let unwraps := fun (d : BitVec 512) => ∃ kek, tget none m.keks r = some kek ∧ kwUnwrap kek w = some d
    ∧ d.extractLsb' 0 256 ≠ d.extractLsb' 256 256
  let loads := fun (d : BitVec 512) (t : State) => t.mgmt.keks = m.keks
    ∧ ∀ j, slotOf' t j = if j = k then { x with st := .loaded, key := d } else slotOf' s j
  let answers := fun (t : State) (x : Nat) => t.mgmt.keyAnswers = m.keyAnswers ++ [x]
  let kills := fun (j : Option (JobRef × Nat)) (t : State) => ∀ i, slotOf' t i = if i = k then { x with st := .killing, step := 1, waits := j.toList } else slotOf' s i
  let steps := fun (u t : State) => ∀ i, slotOf' t i = if i = k then { slotOf' u k with step := (slotOf' u k).step + 1 } else slotOf' u i
  let t8 := temp.toInt
  let throttle : Nat → Int := fun n => if n < 4 then 840 else if n = 4 then 800 else 760
  let trip : Int := if n < 4 then 920 else if n = 4 then 880 else 840
  let old := tget {} m.sensors n
  let due := ∀ a, old.at_ = some a → a + 2 ^ 20 ≤ s.clock
  let after : Nat → Sensor := fun j => if j = n then { old with temp := temp, alert := old.alert || decide (throttle n ≤ t8), at_ := some s.clock }
    else tget {} m.sensors j
  let near := fun j => throttle j - 40 < (after j).temp.toInt
  let stop := (∃ j, throttle j ≤ (after j).temp.toInt) ∨ (s.dispatch = false ∧ ∃ j, near j)
  let hour := s.clock / (3600 * 2250000000)
  let hourly := s.clock % (3600 * 2250000000) < 10 * 2250000000 ∧ m.wearHour ≠ some hour
  (m.stage = 4 → r < 16 → ct.length = 1568 → Gives (.kekDecapsulate r ct) s (fun t => OnlyMgmt s t ∧ t.mgmt.slots = m.slots
    ∧ ∀ i, tget none t.mgmt.keks i = if i = r then some (mlkemDecap m.seed ct) else tget none m.keks i))
  ∧ (∀ d, soft → r < 16 → x.st = .empty → unwraps d → Gives (.mgmtKeyLoad k r w) s (fun t => OnlyMgmt s t ∧ loads d t ∧ answers t 0))
  ∧ (soft → r < 16 → (x.st ≠ .empty ∨ ¬ ∃ d, unwraps d) → Gives (.mgmtKeyLoad k r w) s (fun t => OnlyMgmt s t ∧ t.mgmt.slots = m.slots
      ∧ t.mgmt.keks = m.keks ∧ answers t (if x.st = .empty then 1 else 2)))
  ∧ (soft → x.st = .loaded → Gives (.mgmtKeyKill k) s (fun t => OnlyMgmt s t ∧ kills none t))
  ∧ (soft → x.st = .empty → exec (.mgmtKeyKill k) s = .next s)
  -- key operations of threads
  ∧ (m.keyOps = [] → exec .keyOperationArrive s = .next s)
  ∧ (∀ j nd o d, m.keyOps = { load := true, slot := k, kek := r, wrapped := w, ref := some j, node := nd } :: o → x.st = .empty → unwraps d →
      Gives .keyOperationArrive s (fun t => t.mgmt.keyOps = o ∧ loads d t ∧ ∀ h, s.me.rh h = .job j → t.me.rh h = .settled { state := 1 }))
  ∧ (∀ j nd o, m.keyOps = { load := true, slot := k, kek := r, wrapped := w, ref := some j, node := nd } :: o → x.st ≠ .empty →
      Gives .keyOperationArrive s (fun t => t.mgmt.keyOps = o ∧ t.mgmt.slots = m.slots
        ∧ ∀ h, s.me.rh h = .job j → t.me.rh h = .settled { state := 2, cause := 0x09, info := 2 }))
  ∧ (∀ j nd o, m.keyOps = { load := false, slot := k, ref := some j, node := nd } :: o → x.st = .loaded →
      Gives .keyOperationArrive s (fun t => t.mgmt.keyOps = o ∧ kills (some (j, nd)) t ∧ t.threads = s.threads))
  -- destruction of a key
  ∧ (x.st ≠ .killing → exec (.keyKillStepComplete k) s = .next s)
  ∧ (x.st = .killing → x.step = 1 → Gives (.keyKillStepComplete k) s (fun t => steps s t
      ∧ (∀ q, ∀ e ∈ (t.core q).gp, parkedUnder k e.park = false) ∧ (∀ q, ∀ e ∈ (t.core q).utlb, bits e.pte.toNat 63 54 ≠ k) ∧ (∀ c, ∀ e ∈ (t.clus c).tlb, bits e.pte.toNat 63 54 ≠ k)
      ∧ (∀ d, ∀ e ∈ (t.die d).tcache, bits e.pte.toNat 63 54 ≠ k)))
  ∧ (x.st = .killing → x.step = 2 → let u := settleKey s k
      (keyAwaited u k = true → exec (.keyKillStepComplete k) s = .next u)
      ∧ (keyAwaited u k = false → Gives (.keyKillStepComplete k) s (fun t => steps u t
        ∧ (∀ q, (∀ e ∈ (t.core q).l1, e.2.key ≠ k) ∧ ∀ e ∈ (t.core q).sent, e.2.key ≠ k ∨ e.2.loc = true ∨ e.2.fence = true)
        ∧ (∀ th, ∀ e ∈ (t.th th).sb, e.key ≠ k ∨ e.loc = true ∨ e.fence = true) ∧ (∀ c, ∀ e ∈ (t.clus c).icache, e.key ≠ k)
        ∧ (∀ d, ∀ e ∈ (t.die d).fills, e.key ≠ k))))
  ∧ (x.st = .killing → x.step = 3 → Gives (.keyKillStepComplete k) s (fun t => ∀ st, ∀ e ∈ (t.stack st).nmu, e.key ≠ k))
  ∧ (x.st = .killing → 4 ≤ x.step → Gives (.keyKillStepComplete k) s (fun t => slotOf' t k = {}
      ∧ (∀ st e, e ∈ (t.stack st).msc → ∀ y ∈ e.2, y.key ≠ k) ∧ ∀ j h, j ∈ x.waits → s.me.rh h = .job j.1 → t.me.rh h = .settled { state := 1 }))
  -- temperatures
  ∧ (n ≤ 12 → due → twf {} m.sensors = true → Gives (.tempSample n temp) s (fun t => t.threads = s.threads ∧ t.nodes = s.nodes
      ∧ (∀ j, tget {} t.mgmt.sensors j = { after j with throt := t.dispatch == false && decide (near j) })
      ∧ (t.dispatch = false ↔ stop)
      ∧ (if trip ≤ t8 then t.powered = false ∧ t.dram = [] ∧ t.loc = [] else t.powered = s.powered ∧ t.dram = s.dram ∧ t.loc = s.loc)))
  ∧ (12 < n ∨ ¬ due → exec (.tempSample n temp) s = .next s)
  -- wear
  ∧ (¬ hourly → exec (.wearHourlyUpdate l) s = .next s)
  ∧ (hourly → Gives (.wearHourlyUpdate l) s (fun t => t.threads = s.threads ∧ t.mgmt.wearHour = some hour ∧ t.dram = s.dram
      ∧ (∀ i, i < 256 → WearRead (tget {} m.wear i) (tget {} t.mgmt.wear i) (l.getD i 0) 80000 s.clock)
      ∧ (∀ i, 264 ≤ i → i < 272 → WearRead (tget {} m.wear i) (tget {} t.mgmt.wear i) (l.getD i 0) 750000 s.clock)
      ∧ (∀ i, 272 ≤ i → i < 288 → WearRead (tget {} m.wear i) (tget {} t.mgmt.wear i) (l.getD i 0) 500000 s.clock)
      ∧ (∀ i, i < 8 → (t.stack i).corrected = 0
          ∧ WearRead (tget {} m.wear (256 + i)) (tget {} t.mgmt.wear (256 + i)) ((tget [] t.mgmt.hourly i).sum : Nat) 1048576 s.clock
          ∧ tget [] t.mgmt.hourly i = (tget [] m.hourly i ++ [(s.stack i).corrected]).drop ((tget [] m.hourly i).length + 1 - 720))))

/-- R33 to R52, R171, R401: boot, attestation, keys, temperatures and wear. Rests on choices of the model: log entries 7, 8, 10, 14, 42, 54, 55, 56, 57, 89, 93, 98, 100, 112, 113, 114. -/
def Obligations.ManagementPlane : Prop := Claims.bootAndAttestation ∧ Claims.keysAndSensors

end

namespace Sys2Proof.Claims
open Sys2Proof.Machine

/-- The answer of a register as the host reads it (R20, R40, R43, R47, R51, R53, R54, R57, R64): a BAR's offset to its value. -/
def hostValue (s : State) (bar off : Nat) : Option Word :=
  let c := off / 0x1000 % 0x100
  let x := s.ctx c
  if bar = 0 then
    if off < 0x100000 then
      if off % 0x1000 = 0x100 then some (tget {} s.host.windows c).status
      else if off % 0x1000 = 0x108 then some (BitVec.ofNat 64 (if x.count = 0 then 0 else c * 2 ^ 40 + x.count)) else some 0
    else if off < 0x200000 then match off % 0x1000 with
      | 0x00 => some x.ctl | 0x08 => some x.ptroot | 0x10 => some x.ttbase | 0x18 => some x.ttcount | 0x20 => some x.spillbase
      | 0x28 => some x.dlbase | 0x30 => some x.dlsize | _ => none
    else if off = 0x200000 then some s.host.winCtl else if off = 0x200008 then some s.host.errors else some 0
  else
    if off = 0x100 then some (BitVec.ofNat 64 ((s.mgmt.elapsed.getD (s.clock / 2250000)) % 2 ^ 32 * 2 ^ 32 + s.mgmt.code * 2 ^ 16 + s.mgmt.slot * 2 ^ 4 + s.mgmt.stage))
    else if off = 0x440 then some (if s.mgmt.signing.any (·.1) then 2 else 0)
    else if off = 0x3000 then some (BitVec.ofNat 64 s.mgmt.health)
    else if off = 0x200 then (let n := tget {} s.mgmt.sensors 0
      some (BitVec.ofNat 64 (n.temp.toNat + (if n.throt then 2 ^ 16 else 0) + (if n.alert then 2 ^ 17 else 0))))
    else none

/-- The host port after an access that had nothing before it. -/
def hostAfter (s : State) (f : HostPort → HostPort) : State := { s with host := { f s.host with queue := [] } }

/-- The address of an offset in the window of BAR 2 (R54). -/
def windowAt (s : State) (x : Nat) : Nat := s.host.winCtl.toNat / 2 ^ 30 % 2 ^ 25 * 2 ^ 30 / 2 ^ s.host.barLog * 2 ^ s.host.barLog + x

end Sys2Proof.Claims

section
open Sys2Proof Sys2Proof.Machine Sys2Proof.Claims

/-- R14, R53 to R57, R59, R64 to R66, R161: the host's accesses to registers, intake windows and device memory, and budgets. Rests on choices of the model: log entries 40, 51, 52, 53, 94, 99, 102, 106. -/
def Obligations.HostAccesses : Prop := ∀ (s : State) (bar off size c x n st q ctx : Nat) (v : Word) (data : List Byte),
  let h := s.host
  let fits := size ∈ [1, 2, 4, 8] ∧ off % size = 0
  let regs := bar = 0 ∨ bar = 4
  let area := bar = 0 ∧ off < 0x100000 ∧ off % 0x1000 < 0x100 ∧ off % 0x1000 + size ≤ 0x100
  let bad := fun (h : HostPort) => { h with errors := h.errors + 1 }
  let cx := s.ctx c
  let en := cx.ctl.getLsbD 0 = true
  let at_ := fun o => 0x100000 + 0x1000 * c + o
  let win := fun (s : State) => tget {} s.host.windows c
  let after := fun (a : Nat) (d : List Byte) (t : State) => (∀ i, tget 0 (win t).area i = if a ≤ i ∧ i < a + d.length then d.getD (i - a) 0
      else tget 0 (win s).area i) ∧ ∀ j, j ≠ c → tget {} t.host.windows j = tget {} h.windows j
  let sealed := (mwrite 0 (win s).area 0xF8 data)
  let bs := mread 0 sealed 0 256
  let marks := (win s).marks ||| granules 0xF8 8
  let code := if s.mgmt.stage ≠ 4 then 3 else poolCode s c bs (marks &&& 0x7FFFFFFF == 0x7FFFFFFF) true
  let grant := fun (t : Table Nat) => tget 0 t (ctx * 8 + st)
  let left := tget 0 (s.stack st).remain ctx
  h.queue = [] →
  -- registers
  (area → exec (.hostRegisterRead bar off size) s = .next (hostAfter s (fun h => { h with answers := h.answers ++ [List.replicate size 0] })))
  ∧ (regs → fits → (∃ w, exec (.hostRegisterRead bar off size) s = .next (hostAfter s (fun h => { h with answers := h.answers ++ [w] })) ∧ w.length = size)
    ∧ (off % 8 = 0 → size = 8 → ∀ y, hostValue s bar off = some y → exec (.hostRegisterRead bar off size) s =
        .next (hostAfter s (fun h => { h with answers := h.answers ++ [natToBytes 8 y.toNat] }))))
  ∧ (regs → ¬ fits → ¬ area → exec (.hostRegisterRead bar off size) s =
      .next (hostAfter s (fun h => { bad h with answers := h.answers ++ [List.replicate size 0xFF] })))
  ∧ (regs → ¬ fits → ¬ area → exec (.hostRegisterWrite bar off size v) s = .next (hostAfter s bad))
  ∧ (exec (.hostRegisterWrite 0 0x200000 8 v) s = .next (hostAfter s (fun h => { h with winCtl := v &&& 0x807FFFFFC00000FF })))
  ∧ (c < 256 → Gives (.hostRegisterWrite 0 (at_ 0) 8 v) s (fun t => (t.ctx c).ctl = v &&& 0x0000FFFFFFFF3F01
      ∧ (en → v.getLsbD 0 = false → ∀ id, nodeKept s id = true → ctxOf id = c → (s.node id).st = .waiting ∨ (s.node id).st = .ready →
          (t.node id).st = .cancelled)))
  ∧ (c < 256 → ¬ en → Gives (.hostRegisterWrite 0 (at_ 0x08) 8 v) s (fun t => ∀ j, t.ctx j = if j = c then { cx with ptroot := v &&& 0xFFFFFF0000 } else s.ctx j)
      ∧ Gives (.hostRegisterWrite 0 (at_ 0x10) 8 v) s (fun t => ∀ j, t.ctx j = if j = c then { cx with ttbase := v } else s.ctx j)
      ∧ Gives (.hostRegisterWrite 0 (at_ 0x18) 8 v) s (fun t => ∀ j, t.ctx j = if j = c then { cx with ttcount := v } else s.ctx j))
  ∧ (c < 256 → en → exec (.hostRegisterWrite 0 (at_ 0x08) 8 v) s = .next (hostAfter s bad))
  ∧ (exec (.hostRegisterWrite 4 0x3000 8 v) s = .next { s with
        host := { h with queue := [] }
        mgmt := { s.mgmt with health := s.mgmt.health &&& (~~~v).toNat } })
  -- intake windows
  ∧ (c < 256 → off + data.length ≤ 0xF8 → Gives (.intakeRecordWrite c off data) s (fun t => after off data t ∧ (win t).status = (win s).status
      ∧ ∀ i, i < 32 → (win t).marks.getLsbD i = ((win s).marks.getLsbD i || (decide (off ≤ 8 * i) && decide (8 * i + 8 ≤ off + data.length)))))
  ∧ (c < 256 → data.length = 8 → Gives (.sealAttempt c 0xF8 data) s (fun t => after 0xF8 data t ∧ (win t).marks = 0
      ∧ (win t).status = BitVec.ofNat 64 (field data 0 4 * 2 ^ 32 + code * 2 ^ 8 + if code = 0 then 1 else 2)
      ∧ (code ≠ 0 → t.nodes = s.nodes)
      ∧ (code = 0 → (t.ctx c).count = cx.count + 1 ∧ (t.node (c * 2 ^ 40 + (cx.count + 1))).lrec = readLaunch bs)))
  ∧ (c < 256 → Gives (.contextDisable c) s (fun t => (t.ctx c).ctl = cx.ctl &&& 0x0000FFFFFFFF3F00
      ∧ (en → ∀ id, nodeKept s id = true → ctxOf id = c → (s.node id).st = .waiting ∨ (s.node id).st = .ready → (t.node id).st = .cancelled)))
  -- device memory
  ∧ (∀ s1 s2 pa pg b, x + n ≤ 2 ^ h.barLog → 1 ≤ n → windowAt s x % 32 + n ≤ 32 → hostTranslate s (windowAt s x) false = (s1, some (pa, pg)) →
      homeRead s1 pa n pg.ctx pg.key pg.cls = (s2, some b) →
      exec (.bar2HostRead x n) s = .next (hostAfter s2 (fun h => { h with answers := h.answers ++ [b] })))
  ∧ (∀ s1, x + n ≤ 2 ^ h.barLog → 1 ≤ n → windowAt s x % 32 + n ≤ 32 → hostTranslate s (windowAt s x) false = (s1, none) →
      exec (.bar2HostRead x n) s = .next (hostAfter s1 (fun h => { bad h with answers := h.answers ++ [List.replicate n 0xFF] })))
  ∧ (∀ s1 s2 pa pg, x + data.length ≤ 2 ^ h.barLog → data ≠ [] → windowAt s x % 32 + data.length ≤ 32 →
      hostTranslate s (windowAt s x) true = (s1, some (pa, pg)) →
      (hostCharge s1 pg.ctx (stackOf pa) 1 = (s2, true) →
        exec (.bar2HostWrite x data) s = .next (hostAfter (homeWrite s2 pa (data.map some) pg.ctx pg.key pg.cls true) id))
      ∧ (hostCharge s1 pg.ctx (stackOf pa) 1 = (s2, false) →
        exec (.bar2HostWrite x data) s = .next { s2 with host := { s2.host with queue := [.write x data] } }))
  ∧ (30 ≤ n → n ≤ 39 → exec (.bar2Resize n) s = .next { s with host := { h with barLog := n } })
  ∧ (n < 30 ∨ 39 < n → exec (.bar2Resize n) s = .next s)
  -- budgets
  ∧ (windowDue s st = true → Gives (.budgetWindowStart st) s (fun t => (∀ q c, (tget 0 (t.core q).grants (c * 8 + st)) = 0 ∨ 8 ≤ st)
      ∧ (twf {} s.ctxs = true → ∀ c, tget 0 (t.stack st).remain c = (tget 0 (s.ctx c).budget st).toNat % 2 ^ 32)))
  ∧ (windowDue s st = false → exec (.budgetWindowStart st) s = .next s)
  ∧ (budgetsRun s = true → q < 1024 → grant (s.core q).grants < 128 → (ctx, st) ∉ (s.core q).asked → Gives (.grantRequest q ctx st) s (fun t =>
      ∀ k, t.core k = if k = q then { s.core q with asked := (s.core q).asked ++ [(ctx, st)] } else s.core k))
  ∧ (budgetsRun s = true → grant h.grants < 128 → (ctx, st) ∉ h.asked →
      exec (.grantRequest 1024 ctx st) s = .next { s with host := { h with asked := h.asked ++ [(ctx, st)] } })
  ∧ (windowDue s st = false → q < 1024 → (ctx, st) ∈ (s.core q).asked → Gives (.grantAnswer q ctx st) s (fun t =>
      grant (t.core q).grants = grant (s.core q).grants + min 256 left ∧ tget 0 (t.stack st).remain ctx = left - min 256 left
      ∧ (t.core q).asked = (s.core q).asked.erase (ctx, st)))
  ∧ (windowDue s st = false → (ctx, st) ∈ h.asked → Gives (.grantAnswer 1024 ctx st) s (fun t =>
      grant t.host.grants = grant h.grants + min 256 left ∧ tget 0 (t.stack st).remain ctx = left - min 256 left
      ∧ t.host.asked = h.asked.erase (ctx, st)))

end

namespace Sys2Proof.Claims
open Sys2Proof.Machine

/-- The work of a unit or of a device runs to its end. -/
def FinJ {α : Type} (w : J α) (s : State) (a : α) (t : State) : Prop := w.run s = (.ok a, t)

/-- Nothing but one port has changed, and the port is `x`. -/
def PortNow (s t : State) (p : Nat) (x : Port) : Prop :=
  t = { s with ports := t.ports } ∧ t.port p = x ∧ ∀ k, k ≠ p → t.port k = s.port k

/-- R19: what a port loses that leaves UP8 or UP4 for another state. -/
def Lost (s t : State) (p st : Nat) : Prop :=
  let x := s.port p
  let gone := x.replay ++ (x.tx.map (·.2)).flatten
  let hit := fun (q : Nat) (e : GpEntry) => gone.any (fun f => (f.op == 1 || f.op == 2) && f.aux.toNat % 65536 / 64 == q && f.aux.toNat % 64 == e.id
    && e.kind == 1 && e.dev == f.dst.toNat)
  (t.port p).st = st ∧ (t.port p).replay = [] ∧ (t.port p).tx = [] ∧ (t.port p).resend = [] ∧ (t.port p).laneok = 0
    ∧ tget 0 (t.port p).cnt 4 = tget 0 x.cnt 4 + BitVec.ofNat 64 (gone.countP (fun f => f.op == 4 || f.op == 5))
    ∧ (∀ k, k ≠ p → t.port k = s.port k)
    ∧ (∀ q, (t.core q).asm = (s.core q).asm.filter (fun k => k.ended || k.port != p))
    ∧ (∀ q, (t.core q).gp = (s.core q).gp.map (fun e => if hit q e then { e with fault := some (e.fault.getD 0x05), st := .moved } else e))
    ∧ (∀ k, tget 0 t.peerSent k = tget 0 s.peerSent k
        - gone.countP (fun f => (f.op == 1 || f.op == 5) && f.dst.toNat * 1024 + f.aux.toNat / 64 % 1024 == k))
    ∧ t.threads = s.threads ∧ t.dram = s.dram ∧ t.loc = s.loc

/-- A port that trains or is down, without anything lost. -/
def idlePort (x : Port) (st : Nat) : Port := { x with st := st, tries := 0, half := false, laneok := 0 }

/-- A port whose training has succeeded (R18). -/
def UpPort (s t : State) (p st : Nat) (half : Bool) (lanes : BitVec 8) : Prop :=
  let x := t.port p
  x.st = st ∧ x.half = half ∧ x.laneok = lanes ∧ x.tries = 0 ∧ x.seq = 0 ∧ x.rxLast = 0xFFF ∧ (∀ i, i < 4 → tget 0 x.credits i = 64)
    ∧ x.freed = [] ∧ x.tx = (s.port p).tx ∧ x.cnt = (s.port p).cnt ∧ (∀ k, k ≠ p → t.port k = s.port k) ∧ t = { s with ports := t.ports }

/-- The CREDIT field of the next flit (R22). -/
def creditOf (x : Port) : BitVec 24 :=
  BitVec.ofNat 24 (((List.range 4).map (fun i => min 63 (tget 0 x.freed i) * 64 ^ i)).sum)

/-- One flit leaves a port, with its ACK and CREDIT (R22, R23); `g` tells what else changes at the port. -/
def Leaves (s t : State) (p : Nat) (f : Flit) (g : Port → Port) : Prop :=
  let x := s.port p
  (∀ i, i < 4 → tget 0 (t.port p).freed i = tget 0 x.freed i - min 63 (tget 0 x.freed i))
    ∧ PortNow s t p { g x with freed := (t.port p).freed, last := some { f with ack := x.rxLast, credit := creditOf x } }

/-- A flit that carries nothing. -/
def plainFlit (kind : BitVec 2) : Flit :=
  { addr := 0, aux := 0, route := 0, hops := 0, hopix := 0, dst := 0, src := 0, ctx := 0, op := 0, tc := 0, beats := 0, last := false,
    seq := 0, ack := 0, credit := 0, kind := kind, opx := 0, payload := 0 }

/-- A class has a flit and a credit. -/
def Sends (x : Port) (c : Nat) : Prop := tget [] x.tx c ≠ [] ∧ 0 < tget 0 x.credits c

/-- A data flit of class `c` is sent: numbered, kept for replay, and a credit spent (R23). -/
def DataOut (s t : State) (p c wrr : Nat) : Prop :=
  match tget [] (s.port p).tx c with
  | f :: l => Leaves s t p { f with seq := (s.port p).seq, kind := 1 } (fun x => { x with
      tx := tset [] x.tx c l
      replay := x.replay ++ [{ f with seq := x.seq, kind := 1 }]
      seq := x.seq + 1
      credits := tset 0 x.credits c (tget 0 x.credits c - 1)
      wrr := wrr })
  | [] => False

/-- A port behind a flit's ACK and CREDIT (R22, R23). -/
def acked (f : Flit) (x : Port) : Port := { x with
  replay := x.replay.dropWhile (fun g => (f.ack - g.seq).toNat < 2048)
  resend := x.resend.dropWhile (fun g => (f.ack - g.seq).toNat < 2048)
  ackTo := f.ack
  credits := (List.range 4).foldl (fun t i => tset 0 t i (tget 0 t i + f.credit.toNat / 64 ^ i % 64)) x.credits }

/-- A data flit in order is taken (R23): its number is the last one received, and its buffer is freed. -/
def received (s : State) (p : Nat) (f : Flit) : State :=
  (s.modPort p (acked f)).modPort p (fun x => { x with
    rxLast := f.seq, discard := false, freed := tset 0 x.freed f.tc.toNat (tget 0 x.freed f.tc.toNat + 1) })

/-- The flit is the next data flit of a link that is up. -/
def InOrder (s : State) (p : Nat) (f : Flit) : Prop :=
  ((s.port p).st = 2 ∨ (s.port p).st = 3) ∧ f.kind = 1 ∧ f.seq = (s.port p).rxLast + 1

/-- What the machine does on a received data flit, by the OP of its step (R25). -/
def RxStep (s : State) (p : Nat) (f : Flit) (k : Nat) (r : Res) : Prop :=
  (k = 1 ∧ r = exec (.rxPutdata p f) s)
    ∨ (k = 2 ∧ r = exec (.rxGetreq p f) s)
    ∨ (k = 3 ∧ r = exec (.rxGetdata p f) s)
    ∨ (k = 4 ∧ r = exec (.rxSend p f) s)
    ∨ (k = 5 ∧ r = exec (.rxAmo p f) s)
    ∨ (k = 6 ∧ r = exec (.rxCount p f) s)
    ∨ (k = 7 ∧ r = exec (.rxRelquery p f) s)
    ∨ (k = 8 ∧ r = exec (.rxRelreply p f) s)
    ∨ (k = 9 ∧ r = exec (.rxMgmt p f) s)
    ∨ (k = 10 ∧ r = exec (.rxRefuse p f) s)

/-- The bytes of a put are written at their homes, word by word. -/
def PutHomes (ag : Agent) (a : Nat) (bs : List Byte) : List (Nat × Nat) → State → State → Prop
  | [], s, t => t = s
  | (v, m) :: l, s, t => ∃ s1 pa pg, FinJ (jTranslate ag v .write) s (pa, pg) s1
      ∧ PutHomes ag a bs l (homeWrite s1 pa (((bs.drop (v - a)).take m).map some) pg.ctx pg.key pg.cls false) t

/-- A packet of a peer at its receiving core: the beats of a SEND flit (R25, R117). -/
def flitBeat (p : Nat) (f : Flit) (i : Nat) : Beat :=
  { src := f.opx.setWidth 64, dst := f.addr, data := f.payload.extractLsb' (512 * i) 512, nf := f.opx.getLsbD 64, peer := true, first := false,
    last := f.last && i + 1 == f.beats.toNat, ctx := f.ctx.toNat, port := p }

/-- The REFUSE that answers a flit (R25, R27). -/
def refusal (addr aux : BitVec 64) (ctx : BitVec 8) (op cause : Nat) : Flit :=
  { plainFlit 0 with addr := addr, aux := aux, op := 10, ctx := ctx, last := true, opx := BitVec.ofNat 128 (op + cause * 256) }

/-- The REFUSE of a SEND: bit 64 of OPX is the sender's NF, which the letter's header holds (R215; log 43). -/
def sendRefusal (receiver sender : BitVec 64) (ctx : BitVec 8) (cause : Nat) (nf : Bool) : Flit :=
  { refusal receiver sender ctx 4 cause with opx := BitVec.ofNat 128 (4 + cause * 256 + b2n nf * 2 ^ 64) }

end Sys2Proof.Claims

section
open Sys2Proof Sys2Proof.Machine Sys2Proof.Claims

/-- R18 to R20, R22 to R24: training, the loss of a link, sending, acknowledgement and replay. Rests on choices of the model: log entries 44, 89, 95. -/
def Obligations.LinkLayer : Prop := ∀ (s : State) (p c i : Nat) (lanes : BitVec 8) (en : Bool) (found : Option (BitVec 8)) (f g : Flit) (crc : BitVec 64) (bad : Bool) (n : Nat) (l : List Flit),
  let x := s.port p
  let up := x.st = 2 ∨ x.st = 3
  let may := x.en = true ∧ s.mgmt.devId ≠ none
  let turn := fun (n : Nat) => [1, 1, 1, 1, 2, 2, 2, 3].getD (n % 8) 1
  -- training
  (may → up → Gives (.portRetrain p) s (fun t => Lost s t p 1))
  ∧ (may → ¬ up → Gives (.portRetrain p) s (fun t => PortNow s t p (idlePort x 1)))
  ∧ (¬ may → exec (.portRetrain p) s = .next s)
  ∧ (up → Gives (.portEnableWrite p false) s (fun t => Lost s t p 0 ∧ (t.port p).en = false))
  ∧ (¬ up → Gives (.portEnableWrite p false) s (fun t => PortNow s t p (idlePort { x with en := false } 0)))
  ∧ (x.st ≠ 0 ∨ s.mgmt.devId = none → Gives (.portEnableWrite p true) s (fun t => PortNow s t p { x with en := true }))
  ∧ (x.st = 0 → s.mgmt.devId ≠ none → Gives (.portEnableWrite p true) s (fun t => PortNow s t p (idlePort { x with en := true } 1)))
  ∧ (up → Gives (.portLinkLoss p) s (fun t => Lost s t p 1))
  ∧ (¬ up → exec (.portLinkLoss p) s = .next s)
  ∧ (2 ≤ x.st ∨ ¬ may → exec (.portTrainingDone p found) s = .next s)
  ∧ (x.st < 2 → may → Gives (.portTrainingDone p none) s (fun t => PortNow s t p (idlePort x 0)))
  ∧ (x.st < 2 → may → lanes = 0xFF → Gives (.portTrainingDone p (some lanes)) s (fun t => UpPort s t p 2 false lanes))
  ∧ (x.st < 2 → may → lanes ≠ 0xFF → lanes &&& 0xF = 0xF → Gives (.portTrainingDone p (some lanes)) s (fun t => UpPort s t p 3 false lanes))
  ∧ (x.st < 2 → may → lanes &&& 0xF ≠ 0xF → lanes &&& 0xF0 = 0xF0 → Gives (.portTrainingDone p (some lanes)) s (fun t => UpPort s t p 3 true lanes))
  ∧ (x.st < 2 → may → lanes &&& 0xF ≠ 0xF → lanes &&& 0xF0 ≠ 0xF0 → Gives (.portTrainingDone p (some lanes)) s (fun t =>
      PortNow s t p { x with laneok := lanes, tries := x.tries + 1, st := if 3 ≤ x.tries + 1 then 4 else 1 }))
  -- sending
  ∧ (¬ up → exec (.txFlitSlot p) s = .next s)
  ∧ (up → x.needReplay = true → Gives (.txFlitSlot p) s (fun t => Leaves s t p (plainFlit 2) (fun x => { x with needReplay := false })))
  ∧ (up → x.needReplay = false → x.resend = g :: l → Gives (.txFlitSlot p) s (fun t => Leaves s t p g (fun x => { x with
      resend := l, cnt := tset 0 x.cnt 2 (tget 0 x.cnt 2 + 1) })))
  ∧ (up → x.needReplay = false → x.resend = [] → 1024 ≤ x.replay.length → Gives (.txFlitSlot p) s (fun t => Leaves s t p (plainFlit 0) id))
  ∧ (up → x.needReplay = false → x.resend = [] → (∀ c, ¬ Sends x c) → Gives (.txFlitSlot p) s (fun t => Leaves s t p (plainFlit 0) id))
  ∧ (up → x.needReplay = false → x.resend = [] → x.replay.length < 1024 → Sends x 0 → Gives (.txFlitSlot p) s (fun t => DataOut s t p 0 x.wrr))
  ∧ (up → x.needReplay = false → x.resend = [] → x.replay.length < 1024 → ¬ Sends x 0 → s.mgmt.weights = [4, 3, 1] → i < 8 →
      Sends x (turn (x.wrr + i)) → (∀ k, k < i → ¬ Sends x (turn (x.wrr + k))) →
      Gives (.txFlitSlot p) s (fun t => DataOut s t p (turn (x.wrr + i)) ((x.wrr + i + 1) % 8)))
  -- receiving
  ∧ (up → f.kind = 2 → Gives (.rxReplayRequest p f) s (fun t => PortNow s t p { acked f x with resend := (acked f x).replay }))
  ∧ (¬ up ∨ f.kind ≠ 2 → exec (.rxReplayRequest p f) s = .next s)
  ∧ (up → f.kind = 0 ∨ f.kind = 3 → Gives (.rxAckCredit p ⟨f, n⟩) s (fun t => PortNow s t p { acked f x with
      cnt := tset 0 x.cnt 0 (tget 0 x.cnt 0 + BitVec.ofNat 64 n) }))
  ∧ (¬ up ∨ (f.kind ≠ 0 ∧ f.kind ≠ 3) → exec (.rxAckCredit p ⟨f, n⟩) s = .next s)
  ∧ (up → bad = true → Gives (.rxFlitCrcFailure p f crc bad) s (fun t => PortNow s t p { x with
      cnt := tset 0 x.cnt 1 (tget 0 x.cnt 1 + 1), needReplay := true, discard := true }))
  ∧ (up → bad = false → crc ≠ flitCrc f → Gives (.rxFlitCrcFailure p f crc bad) s (fun t => PortNow s t p { x with
      needReplay := true, discard := true }))
  ∧ (¬ up ∨ (bad = false ∧ crc = flitCrc f) → exec (.rxFlitCrcFailure p f crc bad) s = .next s)
  -- data flits that are not acted on
  ∧ (∀ k r, RxStep s p f k r →
      (¬ up ∨ f.kind ≠ 1 → r = .next s)
      ∧ (up → f.kind = 1 → f.seq ≠ x.rxLast + 1 → ∃ t, r = .next t ∧ (PortNow s t p { x with needReplay := x.needReplay || !x.discard, discard := true }))
      ∧ (InOrder s p f → f.dst ≠ s.devId ∨ f.op.toNat ≠ k → r = .next ((received s p f).modPort p (fun x => { x with
          cnt := tset 0 x.cnt 3 (tget 0 x.cnt 3 + 1) }))))
  ∧ (InOrder s p f → f.dst ≠ s.devId ∨ f.op = 0 ∨ 10 < f.op.toNat → exec (.rxUnknownOrForeignFlit p f) s = .next ((received s p f).modPort p
      (fun x => { x with cnt := tset 0 x.cnt 3 (tget 0 x.cnt 3 + 1) })))
  ∧ (f.dst = s.devId → 1 ≤ f.op.toNat → f.op.toNat ≤ 10 → exec (.rxUnknownOrForeignFlit p f) s = .next s)

/-- R25, R27, R117, R166, R214, R304: what a device does on the flits of a peer. Rests on choices of the model: log entries 43, 45, 47, 48, 106. -/
def Obligations.PeerOperations : Prop := ∀ (s r1 r2 : State) (p pa : Nat) (pg : Page) (f : Flit) (bs : List Byte) (e : GpEntry) (t : Ty),
  let r := received s p f
  let go := InOrder s p f ∧ f.dst = s.devId
  let res := s.powered = true ∧ (s.ctx f.ctx.toNat).ctl.getLsbD 0 = true
  let ag : Agent := { q := 0, ctx := f.ctx.toNat, sup := false }
  let a := f.addr.toNat
  let aux := f.aux.toNat
  let x := f.opx.toNat
  let len := aux / 2 ^ 32
  let peer := f.src.toNat * 1024 + aux / 64 % 1024
  let heard := fun (s : State) => { s with peerArr := tset 0 s.peerArr peer (tget 0 s.peerArr peer + 1) }
  let bump := fun (s : State) (q n k : Nat) => s.modCore q (fun c => { c with
      cc := tset {} c.cc n { tget {} c.cc n with value := (tget {} c.cc n).value + BitVec.ofNat 32 k } })
  let put := (f.src.toNat, aux % 65536)
  -- a put is spoilt when one of its flits is; its last flit bumps a far counter only when none was
  let flitOver := fun (ok : Bool) (s : State) =>
    let bad := !ok || s.peerBad.contains put
    let clean := { s with peerBad := s.peerBad.filter (· != put) }
    if f.last = true then (if bad = false ∧ f.opx.getLsbD 63 = true then bump clean (x / 2 ^ 32 % 1024) (x % 64) (x / 2 ^ 16 % 65536) else clean)
    else if bad = true ∧ put ∉ s.peerBad then { s with peerBad := put :: s.peerBad } else s
  let reply := fun (s : State) (dst : BitVec 21) (g : Flit) => (sendFlit s dst g).1
  let faulted := fun (s : State) => s.modCore (aux / 64 % 1024) (fun c => { c with gp := c.gp.map (fun e =>
      if e.id == aux % 64 && e.kind == 1 && e.dev == f.src.toNat then { e with fault := some (e.fault.getD 0x05), st := .moved } else e) })
  let q := aux / 64 % 1024
  let off := x
  let m := min 192 (e.len - x)
  let aop := aux / 2 ^ 32 % 2 ^ 8
  let n := aopSize aop t
  let dead : Packet := { src := f.aux, dst := f.addr, beats := [], nf := f.opx.getLsbD 64, peer := false, ended := true, ctx := f.ctx.toNat }
  go →
  -- PUTDATA
  (f.op = 1 → res → PutHomes ag a (natToBytes (min 192 len) f.payload.toNat) (wordPieces a (min 192 len)) r r1 →
    exec (.rxPutdata p f) s = .next (flitOver true (heard r1)))
  -- GETREQ
  ∧ (f.op = 2 → res → FinJ (jReadHome ag a len) r bs r1 → (routeTo r1 f.src).isSome = true →
    exec (.rxGetreq p f) s = .next ((List.range ((len + 191) / 192)).foldl (fun s i => reply s f.src { plainFlit 0 with
      aux := f.aux &&& 0xFFFF
      op := 3
      tc := 1
      ctx := f.ctx
      beats := BitVec.ofNat 2 ((((bs.drop (192 * i)).take 192).length + 63) / 64)
      last := decide (192 * (i + 1) ≥ len)
      opx := BitVec.ofNat 128 (192 * i)
      payload := BitVec.ofNat 1536 (bytesToNat ((bs.drop (192 * i)).take 192)) }) r1))
  -- AMO
  ∧ (f.op = 5 → res → Ty.ofCode (aux / 2 ^ 40 % 2 ^ 8) = some t → n ≠ 0 → a % n = 0 → FinJ (jTranslate ag a .write) r (pa, pg) r1 →
    exec (.rxAmo p f) s = .next (heard (nmuDo (nmuAll r1 (stackOf pa)) pa pg.ctx pg.key pg.cls (.amo aop t x) false).1))
  ∧ (¬ res → (f.op = 1 → exec (.rxPutdata p f) s = .next (flitOver false (heard (reply r f.src (refusal 0 (f.aux &&& 0xFFFF) f.ctx 1 0)))))
    ∧ (f.op = 2 → exec (.rxGetreq p f) s = .next (reply r f.src (refusal 0 (f.aux &&& 0xFFFF) f.ctx 2 0)))
    ∧ (f.op = 5 → exec (.rxAmo p f) s = .next (heard (reply r f.src (refusal 0 (f.aux &&& 0xFFFF) f.ctx 5 0))))
    ∧ (f.op = 4 → (f.opx.setWidth 64, f.addr) ∉ (s.port p).refused → f.last = true →
        exec (.rxSend p f) s = .next (reply r (BitVec.ofNat 21 (x % 2 ^ 21)) (sendRefusal f.addr (f.opx.setWidth 64) f.ctx 0 (f.opx.getLsbD 64)))))
  -- GETDATA
  ∧ (f.op = 3 → (r.core q).gp.find? (fun e => e.id == aux % 64) = some e → e.kind = 1 → e.put = false → e.st = .started →
    exec (.rxGetdata p f) s = .next (let w := locWrite r (e.home q off) ((natToBytes m f.payload.toNat).map some)
      w.modCore q (fun c => { c with gp := c.gp.map (fun y => if y.id == aux % 64 then
        { y with prog := y.prog + m, st := if y.len ≤ y.prog + m then .moved else .started } else y) })))
  ∧ (f.op = 3 → (r.core q).gp.find? (fun e => e.id == aux % 64) = none → exec (.rxGetdata p f) s = .next r)
  -- SEND
  ∧ (f.op = 4 → res → (f.opx.setWidth 64, f.addr) ∉ (s.port p).refused →
    exec (.rxSend p f) s = .next ((List.range f.beats.toNat).foldl (fun s i => beatIn s (flitBeat p f i)) r))
  -- COUNT, RELQUERY, RELREPLY, MGMT
  ∧ (f.op = 6 → exec (.rxCount p f) s = .next (bump r (x % 1024) (aux % 64) (aux / 2 ^ 16 % 65536)))
  ∧ (f.op = 7 → exec (.rxRelquery p f) s = .next (reply r f.src { plainFlit 0 with
      aux := f.aux, op := 8, last := true, opx := BitVec.ofNat 128 (tget 0 s.peerArr (f.src.toNat * 1024 + aux / 2 ^ 16 % 65536)) }))
  ∧ (f.op = 8 →
    let q := aux / 2 ^ 16 % 65536
    let mine := fun (w : Nat × Nat × Nat) => w.1 == f.src.toNat && w.2.1 == aux % 65536
    let met := fun (w : Nat × Nat × Nat) => mine w && decide (w.2.2 ≤ x)
    let late := (∃ w ∈ (s.core q).relWait, mine w = true ∧ x < w.2.2)
      ∨ ∃ th, th / 4 = q ∧ (s.th th).relStage = 3 ∧ ∃ w ∈ (s.th th).sysWait, mine w = true ∧ x < w.2.2
    ∃ u : State, (late → exec (.rxRelreply p f) s = .next (relQuery u q (aux % 65536) f.src.toNat)) ∧ (¬ late → exec (.rxRelreply p f) s = .next u)
      ∧ (∀ c, (u.core c).relWait = if c = q then (s.core c).relWait.filter (fun w => !met w) else (s.core c).relWait)
      ∧ (∀ th, u.th th = if th / 4 = q ∧ (s.th th).relStage = 3 then { s.th th with sysWait := (s.th th).sysWait.filter (fun w => !met w) }
          else s.th th))
  ∧ (f.op = 9 → exec (.rxMgmt p f) s = .next { r with mgmt := { s.mgmt with tunnel := s.mgmt.tunnel ++ [f] } })
  -- REFUSE
  ∧ (f.op = 10 → (x % 256 = 1 ∨ x % 256 = 2 → exec (.rxRefuse p f) s = .next (faulted r))
    ∧ (x % 256 = 5 → exec (.rxRefuse p f) s = .next (r.modPort p (fun y => { y with cnt := tset 0 y.cnt 5 (tget 0 y.cnt 5 + 1) })))
    ∧ (x % 256 = 4 → exec (.rxRefuse p f) s = .next (deadLetter r (coreOf (threadOfAddr f.aux)) dead))
    ∧ (x % 256 ∉ [1, 2, 4, 5] → exec (.rxRefuse p f) s = .next r))

end

namespace Sys2Proof.Claims
open Sys2Proof.Machine

/-- Entry `n` of a core's get/put queue changed. -/
def onEntry (s : State) (q n : Nat) (f : GpEntry → GpEntry) : State :=
  s.modCore q (fun c => { c with gp := c.gp.map (fun e => if e.id == n then f e else e) })

/-- A die's clock copy has reached a time (R125). -/
def Due (s : State) (q launch : Nat) : Prop := launch ≤ (s.dieClock (q / 256)).toNat

/-- R113, R125: the entry starts next, in the order of placing among those whose time has come, or one that has started goes on. -/
def Runs (s : State) (q n : Nat) (e : GpEntry) : Prop :=
  (e.st = .placed ∧ Due s q e.launch ∧ ∀ x ∈ (s.core q).gp.takeWhile (fun x => x.id != n), x.st ≠ .placed ∨ ¬ Due s q x.launch)
    ∨ (e.st = .started ∧ ¬ (e.kind = 1 ∧ e.put = false ∧ e.fault = none))

/-- One piece of an entry between local and device memory moves (R113): a get's read is nc, a put's write goes into the Chute. -/
def Piece (q : Nat) (e : GpEntry) (v m : Nat) (s t : State) : Prop :=
  let ag : Agent := { q := q, ctx := e.ctx, sup := e.sup, gp := e.id }
  let k := e.home q (v - e.far)
  ∃ u, (if e.put then FinJ (jWrite ag v (locRead s k m)) s ⟨⟩ u else ∃ bs w, FinJ (jRead ag v m) s bs w ∧ u = locWrite w k (bs.map some))
    ∧ t = onEntry u q e.id (fun e => { e with prog := e.prog + m })
/-- An entry goes on to the piece at `v` within one step: between two pieces it may stop, by choice (R179). -/
def GoesTo (e : GpEntry) (v : Nat) (s : State) : Prop := v = e.far + e.prog ∨ s.choices = []
/-- Pieces move one after another. -/
def Pieces (q : Nat) (e : GpEntry) : List (Nat × Nat) → State → State → Prop
  | [], s, t => t = s
  | (v, m) :: l, s, t => GoesTo e v s ∧ ∃ u, Piece q e v m s u ∧ Pieces q e l u t
/-- A piece's access stops. -/
def PieceStops (q : Nat) (e : GpEntry) (v m : Nat) (s u : State) (x : JobStop) : Prop :=
  let ag : Agent := { q := q, ctx := e.ctx, sup := e.sup, gp := e.id }
  if e.put then (jWrite ag v (locRead s (e.home q (v - e.far)) m)).run s = (.error x, u) else (jRead ag v m).run s = (.error x, u)

/-- The flit of a put's piece to a peer (R25). -/
def putFlit (s : State) (q : Nat) (e : GpEntry) (off : Nat) : Flit :=
  let m := min 192 (e.len - off)
  let end_ := off + m == e.len
  { plainFlit 0 with
    addr := BitVec.ofNat 64 (e.far + off)
    aux := BitVec.ofNat 64 (q * 64 + e.id + m * 2 ^ 32)
    op := 1
    tc := if e.bulk then 3 else 2
    ctx := BitVec.ofNat 8 e.ctx
    beats := BitVec.ofNat 2 ((m + 63) / 64)
    last := end_
    opx := if end_ && e.fen then BitVec.ofNat 128 (2 ^ 63 + e.fq * 2 ^ 32 + e.finc * 2 ^ 16 + e.fcc) else 0
    payload := BitVec.ofNat 1536 (bytesToNat (locRead s (e.home q off) m)) }
/-- The peer has a place in the core's round (R166). -/
def peerJoined (s : State) (q dev : Nat) : State :=
  if dev ∈ (s.core q).cur.peers then s else s.modCore q (fun c => { c with cur := { c.cur with peers := c.cur.peers ++ [dev] } })

/-- A fault record is written (R177, R178): the record at the fault queue's tail, the tail and the notify counter moved, and the TOKEN. -/
def Recorded (s t : State) (d cl c unit entry ctx : Nat) (p : Park) (tok : Nat) : Prop :=
  let x := s.die d
  let f := x.fqcfg.toNat
  let size := 2 ^ (f / 2 ^ 32 % 16 + 6)
  tok = x.fqSeq % 4096 * 2 ^ 20 + cl * 2 ^ 15 + c * 2 ^ 12 + unit * 2 ^ 9 + entry % 512
    ∧ t = (let y := locWrite s (2 ^ 32 + d * 2 ^ 24 + f / 2 ^ 5 % 2 ^ 19 * 32 + x.fqTail.toNat % size * 32)
            ((natToBytes 8 p.va ++ natToBytes 4 tok
              ++ natToBytes 4 (p.cause + p.info % 256 * 2 ^ 8 + (if p.write then 2 ^ 16 else 0) + ctx * 2 ^ 24) ++ natToBytes 8 s.clock ++ natToBytes 8 0).map some)
          let y := y.modDie d (fun x => { x with fqTail := x.fqTail + 1, fqSeq := x.fqSeq + 1 })
          if x.fqcfg.getLsbD 62 then y.modCore (d * 256 + f / 2 ^ 54 % 256) (fun k => { k with
            cc := tset {} k.cc (f / 2 ^ 48 % 64) { tget {} k.cc (f / 2 ^ 48 % 64) with value := (tget {} k.cc (f / 2 ^ 48 % 64)).value + 1 } }) else y)
/-- The fault queue is enabled, and has room (R177). -/
def QueueOn (s : State) (d : Nat) : Prop := (s.die d).fqcfg.getLsbD 63 = true
def QueueRoom (s : State) (d : Nat) : Prop :=
  ((s.die d).fqTail - (s.die d).fqHead).toNat < 2 ^ ((s.die d).fqcfg.toNat / 2 ^ 32 % 16 + 6)

/-- A thread is parked under a TOKEN. -/
def Under (tok : Nat) (p : Option Park) : Prop := ∃ k, p = some k ∧ k.token = some tok

/-- R110, R111: what a fill's end does to its tile. -/
def filled (flt : Bool) (x : Tile) : Tile :=
  let f := x.flt || flt
  if x.pend ≤ 1 then { x with pend := 0, flt := f, st := if f then 0 else 2 } else { x with pend := x.pend - 1, flt := f }

/-- Packet `n` of a core is whole, and no earlier packet of its sender for its slot waits (R118). -/
def PlaceNext (s : State) (q n : Nat) (p : Packet) : Prop :=
  (s.core q).asm[n]? = some p ∧ p.ended = true ∧ ∀ x ∈ (s.core q).asm.take n, ¬ (x.src = p.src ∧ x.dst = p.dst)
/-- The live thread in its slot that a thread address names (R97). -/
def InSlot (s : State) (a : Word) (th : Nat) : Prop :=
  th = (a.toNat / 2 ^ 21 % 4 * 256 + a.toNat / 2 ^ 23 % 32 * 8 + a.toNat / 2 ^ 28 % 8) * 4 + a.toNat / 2 ^ 31 % 4
    ∧ (s.th th).st ∈ [ThState.running, .stopping, .stopped] ∧ (s.th th).gen = a.extractLsb' 33 16

/-- R121, R122: the rectangle of a core's wire group, its corner, and the wire of each core. -/
def rectOf (g : Word) : Nat := g.toNat % 65536
def wireXY (d x y : Nat) : Nat := d * 256 + (y / 2 * 4 + x / 4) * 8 + y % 2 * 4 + x % 4
def groupCores (s : State) (q : Nat) : List Nat :=
  let g := (s.core q).wiregrp.toNat
  ((List.range (g / 2 ^ 12 % 16 + 1)).map (fun j => (List.range (g / 2 ^ 8 % 16 + 1)).map (fun i =>
    wireXY (q / 256) (g % 16 + i) (g / 16 % 16 + j)))).flatten
def Raised (s : State) (q : Nat) : Prop :=
  let sl := (s.core q).wiregrp.toNat / 2 ^ 16 % 16
  sl ≠ 0 ∧ ∀ k, k < 4 → sl / 2 ^ k % 2 = 1 → ∃ w, (s.th (q * 4 + k)).wire = some w ∧ w.result = none
def Complete (s : State) (q : Nat) : Prop :=
  q = wireXY (q / 256) ((s.core q).wiregrp.toNat % 16) ((s.core q).wiregrp.toNat / 16 % 16)
    ∧ ∀ k ∈ groupCores s q, rectOf (s.core k).wiregrp = rectOf (s.core q).wiregrp ∧ Raised s k
/-- A waiting arrival gets its result. -/
def answered (r : Nat) (t : Thread) : Thread := { t with wire := t.wire.map (fun w => if w.result = none then { w with result := some r } else w) }

end Sys2Proof.Claims

section
open Sys2Proof Sys2Proof.Machine Sys2Proof.Claims

/-- R111 to R115, R125, R177, R178: the entries of the get/put queue, and replay and abort. -/
def Sys2Proof.Claims.transferEntries : Prop := ∀ (s t u : State) (q n : Nat) (e : GpEntry) (v m : Nat) (l1 l2 : List (Nat × Nat)) (x : JobStop),
  let c := s.core q
  let d := q / 256
  let at_ := c.gp.find? (fun x => x.id == n)
  let s0 := onEntry s q n (fun e => { e with st := .started })
  let fresh := Runs s q n e ∧ e.fault = none ∧ e.park = none
  let ovr := fun (s : State) (f : Option Nat) => onEntry s q n (fun e => { e with st := .moved, fault := f.orElse (fun _ => e.fault) })
  let ps := (if e.put then outPieces else wordPieces) (e.far + e.prog) (e.len - e.prog)
  let start := exec (.getputEntryStart q n) s
  let fq := q / 256 * 256 + e.far / 2 ^ 19 % 2 ^ 8
  let fo := e.far % 2 ^ 19
  let farOk := fo + e.len ≤ scratch s0 fq ∧ loftAllowed s0 fq e.ctx e.sup fo e.len = true
  let src := locRead s0 (e.home q 0) e.len
  let cc := fun (s : State) (q k : Nat) (f : Counter → Counter) => s.modCore q (fun c => { c with cc := tset {} c.cc k (f (tget {} c.cc k)) })
  let add := fun (k : Nat) (y : Counter) => { y with value := y.value + BitVec.ofNat 32 k }
  let done := cc s q e.lcc (fun y => { add e.linc y with flt := y.flt || e.fault.isSome, cause := if y.flt then y.cause else e.fault.getD y.cause })
  let out := e.kind = 1 ∧ e.put = true ∧ e.fault = none ∧ flitsOut s q n = true
  let waits := peerWaits s0 q
  let later := e.put = true ∧ e.kind = 2 ∧ e.fault = none ∧ (e.fen = true ∨ e.buf ≠ [])
  (at_ = none → start = .next s ∧ exec (.getputEntryComplete q n) s = .next s ∧ exec (.farCounterBump q n) s = .next s
    ∧ (n < 64 → exec (.timedLaunch q n) s = .next s))
  ∧ (at_ = some e →
    -- who runs
    (¬ Runs s q n e → start = .next s)
    ∧ (Runs s q n e → e.fault ≠ none → start = .next ((ovr s none).modCore q (fun c => { c with
        stalled := c.stalled.filter (fun x => x.1 != 4096 + n) })))
    ∧ (∀ p k, Runs s q n e → e.fault = none → e.park = some p → p.token = some k → start = .next s)
    ∧ (∀ p, Runs s q n e → e.fault = none → e.park = some p → p.token = none → QueueOn s d →
        (¬ QueueRoom s d ∨ recordWaits s d p.ord = true) → start = .next s0)
    -- device memory
    ∧ (fresh → e.kind = 0 → Pieces q e ps s0 t → start = .next (ovr t none))
    ∧ (fresh → e.kind = 0 → ps = l1 ++ (v, m) :: l2 → Pieces q e l1 s0 t → GoesTo e v t → PieceStops q e v m t u x →
        (x = .stall → start = .next u)
        ∧ (∀ k i, x = .fail k i → start = .next (ovr u (some k)))
        ∧ (∀ a k i w, x = .park a k i w → ∃ y p, newPark u q e.ctx a k i w = (y, p) ∧ p.va = a ∧ p.cause = k ∧ p.info = i ∧ p.write = w
            ∧ p.token = none ∧ p.ord = (u.die d).faults ∧ y = u.modDie d (fun z => { z with faults := z.faults + 1 })
            ∧ (¬ QueueOn y d → start = .next (ovr y (some k)))
            ∧ (QueueOn y d → QueueRoom y d → recordWaits y d p.ord = false → Gives (.getputEntryStart q n) s (fun t => ∃ r tok,
                Recorded y r d (q / 8 % 32) (q % 8) 0 n e.ctx p tok
                ∧ t = onEntry r q n (fun e => { e with st := .started, park := some { p with token := some tok } })))))
    -- a peer
    ∧ (fresh → e.kind = 1 → e.put = true → (e.dev ∈ c.cur.peers ∨ (c.relWait = [] ∧ c.cur.peers.length < 64)) → (routeTo s0 (BitVec.ofNat 21 e.dev)).isSome = true →
        start = .next (ovr ((List.range ((e.len - e.prog + 191) / 192)).foldl (fun y i => onEntry
          (notePeer (sendFlit y (BitVec.ofNat 21 e.dev) (putFlit y q e (e.prog + 192 * i))).1 e.dev q) q n
          (fun z => { z with prog := z.prog + min 192 (e.len - (e.prog + 192 * i)) })) (peerJoined s0 q e.dev)) none))
    ∧ (fresh → e.kind = 1 → e.put = true → e.dev ∉ c.cur.peers → c.relWait ≠ [] → start = .next s0)
    ∧ (fresh → e.kind = 1 → e.put = true → e.dev ∉ c.cur.peers → c.relWait = [] → 64 ≤ c.cur.peers.length → start = .next
        ((waits.foldl (fun y w => relQuery y q w.2.1 w.1) (closeRound s0 q)).modCore q (fun c => { c with relWait := waits })))
    ∧ (fresh → e.kind = 1 → e.put = false → (routeTo s0 (BitVec.ofNat 21 e.dev)).isSome = true →
        start = .next (onEntry (sendFlit s0 (BitVec.ofNat 21 e.dev) { plainFlit 0 with
          addr := BitVec.ofNat 64 e.far, aux := BitVec.ofNat 64 (q * 64 + n + e.len * 2 ^ 32), op := 2, tc := 1, ctx := BitVec.ofNat 8 e.ctx
          last := true }).1 q n (fun e => { e with st := .started })))
    ∧ (fresh → e.kind = 1 → e.put = false → (routeTo s0 (BitVec.ofNat 21 e.dev)).isSome = false → start = .next (ovr s0 (some 0x05)))
    -- another core's Loft
    ∧ (fresh → e.kind = 2 → e.put = true → s.choices = [] → farOk → start = .next (onEntry (locWrite s0 (fq * 2 ^ 19 + fo) (src.map some)) q n
        (fun e => { e with st := .moved, buf := [] })))
    ∧ (fresh → e.kind = 2 → e.put = false → farOk →
        start = .next (ovr (locWrite s0 (e.home q 0) ((locRead s0 (fq * 2 ^ 19 + fo) e.len).map some)) none))
    ∧ (fresh → e.kind = 2 → scratch s0 fq < fo + e.len → start = .next (ovr s0 (some 0x05)))
    -- completion
    ∧ (e.st ≠ .moved ∨ out → exec (.getputEntryComplete q n) s = .next s)
    ∧ (e.st = .moved → ¬ out → Gives (.getputEntryComplete q n) s (fun t => (t.core q).cc = (done.core q).cc
        ∧ (t.core q).gp = (if later then c.gp.map (fun y => if y.id == n then { y with st := .bump } else y) else c.gp.filter (fun y => y.id != n))
        ∧ (∀ j, tget {} (t.core q).tiles j = if e.tile = some j then
            (if e.put then { tget {} c.tiles j with st := if (tget {} c.tiles j).keep then 2 else 0 } else filled e.fault.isSome (tget {} c.tiles j))
            else tget {} c.tiles j)
        ∧ t.loc = s.loc ∧ t.dram = s.dram ∧ t.threads = s.threads ∧ ∀ k, k ≠ q → t.core k = s.core k))
    ∧ (later → e.st = .bump → exec (.farCounterBump q n) s = .next ((let w := locWrite s (fq * 2 ^ 19 + fo) (e.buf.map some)
        if e.fen then cc w fq e.fcc (add e.finc) else w).modCore q (fun c => { c with gp := c.gp.filter (fun y => y.id != n) })))
    ∧ (later → e.st = .moved → exec (.farCounterBump q n) s = .next (onEntry (let w := locWrite s (fq * 2 ^ 19 + fo) (e.buf.map some)
        if e.fen then cc w fq e.fcc (add e.finc) else w) q n (fun e => { e with fen := false, buf := [] })))
    ∧ (¬ later ∨ (e.st ≠ .moved ∧ e.st ≠ .bump) → exec (.farCounterBump q n) s = .next s)
    -- launch times
    ∧ (n < 64 → e.launch ≠ 0 → Due s q e.launch → exec (.timedLaunch q n) s = .next (onEntry s q n (fun e => { e with launch := 0 })))
    ∧ (n < 64 → e.launch = 0 ∨ ¬ Due s q e.launch → exec (.timedLaunch q n) s = .next s))
  ∧ (64 ≤ n → exec (.timedLaunch q n) s = .next (s.modTh (q * 4 + (n - 64) % 4) (fun t => { t with waits := false })))

/-- R178: replay and abort of parked entries and jobs by their TOKEN. -/
def Sys2Proof.Claims.faultCommands : Prop := ∀ (s : State) (d cl : Nat) (tok : BitVec 32) (j : Job),
  let none_ := ∀ k, k < 32 → ∀ j ∈ (s.clus (d * 32 + k)).jobs, ¬ Under tok.toNat j.park
  let entry := fun (abort : Bool) (e : GpEntry) (f : GpEntry) =>
    (Under tok.toNat e.park → f = { e with park := none, fault := if abort then e.park.map (·.cause) else none }) ∧ (¬ Under tok.toNat e.park → f = e)
  (none_ → ∀ abort, Gives (if abort then .fqcmdAbort d tok else .fqcmdReplay d tok) s (fun t => t = { s with cores := t.cores }
    ∧ ∀ q, (t.core q).gp.length = (s.core q).gp.length ∧ ∀ (i : Nat) (e : GpEntry), (s.core q).gp[i]? = some e →
        ∃ f : GpEntry, (t.core q).gp[i]? = some f ∧ if q / 256 = d then entry abort e f else f = e))
  ∧ (cl / 32 = d → j ∈ (s.clus cl).jobs → Under tok.toNat j.park → (∀ i ∈ (s.clus cl).jobs, Under tok.toNat i.park → i = j) →
      (∀ k, k < 32 → d * 32 + k ≠ cl → ∀ i ∈ (s.clus (d * 32 + k)).jobs, ¬ Under tok.toNat i.park) →
      exec (.fqcmdReplay d tok) s = .next (s.modClus cl (fun x => { x with
        jobs := x.jobs.map (fun i => if i.unit == j.unit && i.seq == j.seq then { i with park := none } else i) }))
      ∧ ((s.clus cl).jobs.find? (fun i => i.unit == j.unit && i.seq == j.seq) = some j → j.result = none → (j.kind = .copy → j.tileD = none) →
          exec (.fqcmdAbort d tok) s = .next ((s.modClus cl (fun x => { x with
            jobs := x.jobs.map (fun i => if i.unit == j.unit && i.seq == j.seq then
              { i with got := [], gotAt := 0, st := .ended, park := none, result := some { state := 2, cause := (j.park.map (·.cause)).getD 0 } }
              else i) })).modCore (j.th / 4) (fun c => { c with stalled := c.stalled.filter (fun x => x.1 != 8192 + j.seq * 4 + j.unit) }))))

/-- R111 to R115, R125, R177, R178: the entries of the get/put queue, and replay and abort. Rests on choices of the model: log entries 25, 30, 83, 89, 106. -/
def Obligations.TransferCompletion : Prop := Claims.transferEntries ∧ Claims.faultCommands

/-- R105, R117, R118, R120, R122, R123, R213, R214, R318: packets, barriers, wires, special-function results, clock waits and LOFTSPLIT. Rests on choices of the model: log entries 23, 50, 86, 87, 89. -/
def Obligations.Arrivals : Prop := ∀ (s : State) (n q th : Nat) (b : Beat) (p : Packet) (r : BarReq),
  let t := s.th th
  let size := t.rxsize.toNat % 2 ^ 20
  let need := 64 * (1 + p.beats.length)
  let used := (t.rxtail.toNat + 2 ^ 32 - t.rxhead.toNat) % 2 ^ 32
  let spilled := (s.node t.node).preempted = true ∧ q ∈ (s.node t.node).imaged
  let off := t.rxtail.toNat % size
  let head := natToBytes 8 p.src.toNat ++ [BitVec.ofNat 8 p.beats.length, BitVec.ofNat 8 ((if p.nf then 1 else 0) + if p.peer then 2 else 0)]
    ++ List.replicate 6 0 ++ natToBytes 8 (s.dieClock (q / 256)).toNat ++ List.replicate 40 0
  let msg := head ++ (p.beats.map (fun v => natToBytes 64 v.toNat)).flatten
  let dst := threadOfAddr b.dst / 4
  let asm := (s.core dst).asm
  let known := asm.any (fun k => k.src == b.src && !k.ended)
  let more := fun (l : List Packet) => l.map (fun k => if k.src == b.src && !k.ended then { k with beats := k.beats ++ [b.data], ended := b.last } else k)
  let first : Packet :=
    { src := b.src, dst := b.dst, beats := [b.data], nf := b.nf, peer := b.peer, ended := b.last, ctx := b.ctx, port := b.port }
  let x := tget {} (s.core (th / 1024 * 256 + r.b / 1024 % 256)).bars (r.b % 1024)
  let reply := fun (a : Option Nat) (s : State) => s.modTh th (fun t => { t with bar := some { r with reply := some a } })
  let bar := fun (x : Barrier) => s.modCore (th / 1024 * 256 + r.b / 1024 % 256) (fun c => { c with bars := tset {} c.bars (r.b % 1024) x })
  let c := s.core q
  -- beats
  (s.beats[n]? = none → exec (.packetBeatReceive n) s = .next s)
  ∧ (s.beats[n]? = some b → (∃ y ∈ s.beats.take n, y.src = b.src) → exec (.packetBeatReceive n) s = .next s)
  ∧ (s.beats[n]? = some b → (∀ y ∈ s.beats.take n, y.src ≠ b.src) → genLive s b.dst = true →
      (∀ k ∈ asm, k.src = b.src → k.dead = false) →
      exec (.packetBeatReceive n) s = .next ({ s with beats := s.beats.eraseIdx n }.modCore dst (fun c => { c with asm := if known then more c.asm else c.asm ++ [first] })))
  -- placing
  ∧ (∀ i ∈ [Instr.packetPlace q n, .heldPacketRetry q n], PlaceNext s q n p → p.held = true → InSlot s p.dst th →
      (size ≠ 0 → need ≤ size - used → ¬ spilled → Gives i s (fun u => (u.core q).asm = c.asm.eraseIdx n
        ∧ (∀ i, i < need → ¬ reservedByte s (q * 2 ^ 19 + t.rxbase.toNat % 2 ^ 19 + (off + i) % size) → need ≤ size → off % 64 = 0 → size % 64 = 0 →
            locRead u (q * 2 ^ 19 + t.rxbase.toNat % 2 ^ 19 + (off + i) % size) 1 = [msg.getD i 0])
        ∧ u.th th = { t with rxtail := BitVec.ofNat 64 ((t.rxtail.toNat + need) % 2 ^ 32) } ∧ (∀ k, k ≠ th → u.th k = s.th k) ∧ u.dram = s.dram))
      ∧ ((size = 0 ∨ size < need ∨ size - used < need ∨ spilled) → exec i s = .next (s.modCore q (fun c => { c with asm := c.asm.set n { p with held := true } }))))
  ∧ (PlaceNext s q n p → mailbox s p.dst = none → loading s p.dst = true →
      exec (.packetPlace q n) s = .next (s.modCore q (fun c => { c with asm := c.asm.set n { p with held := true } })))
  ∧ (c.asm[n]? = some p → p.held = false → exec (.heldPacketRetry q n) s = .next s)
  ∧ (c.asm[n]? = none → exec (.heldPacketRetry q n) s = .next s ∧ exec (.packetPlace q n) s = .next s)
  ∧ (c.asm[n]? = some p → p.ended = false → exec (.packetPlace q n) s = .next s)
  ∧ (PlaceNext s q n p → genLive s p.dst = false → p.peer = true →
      exec (.packetPlace q n) s = .next (sendFlit (s.modCore q (fun c => { c with asm := c.asm.eraseIdx n })) (BitVec.ofNat 21 (p.src.toNat % 2 ^ 21))
        (sendRefusal p.dst p.src (BitVec.ofNat 8 p.ctx) 1 p.nf)).1)
  -- barriers
  ∧ (t.bar = none ∨ (∃ r, t.bar = some r ∧ r.reply ≠ none) → exec (.barrierArrivalAtHome th) s = .next s)
  ∧ (t.bar = some r → r.reply = none → r.op = 0 → exec (.barrierArrivalAtHome th) s = .next (
      if x.arr = 0 ∧ 1 ≤ r.count ∧ r.count ≤ 1024 then reply (some 0) (bar { x with count := r.count, ctx := t.ctx, arr := 0 }) else reply none s))
  ∧ (t.bar = some r → r.reply = none → r.op ≠ 0 → exec (.barrierArrivalAtHome th) s = .next (
      if x.count ≠ 0 ∧ x.ctx = t.ctx then reply (some (if x.gen then 1 else 0))
        (if x.arr + 1 = x.count then barRelease (bar { x with gen := !x.gen, arr := 0 }) (th / 1024 * 256 + r.b / 1024 % 256) (r.b % 1024) x.gen
          else bar { x with arr := x.arr + 1 }) else reply none s))
  ∧ (∀ home id gen k, let past := fun (t : Thread) => { t with
        barWait := t.barWait.map (fun w => if w.q = home ∧ w.id = id ∧ w.tok = gen then { w with done := true } else w) }
      (barRelease s home id gen).th k = past (s.th k))
  -- wires
  ∧ (Complete s q → Gives (.wireCornerCompletion q) s (fun u => (∀ k, u.th k = if k / 4 ∈ groupCores s q then answered 1 (s.th k) else s.th k)
      ∧ u = { s with threads := u.threads }))
  ∧ (¬ Complete s q → exec (.wireCornerCompletion q) s = .next s)
  ∧ (∀ w, t.wire = some w → w.result = none → (s.core (th / 4)).wiretmo ≠ 0 → w.since + (s.core (th / 4)).wiretmo.toNat ≤ s.clock →
      ¬ Complete s (wireXY (th / 1024) ((s.core (th / 4)).wiregrp.toNat % 16) ((s.core (th / 4)).wiregrp.toNat / 16 % 16)) →
      exec (.wireTimeout th) s = .next (s.modTh th (answered 0)))
  ∧ ((∀ w, t.wire = some w → w.result = none → (s.core (th / 4)).wiretmo = 0 ∨ s.clock < w.since + (s.core (th / 4)).wiretmo.toNat) →
      exec (.wireTimeout th) s = .next s)
  -- results, clock waits, LOFTSPLIT
  ∧ ((s.clus q).sfu = [] → exec (.sfuResult q) s = .next s)
  ∧ (∀ vd v l, (s.clus q).sfu = (th, vd, v) :: l → t.st = .running → vd < 32 → Gives (.sfuResult q) s (fun u =>
      u.th th = t.wv (BitVec.ofNat 5 vd) v ∧ (u.clus q).sfu = l ∧ ∀ k, k ≠ th → u.th k = s.th k))
  ∧ (t.clkWait = none → exec (.clockWaitEnd th) s = .next s)
  ∧ (∀ v, t.clkWait = some v → (s.dieClock (th / 1024)).toNat < v.toNat → exec (.clockWaitEnd th) s = .next s)
  ∧ (∀ v, t.clkWait = some v → v.toNat ≤ (s.dieClock (th / 1024)).toNat → t.slot = .plain → Gives (.clockWaitEnd th) s (fun u =>
      (u.th th).pc = t.pc + 8 ∧ (u.th th).clkWait = none ∧ (u.th th).waits = false ∧ u.cur = s.cur ∧ u.blocked = s.blocked
      ∧ ∀ k, k ≠ th → u.th k = s.th k))
  ∧ ((∀ k, k < 4 → (s.th (q * 4 + k)).st ∉ [ThState.running, .stopping, .stopped]) → (∀ e ∈ s.nodes, ∀ x ∈ e.2.place ++ e.2.chosen.getD [], x.q ≠ q) →
      c.l1 = [] → Gives (.loftsplitApply q) s (fun u => u.core q = { c with loftCur := c.loftReq } ∧ ∀ k, k ≠ q → u.core k = s.core k))
  ∧ ((∃ k, k < 4 ∧ (s.th (q * 4 + k)).st = .running) → exec (.loftsplitApply q) s = .next s)

end

namespace Sys2Proof.Claims
open Sys2Proof.Machine

/-- A node has ended (R73). -/
def Over (n : Node) : Prop := n.st = .done ∨ n.st = .faulted ∨ n.st = .cancelled
/-- A node is known to the ready pool. -/
def Known (s : State) (id : Nat) : Prop := ∃ e ∈ s.nodes, e.1 = id
/-- An id older than the last 65,536 of its context (R58). -/
def Old (s : State) (p : Nat) : Prop := p % 2 ^ 40 + 65536 ≤ (s.ctx (p / 2 ^ 40 % 256)).count
/-- R74: a predecessor has ended. -/
def PredDone (s : State) (p : Nat) : Prop := Old s p ∨ ¬ Known s p ∨ Over (s.node p)
/-- A predecessor has ended FAULTED or CANCELLED. -/
def PredBad (s : State) (p : Nat) : Prop := ¬ Old s p ∧ Known s p ∧ ((s.node p).st = .faulted ∨ (s.node p).st = .cancelled)
/-- The 16 bytes of R60. -/
def endRecord (id st cause clock : Nat) : List Byte :=
  natToBytes 8 (st * 2 ^ 56 + cause % 256 * 2 ^ 48 + id % 2 ^ 48) ++ natToBytes 8 clock
/-- The completion record stands in host memory unless its address is 0 (R60). -/
def Told (s t : State) (id st cause clock : Nat) : Prop :=
  let a := (s.node id).lrec.done.toNat
  if a = 0 then t.host.mem = s.host.mem else (List.range 16).map (fun i => tget 0 t.host.mem (a + i)) = endRecord id st cause clock
/-- A node ends (R60, R73, R389): its state, its completion record, and the handles that name it. -/
def EndsNode (s t : State) (id : Nat) (st : NodeState) (cause code : Nat) : Prop :=
  (t.node id).st = st ∧ (t.node id).cause = cause ∧ (t.node id).endedAt = s.clock
    ∧ (∀ j, j ≠ id → (t.node j).st = (s.node j).st)
    ∧ (∀ th r, (t.th th).rh r = if (s.th th).rh r = .node id then .settled { state := code, cause := cause, node := true } else (s.th th).rh r)
    ∧ ((s.node id).spawned = false → Told s t id (code + 3) cause s.clock)

/-- aged(n) of R84. -/
def aged (s : State) (id : Nat) : Nat :=
  let n := s.node id
  let c := (s.ctx (id / 2 ^ 40 % 256)).ctl.toNat
  let ceil := c / 2 ^ 8 % 64
  let int := c / 2 ^ 16 % 2 ^ 16
  let clk := n.readyClk + (if n.st = .ready then s.clock - n.readyAt else 0)
  if int = 0 ∨ ceil < n.prio then n.prio else min ceil (n.prio + clk / (int * 1024))
/-- The waiters of a node (R84). -/
def WaitsFor (s : State) (id w : Nat) : Prop :=
  (∃ n, (w, n) ∈ s.nodes ∧ n.st = .waiting ∧ id ∈ n.lrec.pred)
    ∨ (∃ e ∈ s.threads, e.2.st ∈ [ThState.running, .stopping, .stopped] ∧ e.2.waitOn = some id ∧ e.2.node = w)
    ∨ ∃ n, (w, n) ∈ s.nodes ∧ ∃ k ∈ n.kept, k.2.waitOn = some id
/-- EP(n) of a node without waiters. -/
def ownEp (s : State) (id : Nat) : Nat := max (s.node id).prio (aged s id)

/-- The ring of R80. -/
def ringOrder : List Nat :=
  [0, 4, 8, 12, 16, 20, 24, 28, 29, 30, 31, 27, 26, 25, 21, 22, 23, 19, 18, 17, 13, 14, 15, 11, 10, 9, 5, 6, 7, 3, 2, 1]
/-- The cluster `i` places behind `k` in the ring. -/
def behind (k i : Nat) : Nat := ringOrder.getD ((ringOrder.idxOf k + i) % 32) 0
/-- COUNT of a domain (R79). -/
def domCount (l : Launch) (dom : Nat) : Nat := match l.levels.find? (fun x => x.domain == dom) with | some x => x.count | none => 1
/-- The cluster instances of a node (R79). -/
def instances (n : Node) : List Nat :=
  ((List.range (domCount n.lrec 3)).map (fun j => (List.range (domCount n.lrec 2)).map (fun i => (n.die + j) % 4 * 32 + behind n.k i))).flatten
/-- A slot that node `id` cannot have: a crew holds it (R79), or its stopped thread cannot be displaced, since another crew of that thread's
context has its image on the core (R87). -/
def SlotHeld (s : State) (id q k : Nat) : Prop :=
  let t := s.th (q * 4 + k)
  let live := t.st ∈ [ThState.running, .stopping, .stopped]
  (∃ e ∈ s.nodes, ∃ sh ∈ e.2.place, sh.q = q ∧ k ∈ sh.slots ∧ (e.2.st = .dispatched ∨ (e.2.st = .running ∧ t.node = e.1 ∧ live)))
  ∨ (live ∧ t.node ≠ id ∧ ∃ e ∈ s.nodes, e.1 ≠ t.node ∧ e.1 ≠ id ∧ e.1 / 2 ^ 40 % 256 = t.ctx ∧ (q ∈ e.2.spill ∨ ∃ x ∈ e.2.kept, x.1 / 4 = q))
/-- A Loft range that no crew holds and that lies below CTXBASE (R79). -/
def RangeFree (s : State) (q o n : Nat) : Prop := o + n ≤ ctxBase s q ∧ ∀ e ∈ s.nodes, ∀ sh ∈ e.2.place, sh.q = q → sh.size ≠ 0 →
  e.2.st = .dispatched ∨ e.2.st = .running ∨ (e.2.st = .ready ∧ e.2.preempted = true ∧ q ∉ e.2.spill) → o + n ≤ sh.base ∨ sh.base + sh.size ≤ o
/-- A core can take a crew's share: these slots and this range (R79, R105). -/
def Takes (s : State) (id : Nat) (l : Launch) (sh : Share) : Prop :=
  (s.core sh.q).loftReq = (s.core sh.q).loftCur
    ∧ sh.slots.length = l.threads + 1 ∧ sh.slots.Pairwise (· < ·) ∧ (∀ k ∈ sh.slots, k < 4 ∧ ¬ SlotHeld s id sh.q k)
    ∧ (∀ k ∈ sh.slots, ∀ i, i < k → ¬ SlotHeld s id sh.q i → i ∈ sh.slots)
    ∧ sh.size = l.loft * 4096 ∧ (if sh.size = 0 then sh.base = 0 else RangeFree s sh.q sh.base sh.size ∧ ∀ o, o < sh.base → ¬ RangeFree s sh.q o sh.size)
/-- The shares of a cluster instance: its lowest-numbered cores that can take one. -/
def TakesAll (s : State) (id : Nat) (l : Launch) (cl : Nat) (p : List Share) : Prop :=
  p.length = domCount l 1 ∧ p.Pairwise (fun a b => a.q < b.q) ∧ (∀ sh ∈ p, sh.q / 8 = cl ∧ Takes s id l sh)
    ∧ ∀ sh ∈ p, ∀ sh', sh'.q < sh.q → sh'.q / 8 = cl → Takes s id l sh' → sh'.q ∈ p.map (·.q)

/-- Home of byte `o` of a slot's save record (R104, R212). -/
def saveAt (s : State) (th o : Nat) : Nat := th / 4 * 2 ^ 19 + ctxBase s (th / 4) + th % 4 * 0xC00 + o
/-- A number in a slot's save record. -/
def saved (s : State) (th o n : Nat) : Nat := bytesToNat (locRead s (saveAt s th o) n)
/-- The registers of a thread stand in its save record, with RPC and RBT `rpc` and `rbt` (R209, R212). -/
def InRecord (t : Thread) (s : State) (th : Nat) (rpc rbt : Word) : Prop :=
  (∀ r : BitVec 5, saved s th (8 * r.toNat) 8 = (t.rg r).toNat ∧ saved s th (0x100 + 64 * r.toNat) 64 = (t.rv r).toNat)
    ∧ (∀ r, r < 8 → saved s th (0x900 + 8 * r) 8 = (t.rp r).toNat)
    ∧ saved s th 0x9C0 8 = rpc.toNat
    ∧ saved s th 0x9C8 8 % 2 = (if t.slot = .plain then 0 else 1) ∧ saved s th 0x9D0 8 = rbt.toNat
    ∧ saved s th 0xA40 8 = t.nest.base.toNat ∧ saved s th 0xA74 4 = (b2n t.nest.active + 2 * t.nest.esize) % 2 ^ 32
    ∧ saved s th 0x9D8 8 = t.status.toNat ∧ saved s th 0x9E0 8 = t.epc.toNat ∧ saved s th 0x9E8 8 = t.ebt.toNat
    ∧ saved s th 0x9F0 8 = t.estat.toNat ∧ saved s th 0x9F8 8 = t.ecause.toNat ∧ saved s th 0xA00 8 = t.einfo.toNat
    ∧ saved s th 0xA08 8 = t.utvec.toNat ∧ saved s th 0xA10 8 = t.umask.toNat ∧ saved s th 0xA18 8 = t.dlcount.toNat
    ∧ saved s th 0xA20 8 = t.rxbase.toNat ∧ saved s th 0xA28 8 = t.rxsize.toNat ∧ saved s th 0xA30 8 = t.rxhead.toNat
    ∧ saved s th 0xA80 8 = t.rngkey.toNat ∧ saved s th 0xA88 16 = t.rngctr.toNat
/-- A spill image's bytes are written at their homes under key slot 0 (R87). -/
def ImageOut (q ctx a : Nat) (bs : List Byte) : List (Nat × Nat) → State → State → Prop
  | [], s, t => t = s
  | (v, m) :: l, s, t => ∃ u pa pg, FinJ (jTranslate { q := q, ctx := ctx, sup := true } v .write) s (pa, pg) u
      ∧ ImageOut q ctx a bs l (writeHome u q (piece pa ((bs.drop (v - a)).take m) { pg with key := 0 } false false)) t
/-- No Loft range that another crew has still to write to its image overlaps a node's place (R87). -/
def Vacant (s : State) (id : Nat) : Prop := ∀ sh ∈ (s.node id).place, ∀ e ∈ s.nodes, e.1 ≠ id → e.2.st = .ready → e.2.preempted = true →
  sh.q ∈ e.2.spill → sh.q ∉ e.2.imaged → ∀ v ∈ e.2.place, v.q = sh.q → v.size ≠ 0 → sh.size ≠ 0 → v.base + v.size ≤ sh.base ∨ sh.base + sh.size ≤ v.base
/-- No write of a slot's thread is on its way. -/
def NoWrites (s : State) (th : Nat) : Prop := (s.th th).sb = [] ∧ ∀ x ∈ (s.core (th / 4)).sent, x.1 ≠ th
/-- Threads alike but for their fetch buffers. -/
def SameButFetch (a b : Thread) : Prop := { a with fbuf := [] } = { b with fbuf := [] }

end Sys2Proof.Claims

section
open Sys2Proof Sys2Proof.Machine Sys2Proof.Claims

/-- R60, R73, R74, R80, R81, R83, R84, R100, R288, R289: how nodes become ready, start and end, and the timers of threads. Rests on choices of the model: log entries 65, 66, 67, 89. -/
def Obligations.NodeStates : Prop := ∀ (s : State) (id th : Nat),
  let n := s.node id
  let bad := n.lrec.contfail = false ∧ ∃ p ∈ n.lrec.pred, PredBad s p
  let all := ∀ p ∈ n.lrec.pred, PredDone s p
  let quiet := (∀ e ∈ s.clusters, ∀ j ∈ e.2.jobs, j.node ≠ id) ∧ (∀ e ∈ s.cores, ∀ g ∈ e.2.gp, g.node ≠ id)
    ∧ (∀ e ∈ s.dies, ∀ w ∈ e.2.walks, w.node ≠ id) ∧ (∀ k ∈ s.mgmt.keyOps, k.ref ≠ none → k.node ≠ id)
    ∧ ∀ e ∈ s.mgmt.slots, ∀ w ∈ e.2.waits, w.2 ≠ id
  let gone := ∀ r, r < n.crew.length → r ∈ n.gone
  let t := s.th th
  let q := th / 4
  -- becoming ready
  (Known s id → n.st = .waiting → bad → Gives (.nodeReady id) s (fun t => EndsNode s t id .cancelled 0 3))
  ∧ (Known s id → n.st = .waiting → ¬ bad → all →
      exec (.nodeReady id) s = .next (s.modNode id (fun n => { n with st := .ready, readyAt := s.clock, movedAt := s.clock })))
  ∧ (n.st ≠ .waiting ∨ ¬ Known s id ∨ (¬ bad ∧ ¬ all) → exec (.nodeReady id) s = .next s)
  -- effective priority
  ∧ (Known s id → ¬ Over n → Gives (.epUpdate id) s (fun t => t = s.modNode id (fun n => { n with ep := (t.node id).ep })
      ∧ ownEp s id ≤ (t.node id).ep
      ∧ ((∀ w, ¬ WaitsFor s id w) → (t.node id).ep = ownEp s id)
      ∧ ((∀ w v, WaitsFor s id w → ¬ WaitsFor s w v) → (∀ w, WaitsFor s id w → ownEp s w ≤ (t.node id).ep)
          ∧ ((t.node id).ep = ownEp s id ∨ ∃ w, WaitsFor s id w ∧ (t.node id).ep = ownEp s w))))
  ∧ (¬ Known s id ∨ Over n → exec (.epUpdate id) s = .next s)
  -- the start cluster
  ∧ (Known s id → n.st = .ready → n.preempted = false → n.chosen = none → (s.die n.die).spilldly ≠ 0 → n.movedAt + (s.die n.die).spilldly.toNat ≤ s.clock → n.k < 32 →
      exec (.startClusterMove id) s = .next (s.modNode id (fun n => { n with
        k := behind n.k 1, moves := n.moves + 1, movedAt := s.clock
        die := if (∃ x ∈ n.lrec.levels, x.domain = 2 ∧ x.spill = true) ∧ domCount n.lrec 3 ≠ 4 ∧ (n.moves + 1) % 32 = 0 then (n.die + 1) % 4 else n.die })))
  ∧ (n.st ≠ .ready ∨ n.preempted = true ∨ n.chosen ≠ none ∨ (s.die n.die).spilldly = 0 ∨ s.clock < n.movedAt + (s.die n.die).spilldly.toNat →
      exec (.startClusterMove id) s = .next s)
  -- starting
  ∧ (n.st = .dispatched → n.preempted = false → n.crew.Nodup → (∀ th ∈ n.crew, (s.th th).st ≠ .stopped ∧ NoWrites s th) → Vacant s id →
      Gives (.crewStart id) s (fun u =>
      u.node id = { n with st := .running, gone := [] }
      ∧ (∀ th, th ∉ n.crew → SameButFetch (u.th th) (s.th th))
      ∧ ∀ r th sh, n.crew[r]? = some th → n.place.find? (fun x => x.q == th / 4) = some sh →
          let y := u.th th
          let gen := (tget 0 (s.core (th / 4)).gens (th % 4) + 1) % 2 ^ 16
          y.st = .running ∧ y.node = id ∧ y.rank = r ∧ y.pc = n.lrec.entry ∧ y.rg 1 = n.lrec.arg ∧ y.rg 2 = BitVec.ofNat 64 r
          ∧ y.gen = BitVec.ofNat 16 gen ∧ tget 0 (u.core (th / 4)).gens (th % 4) = gen
          ∧ (∀ i, sh.slots.idxOf? (th % 4) = some i → y.rg 31 = if n.lrec.loft = 0 then 0 else
              BitVec.ofNat 64 (0xFF00000000000000 + sh.base + sh.size / (n.lrec.threads + 1) / 64 * 64 * (i + 1)))
          ∧ (∀ i : BitVec 5, i ≠ 1 → i ≠ 2 → i ≠ 31 → y.rg i = 0) ∧ (∀ i, y.rv i = 0) ∧ (∀ i, 1 ≤ i → y.rp i = 0) ∧ (∀ i, y.rh i = .empty)
          ∧ y.status = 0 ∧ y.slot = .plain ∧ y.sb = [] ∧ y.pkt = none
          ∧ y.rngkey = BitVec.ofNat 64 (r % 2 ^ 32 * 2 ^ 32 + id % 2 ^ 32) ∧ y.rngctr = 0))
  ∧ (n.st ≠ .dispatched ∨ n.preempted = true ∨ ¬ Vacant s id → exec (.crewStart id) s = .next s)
  -- ending
  ∧ (n.st = .running → gone → quiet → (∀ th ∈ n.crew, (s.th th).node = id → NoWrites s th) → Gives (.nodeEnd id) s (fun u =>
      (n.failing = false → (u.node id).st = .done ∧ (u.node id).cause = 0) ∧ (n.failing = true → (u.node id).st = .faulted ∧ (u.node id).cause = n.cause)
      ∧ (u.node id).place = [] ∧ (u.node id).crew = [] ∧ (∀ th ∈ n.crew, (s.th th).node = id → (u.th th).st = .free)
      ∧ (∀ cl i, tget 0 (u.clus cl).slotOwn i ≠ id + 1 ∧ tget 0 (u.clus cl).accOwn i ≠ id + 1)
      ∧ (n.spawned = false → Told s u id (if n.failing then 5 else 4) (if n.failing then n.cause else 0) s.clock)))
  ∧ (Known s id → Over n → n.owed = true → n.spawned = false → Gives (.nodeEnd id) s (fun u => u.node id = { n with owed := false }
      ∧ Told s u id (match n.st with | .done => 4 | .faulted => 5 | _ => 6) n.cause n.endedAt))
  ∧ ((Over n ∧ n.owed = false) ∨ (¬ Over n ∧ (n.st ≠ .running ∨ ¬ gone ∨ ¬ quiet)) → exec (.nodeEnd id) s = .next s)
  -- timers
  ∧ (t.regroup = none → exec (.regroupTimeout th) s = .next s)
  ∧ (∀ c, t.regroup = some c → (t.st ≠ .running ∧ t.st ≠ .stopping) ∨ s.clock < c + 512 → exec (.regroupTimeout th) s = .next s)
  ∧ (∀ c, t.regroup = some c → t.st = .running ∨ t.st = .stopping → c + 512 ≤ s.clock → t.slot = .plain → Gives (.regroupTimeout th) s (fun u =>
      (u.th th).pc = t.pc + 8 ∧ (u.th th).regroup = none ∧ u.cur = s.cur ∧ (∀ r, (u.th th).rg r = t.rg r) ∧ ∀ k, k ≠ th → u.th k = s.th k))
  ∧ (t.yieldTo = none → exec (.yieldExpire th) s = .next s)
  ∧ (∀ c, t.yieldTo = some c → c ≤ s.clock ∨ (∀ k, k < 4 → k ≠ th % 4 → (s.th (q * 4 + k)).st ≠ .running ∨ (s.th (q * 4 + k)).waits = true
        ∨ (s.th (q * 4 + k)).yieldTo ≠ none) →
      exec (.yieldExpire th) s = .next (s.modTh th (fun t => { t with yieldTo := none })))
  ∧ (∀ c k, t.yieldTo = some c → s.clock < c → k < 4 → k ≠ th % 4 → (s.th (q * 4 + k)).st = .running → (s.th (q * 4 + k)).waits = false →
      (s.th (q * 4 + k)).yieldTo = none → s.zdb.held = false → exec (.yieldExpire th) s = .next s)

/-- R73, R77, R79, R85, R87, R90, R212: dispatch decisions, and how crews stop, spill and go on. Rests on choices of the model: log entries 59, 60, 61, 63, 64, 65, 89, 103, 107. -/
def Obligations.Dispatching : Prop := ∀ (s u : State) (d id th q : Nat) (sh : Share) (p : List (List Share)),
  let n := s.node id
  let t := s.th th
  let alone := Known s id ∧ n.st = .ready ∧ n.die = d ∧ n.preempted = false ∧ n.chosen = none ∧ s.zdb.held = false
    ∧ (∀ e ∈ s.nodes, e.2.st = .ready → e.1 = id) ∧ s.nodes.Pairwise (fun a b => a.1 < b.1)
  let gap := (s.die d).gap.toNat
  let live := fun (s : State) (th : Nat) => (s.th th).node = t.node ∧ (s.th th).st ∈ [ThState.running, .stopping, .stopped]
  let others := ∃ k ∈ (s.node t.node).crew, k ≠ th ∧ live s k ∧ (s.th k).st ≠ .stopped
  let calm := NoWrites s th ∧ t.wire = none ∧ t.pkt = none ∧ t.sub = false ∧ t.bar = none ∧ (t.prog = 0 ∨ 4 ≤ t.prog ∧ t.prog ≠ 8)
    ∧ t.pend = [] ∧ (s.core (th / 4)).reads = []
  let there := { s with cur := th }
  let next := nextInstr there (th / 4) t.ctx t.sup t.pc.toNat
  let rec_ := saved s th
  let bs := locRead s (q * 2 ^ 19 + sh.base) sh.size
  let img := (s.ctx (id / 2 ^ 40 % 256)).spillbase.toNat + q * 524288 + sh.base
  let aims := (∀ e ∈ s.cores, ∀ g ∈ e.2.gp, gpTargets e.1 g q sh.base sh.size = false)
    ∧ ∀ e ∈ s.clusters, ∀ j ∈ e.2.jobs, j.result = none → jobTargets j q sh.base sh.size = false
  let tilesBusy := ∃ i, ((tget {} (s.core q).tiles i).st = 1 ∨ (tget {} (s.core q).tiles i).st = 3)
    ∧ sh.base ≤ (tget {} (s.core q).tiles i).base * 64 ∧ (tget {} (s.core q).tiles i).base * 64 < sh.base + sh.size
  let sole := ∀ e ∈ s.nodes, e.1 ≠ id → e.1 / 2 ^ 40 % 256 = id / 2 ^ 40 % 256 → q ∉ e.2.imaged
  -- decisions
  (s.dispatch = false → exec (.dispatchDecision d) s = .next s)
  ∧ (s.dispatch = true → alone → p.length = (instances n).length →
      (∀ (i cl : Nat) (l : List Share), (instances n)[i]? = some cl → p[i]? = some l → TakesAll s id n.lrec cl l) → Gives (.dispatchDecision d) s (fun t =>
      (t.node id).st = .dispatched ∧ (t.node id).place = p.flatten ∧ (t.node id).dispAt = s.clock ∧ (t.node id).resv = false
      ∧ (t.node id).crew = (p.flatten.map (fun sh => sh.slots.map (fun k => sh.q * 4 + k))).flatten
      ∧ ∀ j, j ≠ id → (t.node j).st = (s.node j).st ∧ (t.node j).place = (s.node j).place))
  ∧ (s.dispatch = true → alone → 64 ≤ gap → (∃ cl ∈ instances n, ∀ p, ¬ TakesAll s id n.lrec cl p) → Gives (.dispatchDecision d) s (fun t =>
      (t.node id).st = .ready ∧ (t.node id).resv = true ∧ (t.node id).place = n.place ∧ ∀ j, (t.node j).victimOf = (s.node j).victimOf))
  ∧ (s.nodes.Pairwise (fun a b => a.1 < b.1) → Gives (.dispatchDecision d) s (fun t => ∀ v, (t.node v).victimOf ≠ (s.node v).victimOf → ∃ h, (t.node v).victimOf = some h ∧ gap < 64
      ∧ (s.node v).st = .running ∧ (s.node v).victimOf = none ∧ (t.node v).ep + gap ≤ (t.node h).ep ∧ (s.node h).st = .ready ∧ (s.node h).die = d))
  -- a thread stops
  ∧ (t.st ≠ .stopping → exec (.threadStop th) s = .next s)
  ∧ (t.st = .stopping → (s.node t.node).failing = true → t.pkt = none → Gives (.threadStop th) s (fun u =>
      (u.th th).st = .exited ∧ t.rank ∈ (u.node t.node).gone ∧ (u.node t.node).st = (s.node t.node).st ∧ ∀ k, k ≠ th → u.th k = s.th k))
  ∧ (t.st = .stopping → (s.node t.node).failing = false → calm → th < 4096 →
      ∀ a b, next = (there, a) → (match t.slot with | .plain => b = 0 | .taken x => b = x | .untaken => returnAddr there (th / 4) t.ctx t.sup a = (there, b)) →
      Gives (.threadStop th) s (fun u =>
      (u.th th).st = .stopped ∧ InRecord t u th (BitVec.ofNat 64 a) b ∧ (∀ r, (u.th th).rg r = t.rg r) ∧ (∀ k, k ≠ th → u.th k = s.th k) ∧ u.dram = s.dram
      ∧ (others → u.nodes = s.nodes)
      ∧ ((s.node t.node).st = .running → (s.node t.node).victimOf ≠ none → th ∈ (s.node t.node).crew → ¬ others →
          (u.node t.node).st = .ready ∧ (u.node t.node).preempted = true ∧ (u.node t.node).victimOf = none
          ∧ (u.node t.node).place = (s.node t.node).place
          ∧ ∀ d, (u.die d).preempts = (s.die d).preempts + if ∃ sh ∈ (s.node t.node).place, sh.q / 256 = d then 1 else 0)))
  ∧ (t.st = .stopping → (s.node t.node).failing = false → t.pkt ≠ none → exec (.threadStop th) s = .next s)
  -- spilling
  ∧ (n.place.find? (fun x => x.q == q) = some sh → n.st = .ready → n.preempted = true → q ∈ n.spill → q ∉ n.imaged → ¬ tilesBusy → aims → sole →
      ImageOut q (id / 2 ^ 40 % 256) img bs (outPieces img bs.length) s u →
      exec (.spillWrite id q) s = .next (u.modNode id (fun n => { n with imaged := q :: n.imaged })))
  ∧ (n.place.find? (fun x => x.q == q) = none ∨ n.st ≠ .ready ∨ n.preempted = false ∨ q ∉ n.spill ∨ q ∈ n.imaged ∨ ¬ sole → exec (.spillWrite id q) s = .next s)
  -- going on
  ∧ (n.st ≠ .dispatched ∨ n.preempted = false ∨ s.dispatch = false ∨ ¬ Vacant s id → exec (.crewRefillRestore id) s = .next s)
  ∧ (n.st = .dispatched → n.preempted = true → n.imaged = [] → n.kept = [] → n.crew.Nodup → s.dispatch = true → Vacant s id →
      (∀ k ∈ n.crew, (s.th k).node = id ∧ NoWrites s k) → Gives (.crewRefillRestore id) s (fun u =>
      u.node id = { n with st := .running, preempted := false, spill := [], imaged := [], kept := [] }
      ∧ (∀ k, k ∉ n.crew → SameButFetch (u.th k) (s.th k)) ∧ u.loc = s.loc ∧ u.dram = s.dram
      ∧ ∀ r, n.crew[r]? = some th → r ∉ n.gone → (∀ i, i < 4 → rec_ (0xAC0 + 72 * i) 1 % 2 = 0) →
          let y := u.th th
          y.st = .running ∧ y.pc = BitVec.ofNat 64 (rec_ 0x9C0 8) ∧ y.status = BitVec.ofNat 64 (rec_ 0x9D8 8)
          ∧ (∀ r : BitVec 5, r ≠ 0 → y.rg r = BitVec.ofNat 64 (rec_ (8 * r.toNat) 8))
          ∧ (∀ r : BitVec 5, y.rv r = BitVec.ofNat 512 (rec_ (0x100 + 64 * r.toNat) 64))
          ∧ (∀ i, 1 ≤ i → i < 8 → y.rp i = BitVec.ofNat 64 (rec_ (0x900 + 8 * i) 8))
          ∧ y.slot = (if rec_ 0x9C8 8 % 2 = 0 then .plain else if t.slot = .untaken then .untaken else .taken (BitVec.ofNat 64 (rec_ 0x9D0 8)))
          ∧ y.epc = BitVec.ofNat 64 (rec_ 0x9E0 8) ∧ y.ecause = BitVec.ofNat 64 (rec_ 0x9F8 8) ∧ y.einfo = BitVec.ofNat 64 (rec_ 0xA00 8)
          ∧ y.rxhead = BitVec.ofNat 64 (rec_ 0xA30 8) ∧ y.rngctr = BitVec.ofNat 128 (rec_ 0xA88 16)
          ∧ y.gen = t.gen ∧ y.rxtail = t.rxtail ∧ y.dlcount = t.dlcount))

end

namespace Sys2Proof.Claims
open Sys2Proof.Machine

/-- The set of a memory-side cache for a stack offset (R154). -/
def cacheSet (off : Nat) : Nat := (off / 2 ^ 9 % 2 ^ 14) ^^^ (off / 2 ^ 23 % 2 ^ 13)
/-- The ways of the set that an address falls into. -/
def waysOf (s : State) (pa : Nat) : List Way := tget [] (s.stack (stackOf pa)).msc (cacheSet (offOf pa))
/-- The first way that holds an address's frame. -/
def HitAt (s : State) (pa i : Nat) (w : Way) : Prop :=
  (waysOf s pa)[i]? = some w ∧ w.pf = pa / 512 ∧ ∀ j v, j < i → (waysOf s pa)[j]? = some v → v.pf ≠ pa / 512
/-- No way holds it. -/
def Misses (s : State) (pa : Nat) : Prop := ∀ v ∈ waysOf s pa, v.pf ≠ pa / 512
/-- A LIVE pinned window covers a stack offset (R157). -/
def Covered (s : State) (st off i : Nat) : Prop :=
  let p := tget {} (s.stack st).pins i
  i < 16 ∧ p.st = 1 ∧ p.start ≤ off / 65536 ∧ off / 65536 < p.start + p.ngran
/-- Nothing but one stack has changed. -/
def OnlyStack (s t : State) (st : Nat) : Prop := t = { s with hbms := t.hbms } ∧ ∀ k, k ≠ st → t.stack k = s.stack k

/-- One machine choice has been made. -/
def spent (s : State) : State := { s with choices := s.choices.drop 1 }
/-- No write comes before a write of core `q`: none of the core's own earlier ones to its stack, write-backs apart (R163), and none that its
die has routed to one of its words before it (R186). -/
def Foremost (s : State) (q : Nat) (w : ChuteW) : Prop :=
  (∀ v ∈ (s.core q).chute, v.st = w.st → v.seq < w.seq → v.back = true ∨ w.back = true)
    ∧ ∀ e ∈ s.cores, e.1 / 256 = q / 256 → ∀ v ∈ e.2.chute, v.seq < w.seq → ∀ p ∈ v.words, p ∉ w.words
/-- The write of a core to a stack that is performed next: one that no other comes before, by choice where there are several. -/
def NextWrite (s : State) (q st i : Nat) (w : ChuteW) : Prop :=
  (s.core q).chute[i]? = some w ∧ w.st = st ∧ Foremost s q w
    ∧ ∀ j v, (s.core q).chute[j]? = some v → v.st = st → Foremost s q v → j = i ∨ (s.choices = [] ∧ i < j)
/-- Chute writes to the words of a key slot go on being performed: it is loaded, or its kill has not passed step 3 (R171, R172). -/
def Alive (s : State) (key n : Nat) : Prop :=
  let x := tget {} s.mgmt.slots key
  x.st = .loaded ∨ (x.st = .killing ∧ x.step ≤ n)
/-- No read or atomic that a thread awaits, and nothing on its way, concerns a frame. -/
def Unawaited (s : State) (frame : Nat) : Prop :=
  (∀ e ∈ s.cores, (∀ r ∈ e.2.reads, r.word.1 = false → r.word.2 / 16 ≠ frame) ∧ (∀ x ∈ e.2.sent, x.2.pa / 512 ≠ frame)
      ∧ ∀ w ∈ e.2.chute, w.pa / 512 ≠ frame)
    ∧ (∀ e ∈ s.threads, ∀ x ∈ e.2.sb, x.pa / 512 = frame → x.ret = none)
    ∧ (∀ e ∈ s.hbms, ∀ w ∈ e.2.nmu, w.pa / 512 ≠ frame)
    ∧ (∀ d i, d < 4 → i < 16 → ∀ f ∈ (s.die d).fwd, f.pa ≠ frame * 16 + i) ∧ (s.stack (stackOf (frame * 512))).nmu = []
/-- Bytes that a write counts for (R160). -/
def chuteBytes (w : ChuteW) : Nat := match w.op with | some _ => 32 | none => w.bytes.countP Option.isSome
/-- A write has left its core and is counted at its home (R164, R380). -/
def counted (s : State) (q i : Nat) (w : ChuteW) : State :=
  (s.modCore q (fun c => { c with
    chute := c.chute.eraseIdx i
    counted := if w.limited then tset 0 c.counted w.st (tget 0 c.counted w.st + chuteBytes w) else c.counted
    countedAt := if w.limited then tset 0 c.countedAt w.st s.clock else c.countedAt })).modStack w.st (fun k =>
    if w.chain then { k with chain := tset 0 k.chain q (tget 0 k.chain q + 1) }
    else { k with arr := tset 0 k.arr (q * 4 + w.round) (tget 0 k.arr (q * 4 + w.round) + 1) })
/-- The die whose slices routed a write hears that it has been performed (R186). -/
def reported (s : State) (w : ChuteW) : State :=
  match w.fwd with
  | none => s
  | some d => s.modDie d (fun x => { x with fwd := x.fwd.map (fun f => if w.words.contains f.pa then { f with done := f.done + 1 } else f) })

/-- Two sheaves of a set that R133 merges. -/
def Adjacent (a b : Sheaf) : Prop := a.frame = b.frame ∧ a.key = b.key ∧ a.cls = b.cls ∧ a.ms = b.ms ∧ a.s + a.words.length = b.s
/-- Every word of a frame is in at most one sheaf of the set, and within the frame (R128). -/
def SheavesApart (l : List Sheaf) : Prop :=
  (∀ x ∈ l, x.words ≠ [] ∧ x.s + x.words.length ≤ 16) ∧
  l.Pairwise (fun a b => a.frame = b.frame → a.s + a.words.length ≤ b.s ∨ b.s + b.words.length ≤ a.s)
/-- The number of a set of a die. -/
def setNum (slice set : Nat) : Nat := slice * 384 + set
/-- The words of a die's set that a walk covers (R147). -/
def WalkCovers (s : State) (w : Walk) (d k p : Nat) : Prop :=
  setKey p = k ∧ (held s d p).isSome = true ∧ ∃ g ∈ w.pages, g.1 / 32 ≤ p ∧ p ≤ g.2.1 / 32
/-- The die of a walk, and the walk. -/
def TheWalk (s : State) (n : Nat) (w : Walk) : Prop := (s.die (n / 2 ^ 32 / 256)).walks.find? (fun w => w.th / 4 * 2 ^ 32 + w.seq == n) = some w

end Sys2Proof.Claims

section
open Sys2Proof Sys2Proof.Machine Sys2Proof.Claims

/-- R151 to R158, R160, R163 to R167, R186: the memory homes, the write lane, the Chute and its rounds, and the near-memory units. Rests on choices of the model: log entries 11, 34, 36, 37, 38, 39, 72, 89, 106, 109. -/
def Obligations.HomesAndChute : Prop := ∀ (s : State) (pa ctx key cls st q d n i : Nat) (w : Way) (c : ChuteW) (e : LaneW) (r : Round)
    (l : List Round) (f : Forward) (ws : List ChuteW),
  let keyOf := fun (k : Nat) => (tget {} s.mgmt.slots k).key
  let k := stackOf pa
  let off := offOf pa
  let x := s.stack k
  let y := s.stack st
  let set := cacheSet off
  let grp := set % 512
  let sel := tget 0 (s.ctx ctx).sel k
  let second := grp = 511 ∨ (grp ≠ 0 ∧ 512 ≤ sel)
  let aged := fun (v : Way) => if v.age < w.age then v.age + 1 else v.age
  let young := fun (a : Nat) (v : Way) => if a = 0 then min 15 (v.age + 1) else v.age
  let fr := dramFrame s (pa / 512)
  let meta_ := tget {} x.frames (off / 512)
  let inLane := ∃ v ∈ x.lane, dramKey (v.pf * 512) = dramKey (pa / 512 * 512)
  let faded := fun (p : Pin) => if p.st = 1 then { p with fade := p.fade - 1, st := if p.fade ≤ 1 then 2 else 1 } else p
  let first := y.lane[i]? = some e ∧ (if ∃ v ∈ y.lane, v.charged = false then e.charged = false ∧ ∀ j v, j < i → y.lane[j]? = some v → v.charged = true else i = 0)
  let s1 := counted (spent s) q i c
  let base := dramKey (e.pf * 512)
  let cipher := if e.raw then frameCipher s e.pf else xts true (keyOf e.key) (2 ^ 39 + base) (frameBytes e.data 0 512)
  let old := tget {} y.frames (offOf (e.pf * 512) / 512)
  -- the memory-side cache: hits
  (x.lookups < 2 ^ 20 → HitAt s pa i w → Gives (.mscLookup pa ctx key cls false) s (fun t => OnlyStack s t k ∧ (t.stack k).lookups = x.lookups + 1
      ∧ (waysOf t pa).length = (waysOf s pa).length
      ∧ (∀ (j : Nat) (v : Way), (waysOf s pa)[j]? = some v → (waysOf t pa)[j]? = some { v with age := if j = i then 0 else aged v })
      ∧ (∀ p, Covered s k off p → (tget {} (t.stack k).pins p).fade = 255)
      ∧ (t.stack k).lane = x.lane))
  ∧ (x.lookups < 2 ^ 20 → HitAt s pa i w → Gives (.mscLookup pa ctx key cls true) s (fun t => OnlyStack s t k
      ∧ (waysOf t pa)[i]? = some (if w.poison then { w with age := 0 } else { w with
          age := 0, dirty := true, charged := false, key := key, cls := cls, ctx := ctx, raw := false, data := if w.key = key then w.data else 0 })
      ∧ (t.stack k).lane = x.lane))
  -- misses: bypass, a frame of another slot, insertion by set duelling, a protected way
  ∧ (x.lookups < 2 ^ 20 → Misses s pa → cls = 2 ∨ (fr.1 ≠ key ∧ fr.2.2 = false) → exec (.mscLookup pa ctx key cls false) s = .next (s.modStack k (fun x => { x with lookups := x.lookups + 1 })))
  ∧ (x.lookups < 2 ^ 20 → Misses s pa → (waysOf s pa).length < 16 → fr.1 = key ∨ fr.2.2 = true → Gives (.mscLookup pa ctx key 0 false) s (fun t =>
      let age := if second then if x.lfsr &&& 31 = 0 then 0 else 15 else 0
      waysOf t pa = (waysOf s pa).map (fun v => { v with age := young age v })
        ++ [{ pf := pa / 512, data := fr.2.1, dirty := fr.2.2, key := fr.1, cls := 0, poison := fr.2.2, age := age, ctx := ctx, raw := fr.2.2 }]
      ∧ tget 0 (t.ctx ctx).sel k = (if grp = 0 then min 1023 (sel + 1) else if grp = 511 then sel - 1 else sel)
      ∧ (t.stack k).lfsr = (if second then lfsrStep x.lfsr else x.lfsr)
      ∧ t.dram = s.dram ∧ (t.stack k).lane = x.lane))
  ∧ (x.lookups < 2 ^ 20 → Misses s pa → (waysOf s pa).length < 12 → fr.1 = key ∨ fr.2.2 = true →
      (∃ p, Covered s k (offOf (pa / 512 * 512)) p ∧ (tget {} x.pins p).ctx = ctx) → Gives (.mscLookup pa ctx key 1 false) s (fun t => OnlyStack s t k
        ∧ waysOf t pa = (waysOf s pa).map (fun v => { v with age := young 0 v })
        ++ [{ pf := pa / 512, data := fr.2.1, dirty := fr.2.2, key := fr.1, cls := 1, poison := fr.2.2, age := 0, ctx := ctx, raw := fr.2.2 }]))
  -- reading a frame from DRAM
  ∧ ((¬ Misses s (pa / 512 * 512) ∨ inLane) → exec (.dramFrameRead (pa / 512) n) s = .next s)
  ∧ (pa % 512 = 0 → Misses s pa → ¬ inLane → n ≤ 18 → fr.2.2 = false → (n = 0 → exec (.dramFrameRead (pa / 512) n) s = .next s)
      ∧ (n ≠ 0 → (waysOf s pa).length < 16 → Gives (.dramFrameRead (pa / 512) n) s (fun t => (t.stack k).corrected = x.corrected + 1
          ∧ waysOf t pa = (waysOf s pa).map (fun v => { v with age := young 0 v })
            ++ [{ pf := pa / 512, data := fr.2.1, dirty := true, key := fr.1, cls := meta_.cls, asData := true, poison := false, age := 0 }])))
  ∧ (pa % 512 = 0 → Misses s pa → ¬ inLane → (18 < n ∧ Unawaited s (pa / 512)) ∨ fr.2.2 = true → exec (.dramFrameRead (pa / 512) n) s = .next (s.modStack k (fun x => { x with
      lane := x.lane ++ [{ pf := pa / 512, data := fr.2.1, key := fr.1, cls := meta_.cls, poison := true, raw := true, charged := false }] })))
  -- the write lane
  ∧ (y.lane = [] → exec (.writeLaneSlot st) s = .next s)
  ∧ (first → Gives (.writeLaneSlot st) s (fun t => (t.stack st).lane = y.lane.eraseIdx i
      ∧ (∀ j b, cipher[j]? = some b → tget dramDefault t.dram (base + j) = b)
      ∧ (∀ a, a < base ∨ base + 512 ≤ a → tget dramDefault t.dram a = tget dramDefault s.dram a)
      ∧ (∀ a, tget {} (t.stack st).frames a = if a = offOf (e.pf * 512) / 512 then
          let m : FrameMeta := if e.raw then { old with poison := true } else { key := e.key, poison := e.poison, cls := e.cls, under := some (keyOf e.key) }
          { m with check := bchCheck (frameOf cipher) m.bits } else tget {} y.frames a)
      ∧ t.mgmt = s.mgmt ∧ t.cores = s.cores))
  -- the fade period
  ∧ (y.lookups < 2 ^ 20 → Gives (.mscFadePeriod st) s (fun t => OnlyStack s t st ∧ t.stack st = y))
  ∧ (2 ^ 20 ≤ y.lookups → Gives (.mscFadePeriod st) s (fun t => (t.stack st).lookups = y.lookups - 2 ^ 20
      ∧ (∀ p, tget {} (t.stack st).pins p = faded (tget {} y.pins p))))
  -- the Chute
  ∧ ((∀ c ∈ (s.core q).chute, c.st ≠ st) → exec (.chuteWritePerform q st) s = .next (spent s))
  ∧ (NextWrite s q st i c → ¬ Alive s c.key 3 → c.ret = none → exec (.chuteWritePerform q st) s = .next (reported s1 c))
  ∧ (NextWrite s q st i c → Alive s c.key 3 →
      (c.op = none → exec (.chuteWritePerform q st) s = .next (reported (homeWrite s1 c.pa c.bytes c.ctx c.key c.cls c.charged) c))
      ∧ (c.op ≠ none → exec (.chuteWritePerform q st) s = .next (reported (s1.modStack c.st (fun k => { k with nmu := k.nmu ++ [c] })) c)))
  ∧ exec (.creditReturn q st) s = .next (s.modCore q (fun c => { c with
      out := c.out - min 1024 (tget 0 c.counted st), counted := tset 0 c.counted st (tget 0 c.counted st - min 1024 (tget 0 c.counted st)) }))
  ∧ ((s.core q).rounds = [] → exec (.roundCloseQuery q st) s = .next s ∧ exec (.roundCloseReply q) s = .next s)
  ∧ ((s.core q).rounds = r :: l →
      (tget 0 y.arr (q * 4 + r.n) = tget 0 r.sent st → st ∉ r.answers →
        exec (.roundCloseQuery q st) s = .next (s.modCore q (fun c => { c with rounds := { r with answers := st :: r.answers } :: l })))
      ∧ (tget 0 y.arr (q * 4 + r.n) ≠ tget 0 r.sent st ∨ st ∈ r.answers → exec (.roundCloseQuery q st) s = .next s)
      ∧ (8 ≤ r.answers.length → Gives (.roundCloseReply q) s (fun t => (t.core q).rounds = l ∧ (∀ j, j ≠ q → t.core j = s.core j)
          ∧ (∀ j a, tget 0 (t.stack j).arr a = if a = q * 4 + r.n then 0 else tget 0 (s.stack j).arr a)
          ∧ t = { s with hbms := t.hbms, cores := t.cores }))
      ∧ (r.answers.length < 8 → exec (.roundCloseReply q) s = .next s))
  ∧ ((s.die d).fwd[n]? = some f → f.sent ≤ f.done → exec (.forwardTableReport d n) s = .next (s.modDie d (fun x => { x with fwd := x.fwd.eraseIdx n })))
  ∧ ((∀ f, (s.die d).fwd[n]? = some f → f.done < f.sent) → Gives (.forwardTableReport d n) s (fun t => ∀ j, t.die j = s.die j))
  -- the near-memory unit
  ∧ (y.nmu = [] → exec (.nmuOperation st) s = .next s)
  ∧ (∀ op, y.nmu = c :: ws → c.op = some op →
      let r := nmuDo (s.modStack st (fun k => { k with nmu := ws })) c.pa c.ctx c.key c.cls op c.ret.isSome
      exec (.nmuOperation st) s = .next (giveRet r.1 (r.2.getD 0) c.ret))
  ∧ (∀ op u v b, mscLookup s pa ctx key cls true = (u, v, false) →
      let m := bytesToNat (frameBytes v (pa % 512) op.size)
      nmuDo s pa ctx key cls op b = ((match op.new m with
        | some x => mscStore u pa ctx key cls (frameMerge v (pa % 512) ((natToBytes op.size x).map some)) true
        | none => u), some m))
  ∧ (∀ op u v, mscLookup s pa ctx key cls true = (u, v, true) → (nmuDo s pa ctx key cls op true).2 = none ∧ (nmuDo s pa ctx key cls op true).1 = u
      ∧ (nmuDo s pa ctx key cls op false).1 = u.modStack k (fun k => { k with poisonW := k.poisonW + 1 }))

/-- R132 to R136, R139, R141, R144 to R147, R180, R181, R199: requests at the slices, fills, recalls, merging, boundaries, and range walks. Rests on choices of the model: log entries 17, 19, 20, 22, 33, 34, 35, 89, 105. -/
def Obligations.DieCache : Prop := ∀ (s u : State) (th n d slice set node lev inst p : Nat) (e : SbEntry) (r : ReadReq) (f : Fill) (y : Nat × SbEntry) (part : RdPart)
    (bs : List Byte) (sh : Sheaf) (w : SheafWord) (l1 : L1Word) (x : Walk),
  let t := s.th th
  let q := th / 4
  let c := s.core q
  let left := t.sb.length
  -- entry n has left the store buffer and is on its way
  let drained := fun (s : State) => (s.modTh th (fun t => { t with sb := t.sb.eraseIdx n, relStage := if n = 0 then 0 else t.relStage })).modCore q
    (fun c => { c with sent := c.sent ++ [(th, e)] })
  let accepted := fun (i : Nat) (s : State) => s.modCore q (fun c => { c with sent := c.sent.eraseIdx i })
  let older := t.sb.take n
  let freeToGo := e.fence = false ∧ (∀ y ∈ older, y.fence = false ∧ (y.word = e.word → e.seq ≤ y.seq))
    ∧ (e.release = true → n = 0 ∧ t.relStage = 4 ∧ ∀ x ∈ c.sent, x.1 ≠ th) ∧ ∀ r ∈ c.reads, r.th = th → r.word = e.word → e.seq ≤ r.seq
  let away := ∃ p, requestWord s th n = some (false, p) ∧ ∃ y, held s (q / 256) p = some y ∧ y.2.owned = true ∧ y.2.core ≠ q % 256
  let m := n - left
  let m' := m - c.sent.length
  let arrives := fun (r : ReadReq) => (∀ x ∈ c.reads, x.th = r.th → x.word = r.word → r.seq ≤ x.seq)
    ∧ (∀ x ∈ (s.th r.th).sb, x.op ≠ none → x.fence = false → x.word = r.word → r.seq ≤ x.seq) ∧ ∀ x ∈ c.sent, x.2.word ≠ r.word
  let k := setNum slice set
  let l := tget [] (s.die d).sets k
  let fp := f.pa / 32
  let arrived := s.modDie d (fun x => { x with fills := x.fills.eraseIdx n })
  let rc := d * 256 + w.core
  let nd := s.node node
  let ms := members nd lev inst
  let ph := tget {} s.phases (phaseKey node lev inst)
  let ready := ph.arrived ≠ [] ∧ ∀ r ∈ ms, r ∈ ph.arrived ∨ r ∈ nd.gone
  let sigOf := fun (q : Nat) => match ph.sigs.find? (fun e => e.1 == q) with | some x => x.2 | none => (s.core q).sig
  let sigs := (memberCores nd ms).foldl (fun a q => a ||| sigOf q) 0
  let home := n / 2 ^ 32 / 256
  let q' := n / 2 ^ 32
  let rs := x.pages.map (fun g => (g.1, g.2.1))
  -- store buffers: an entry drains, and is accepted at once or later
  (t.sb[n]? = some e → ¬ away → (∃ y ∈ older, y.word = e.word ∧ y.seq < e.seq ∧ y.fence = false) →
      exec (.sliceRequest th n) s = .next (spent s))
  ∧ (t.sb[n]? = some e → ¬ away → n ≠ 0 → e.op ≠ none → (∃ y ∈ older, y.fence = true) → exec (.sliceRequest th n) s = .next (spent s))
  ∧ (t.sb[n]? = some e → ¬ away → freeToGo →
      (∀ l, s.choices = 1 :: l → exec (.sliceRequest th n) s = .next (drained (spent s)))
      ∧ (s.choices = [] → (∀ x ∈ c.sent, x.2.word ≠ e.word) →
          exec (.sliceRequest th n) s = .next (acceptEntry (accepted c.sent.length (drained s)) th e)))
  ∧ (left ≤ n → c.sent[m]? = some y → ¬ away → (∃ x ∈ c.sent.take m, x.2.word = y.2.word) → exec (.sliceRequest th n) s = .next s)
  ∧ (left ≤ n → c.sent[m]? = some y → ¬ away → (∀ x ∈ c.sent.take m, x.2.word ≠ y.2.word) →
      exec (.sliceRequest th n) s = .next (acceptEntry (accepted m s) y.1 y.2))
  -- what acceptance is
  ∧ (e.loc = true → e.op = none → acceptEntry s th e = locWrite s (e.pa / 32 * 32) e.bytes)
  ∧ (e.loc = false → ¬ Alive s e.key 2 → e.ret = none → acceptEntry s th e = s)
  ∧ (e.loc = false → Alive s e.key 2 → e.op = none →
      acceptEntry s th e = writeWord s q (e.pa / 32) e.bytes e.req e.rq e.home (phaseTag s th))
  -- issued reads
  ∧ (left ≤ n → c.sent.length ≤ m → c.reads[m']? = none → exec (.sliceRequest th n) s = .next s)
  ∧ (left ≤ n → c.sent.length ≤ m → c.reads[m']? = some r → ¬ away → (∃ x ∈ c.reads, x.th = r.th ∧ x.word = r.word ∧ x.seq < r.seq) →
      exec (.sliceRequest th n) s = .next s)
  ∧ (left ≤ n → c.sent.length ≤ m → c.reads[m']? = some r → ¬ away → arrives r → r.vec = false → r.parts = [part] →
      1 ≤ part.size → part.pa % 32 + part.size ≤ 32 →
      wordValue (s.modCore q (fun c => { c with reads := c.reads.eraseIdx m' })) r.th r.word r.seq (partBytes r.parts) r.req r.rq none = (u, some bs) →
      let y := bytesToNat bs / 2 ^ (8 * (part.pa % 32)) % 2 ^ (8 * part.size)
      exec (.sliceRequest th n) s = .next (u.modTh r.th (fun t => ({ t with pend := t.pend.erase r.rd }).wg (BitVec.ofNat 5 r.rd)
        (if r.sgn = true ∧ 2 ^ (8 * part.size - 1) ≤ y then BitVec.ofInt 64 ((y : Int) - 2 ^ (8 * part.size)) else BitVec.ofNat 64 y))))
  ∧ (left ≤ n → c.sent.length ≤ m → c.reads[m']? = some r → ¬ away → arrives r → r.vec = true → r.rd < 32 →
      wordValue (s.modCore q (fun c => { c with reads := c.reads.eraseIdx m' })) r.th r.word r.seq (partBytes r.parts) r.req r.rq none = (u, some bs) →
      Gives (.sliceRequest th n) s (fun t => t.loc = u.loc ∧ (∀ k, (t.th k).rg = (u.th k).rg) ∧ ∀ i, i < 64 →
        let on := fun (x : RdPart) => x.dst ≤ i ∧ i < x.dst + x.size
        let y := el ((t.th r.th).rv (BitVec.ofNat 5 r.rd)) 8 i
        ((∀ x ∈ r.parts, ¬ on x) → y = el ((u.th r.th).rv (BitVec.ofNat 5 r.rd)) 8 i)
          ∧ (part ∈ r.parts → on part → (∀ x ∈ r.parts, on x → x = part) → y = ((bs[part.pa % 32 + (i - part.dst)]?).getD 0).toNat)))
  -- a word that another core owns is recalled by a step of its own, or at once
  ∧ (away → (∀ l, s.choices = 1 :: l → Gives (.sliceRequest th n) s (fun t => t.threads = s.threads ∧ t.cores = s.cores ∧ ∀ p, requestWord s th n = some (false, p) →
      (∃ x ∈ (s.die (q / 256)).recalls, x.pa = p) ∨ ∃ y, held s (q / 256) p = some y ∧ (t.die (q / 256)).recalls = (s.die (q / 256)).recalls ++ [{ pa := p, core := y.2.core }])))
  -- fills and recalls
  ∧ ((s.die d).fills[n]? = none → exec (.fillDataArrive d n) s = .next s)
  ∧ ((s.die d).fills[n]? = some f → (held s d fp).isSome = true → exec (.fillDataArrive d n) s = .next arrived)
  ∧ ((s.die d).fills[n]? = some f → held s d fp = none →
      (homeRead (fwdWait arrived d fp) (fp * 32) 32 f.ctx f.key f.cls = (u, some bs) →
        exec (.fillDataArrive d n) s = .next (install u d fp (wordOf bs) { ctx := f.ctx, key := f.key, cls := f.cls, ms := f.ms } (fp % 16) (fp % 16)))
      ∧ (homeRead (fwdWait arrived d fp) (fp * 32) 32 f.ctx f.key f.cls = (u, none) →
        exec (.fillDataArrive d n) s = .next (u.modDie d (fun x => { x with fills := x.fills.filter (fun g => g.pa / 512 != fp / 16) }))))
  ∧ ((s.die d).recalls[n]? = none → exec (.recallReturn d n) s = .next s)
  ∧ (∀ c, (s.die d).recalls[n]? = some { pa := p, core := c } → held s d p = some (sh, w) → w.owned = true →
      (s.core rc).l1.find? (fun e => e.1 == p) = some (p, l1) → Gives (.recallReturn d n) s (fun t =>
        (t.die d).recalls = ((s.die d).recalls.eraseIdx n).filter (fun x => x.pa != p)
        ∧ (∃ y : Sheaf, (l1.mask ≠ 0 → y.phw = l1.tag) ∧ held t d p = some (y, { w with
            owned := false
            data := wordMerge w.data 0 (maskBytes l1.data l1.mask)
            dirty := w.dirty || l1.mask != 0
            mask := w.mask ||| l1.mask }))
        ∧ (t.core rc).l1 = (s.core rc).l1.filter (fun e => e.1 != p) ∧ t.dram = s.dram ∧ t.threads = s.threads))
  -- merging
  ∧ ((∀ a ∈ l, ∀ b ∈ l, ¬ Adjacent a b) → Gives (.sheafMerge d slice set) s (fun t => (∀ j, j ≠ k → tget [] (t.die d).sets j = tget [] (s.die d).sets j)
      ∧ (tget [] (t.die d).sets k).map (fun y => { y with slot := 0 }) = l.map (fun y => { y with slot := 0 })))
  ∧ (SheavesApart l → (∃ a ∈ l, ∃ b ∈ l, Adjacent a b) → Gives (.sheafMerge d slice set) s (fun t => (tget [] (t.die d).sets k).length + 1 = l.length
      ∧ (∀ p, (held t d p).map Prod.snd = (held s d p).map Prod.snd) ∧ (∀ j, j ≠ d → t.die j = s.die j) ∧ t.cores = s.cores))
  -- phase boundaries
  ∧ (¬ ready → exec (.phaseBoundary node lev inst) s = .next s)
  ∧ (ready → Gives (.phaseBoundary node lev inst) s (fun t =>
      tget {} t.phases (phaseKey node lev inst) = { count := ph.count + 1, arrived := [], due := ph.arrived ++ ph.due }
      ∧ (∀ j, j ≠ phaseKey node lev inst → tget {} t.phases j = tget {} s.phases j) ∧ t.nodes = s.nodes
      ∧ ((∀ d, (s.die d).stamp + 256 < 2 ^ 16) → t.threads = s.threads
      ∧ (∀ q ∈ memberCores nd ms, (t.core q).l1 = (s.core q).l1.filter (fun e => e.2.own || !(e.2.ms || (sigs &&& sigBits (e.1 * 32)) == sigBits (e.1 * 32)))
          ∧ ((∀ k, k < 4 → (s.th (q * 4 + k)).st ∈ [ThState.running, .stopping, .stopped] → (s.th (q * 4 + k)).node = node ∧ (s.th (q * 4 + k)).rank ∈ ms) →
              (t.core q).sig = (s.core q).sigNew)
          ∧ (∀ k, k < 4 → (s.th (q * 4 + k)).st = .running → (s.th (q * 4 + k)).node ≠ node → (t.core q).sig = (s.core q).sig))
      ∧ (∀ q, q ∉ memberCores nd ms → (t.core q).l1 = (s.core q).l1 ∧ (t.core q).sig = (s.core q).sig))))
  -- range walks
  ∧ ((¬ ∃ x, TheWalk s n x) → exec (.rangeWalkVisit d n slice set) s = .next s ∧ exec (.rangeWalkComplete d n) s = .next s)
  ∧ (TheWalk s n x → (d, slice, set) ∉ x.sets → exec (.rangeWalkVisit d n slice set) s = .next s)
  ∧ (TheWalk s n x → (d, slice, set) ∈ x.sets → (s.die d).fills = [] → SheavesApart l → Gives (.rangeWalkVisit d n slice set) s (fun t =>
      (t.die home).walks = (s.die home).walks.map (fun y => if y.th / 4 * 2 ^ 32 + y.seq == n then { y with sets := y.sets.erase (d, slice, set) } else y)
      ∧ (∀ p, WalkCovers s x d k p → (x.inv = false → ∃ y, held t d p = some y ∧ y.2.dirty = false ∧ y.2.owned = false) ∧ (x.inv = true → held t d p = none))
      ∧ t.dram = s.dram ∧ t.threads = s.threads))
  ∧ (TheWalk s n x → (x.sets ≠ [] ∨ d ≠ home ∨ ∃ c ∈ s.cores, ∃ y ∈ c.2.chute, ∃ p ∈ y.words, ∃ g ∈ rs, g.1 / 32 ≤ p ∧ p ≤ g.2 / 32) →
      exec (.rangeWalkComplete d n) s = .next s)
  ∧ (TheWalk s n x → x.sets = [] → d = home → (∀ c ∈ s.cores, ∀ y ∈ c.2.chute, ∀ p ∈ y.words, ∀ g ∈ rs, p < g.1 / 32 ∨ g.2 / 32 < p) →
      Gives (.rangeWalkComplete d n) s (fun t =>
        (t.die d).walks = (s.die d).walks.filter (fun y => y.th / 4 * 2 ^ 32 + y.seq != n)
        ∧ (∀ th i, (t.th th).rh i = if (s.th th).rh i = .job { ctx := x.ctx, unit := 3, cl := q' / 8, core := q' % 8, seq := x.seq } then
            .settled (match x.fault with | some g => { state := 2, cause := g.1, info := g.2 } | none => {}) else (s.th th).rh i)
        ∧ t.dram = s.dram ∧ t.loc = s.loc))

end

namespace Sys2Proof.Claims
open Sys2Proof.Machine

/-- The owner of an operand slot or accumulator tile of a cluster as node + 1, 0 when unclaimed (R349). -/
def ownedBy (s : State) (cl : Nat) (acc : Bool) (i : Nat) : Nat := ownerOf (s.clus cl) acc i
/-- Every resource of a mask is unclaimed or held by a node (R350). -/
def Open (s : State) (cl : Nat) (x : Claim) : Prop :=
  ∀ i, i < 32 → x.mask.testBit i = true → ownedBy s cl x.acc i = 0 ∨ ownedBy s cl x.acc i = (s.th x.th).node + 1
/-- No accepted, uncompleted job of the cluster uses a resource of a mask (R350). -/
def Idle (s : State) (cl : Nat) (x : Claim) : Prop :=
  ∀ j ∈ (s.clus cl).jobs, j.st ≠ .submitted → ∀ i, i < 32 → x.mask.testBit i = true → i ∉ (if x.acc then j.uses.2 else j.uses.1)

/-- A job of a unit is ready to work, and works without a pause: it is accepted and its edges are met, or it works already; nothing parks it. -/
def Works (s : State) (cl unit n : Nat) (j : Job) : Prop :=
  s.choices = [] ∧ jobAt s cl unit n = some j ∧ j.th / 32 = cl ∧ j.unit = unit ∧ j.seq = n ∧ j.park = none
    ∧ (j.st = .running ∨ (j.st = .accepted ∧ edgesMet s cl unit n = true))

/-- An earlier entry of a unit holds a later one back (R196, R357): a region of theirs overlaps and one writes it, or they use one
accumulator tile or curve and one writes it. -/
def Holds2 (e l : Job) : Prop :=
  (∃ a ∈ e.foot, ∃ b ∈ l.foot, (a.write = true ∨ b.write = true) ∧ a.loc = b.loc ∧ a.lo < b.lo + b.len ∧ b.lo < a.lo + a.len
      ∧ (a.loc = true ∨ e.ctx = l.ctx))
    ∨ (∃ x ∈ l.scoreboard.2, x ∈ e.scoreboard.1 ∨ x ∈ e.scoreboard.2) ∨ (∃ x ∈ l.scoreboard.1, x ∈ e.scoreboard.2)

/-- How a job's work ends (R8, R162, R177): done, faulted with a cause and job information, parked, or held up by the budget. -/
def outcome (j : Job) (cl unit n : Nat) : Except JobStop PUnit.{1} × State → State
  | (.ok _, u) => modJob (endJob u cl unit n {}) cl unit n Job.commit
  | (.error (.fail c i), u) => endJob u cl unit n { state := 2, cause := c, info := i }
  | (.error (.park a c i w), u) => let p := newPark u (j.th / 4) j.ctx a c i w
    parkJob p.1 cl unit n p.2
  | (.error .stall, u) => u
/-- The parts of a job's work in order from the first that is not done yet; an access already performed is not repeated (R178), and what a part
has read is used up with it. -/
def works {α : Type} (cl unit n : Nat) (w : α → State → Except JobStop PUnit.{1} × State) : List (α × Nat) → State → Except JobStop PUnit.{1} × State
  | [], s => (.ok ⟨⟩, s)
  | (a, i) :: l, s => match w a s with
    | (.ok _, u) => works cl unit n w l (modJob u cl unit n (fun j => { j with prog := i + 1, got := [], gotAt := 0 }))
    | (.error x, u) => (.error x, u)
/-- What its present part has read comes first. -/
def again (s : State) (cl unit n : Nat) : State := modJob s cl unit n (fun j => { j with gotAt := 0 })
/-- The job works. -/
def working (s : State) (cl unit n : Nat) : State := again (modJob s cl unit n (fun j => { j with st := .running })) cl unit n

/-- R195: a job's result is known; a tile that a copy fills is told (R111). -/
def closed (s : State) (cl : Nat) (j : Job) (r : Settled) : State :=
  let u := (modJob s cl j.unit j.seq (fun j => { j with st := .ended, park := none, result := some r, got := [], gotAt := 0 })).modCore (j.th / 4)
    (fun c => { c with stalled := c.stalled.filter (fun x => x.1 != 8192 + j.seq * 4 + j.unit) })
  match j.tileD with
  | some k => if j.kind = .copy then u.modCore (j.th / 4) (fun c => { c with tiles := tset {} c.tiles k (filled (r.state != 1) (tget {} c.tiles k)) })
      else u
  | none => u

end Sys2Proof.Claims

section
open Sys2Proof Sys2Proof.Machine Sys2Proof.Claims

/-- R111, R177, R195, R196, R350, R356, R357, R365, R366: the queues of the engines: acceptance, grants and releases, edges, the entries
that load a curve or clear tiles, and how a job ends and completes. Rests on choices of the model: log entries 20, 24, 26, 30, 84, 89. -/
def Obligations.EngineQueues : Prop := ∀ (s : State) (cl unit n : Nat) (j : Job) (x : Claim) (c : Curve) (m : MxCard) (r : Settled) (p : Park),
  let l := (s.clus cl).jobs
  let pend := fun (x : Job) => x.unit = unit ∧ x.st = .submitted
  let turn := fun (x : Job) => (x.th / 4 % 8 + 8 - tget 0 (s.clus cl).arb unit % 8) % 8
  let queue := l.filter (fun x => x.unit == unit && x.st != .submitted)
  let gone := l.filter (fun x => !(x.unit == unit && x.seq == n))
  let u := (List.range 8).foldl (fun s st => nmuAll s st) (chuteFlush s (j.th / 4))
  let v := drainAll s j.th
  let ref : JobRef := { ctx := j.ctx, unit := j.unit, cl := j.th / 32, core := j.th / 4 % 8, seq := j.seq }
  let curve := exec (.mxcurveApply cl n) s
  let zero := exec (.mxzeroApply cl n) s
  let own := fun (t : State) (v : Nat) => ∀ b i, i < 32 → ownedBy t cl b i = if b = x.acc ∧ x.mask.testBit i = true then v else ownedBy s cl b i
  let rest := fun (t : State) => (t.clus cl).claims = (s.clus cl).claims.filter (fun y => y.th != x.th) ∧ (t.clus cl).jobs = l ∧ t.loc = s.loc ∧ t.dram = s.dram
    ∧ t.cur = s.cur ∧ t.blocked = s.blocked
  -- acceptance
  (32 ≤ queue.length ∨ (∀ y ∈ l, ¬ pend y) → exec (.engineJobAccept cl unit) s = .next s)
  ∧ (queue.length < 32 → pend j → l.find? (fun y => y.unit == unit && y.st == .submitted && y.th / 4 % 8 == j.th / 4 % 8) = some j →
      (∀ y ∈ l, pend y → turn j ≤ turn y) →
      (¬ ((v.th j.th).sb = [] ∧ sackOf v j.th = 0) → exec (.engineJobAccept cl unit) s = .next v)
      ∧ ((v.th j.th).sb = [] → sackOf v j.th = 0 → Gives (.engineJobAccept cl unit) s (fun t =>
        (t.clus cl).jobs = (v.clus cl).jobs.filter (fun y => !(y.unit == unit && y.seq == j.seq)) ++ [{ j with st := .accepted }]
        ∧ tget 0 (t.clus cl).arb unit = (j.th / 4 + 1) % 8 ∧ (t.th j.th).sub = false
        ∧ (t.th j.th).pc = follows (v.th j.th) (if j.kind = .zero then 8 else 16)
        ∧ (∀ k, (t.th j.th).rh k = if j.hd = some k then .job ref else (v.th j.th).rh k)
        ∧ (∀ k, (t.th j.th).rg k = (v.th j.th).rg k) ∧ t.loc = v.loc ∧ t.cur = v.cur ∧ t.blocked = v.blocked)))
  -- claims and releases
  ∧ ((∀ y ∈ (s.clus cl).claims, y.rel = true ∨ ¬ Open s cl y) → exec (.mxclaimGrant cl) s = .next s)
  ∧ (∀ a b, (s.clus cl).claims = a ++ x :: b → x.rel = false → Open s cl x → (∀ y ∈ a, y.rel = true ∨ ¬ Open s cl y) →
      Gives (.mxclaimGrant cl) s (fun t => own t ((s.th x.th).node + 1) ∧ rest t ∧ (t.th x.th).pc = follows (s.th x.th) 8
        ∧ (∀ k, (t.th x.th).rg k = ((s.th x.th).wg (BitVec.ofNat 5 x.rd) (BitVec.ofNat 64 x.mask)).rg k)))
  ∧ ((∀ y ∈ (s.clus cl).claims, y.rel = false ∨ ¬ Idle s cl y) → exec (.mxrelRelease cl) s = .next s)
  ∧ (∀ a b, (s.clus cl).claims = a ++ x :: b → x.rel = true → Idle s cl x → (∀ y ∈ a, y.rel = false ∨ ¬ Idle s cl y) →
      Gives (.mxrelRelease cl) s (fun t => own t 0 ∧ rest t ∧ (t.th x.th).pc = follows (s.th x.th) 8 ∧ ∀ k, (t.th x.th).rg k = (s.th x.th).rg k))
  -- edges
  ∧ (∀ a b, l.filter (fun y => y.unit == unit && y.st != .submitted) = a ++ j :: b → j.seq = n → (∀ y ∈ a, y.seq ≠ n) →
      (edgesMet s cl unit n = true ↔ ∀ e ∈ a, ¬ Holds2 e j))
  ∧ (j.kind = .mx → readMxCard j.card = some m →
      (∀ k, k ∈ j.scoreboard.2 ↔ k ∈ m.tiles)
      ∧ (∀ k, k ∈ j.scoreboard.1 ↔ (m.zero = false ∧ k ∈ m.tiles)
        ∨ (m.dend = true ∧ ∃ i, i < m.nch ∧ k = 8 + (m.cbase + field j.card (0x28 + i / 2) 1 / 16 ^ (i % 2) % 16) % 16)))
  -- a curve is loaded, tiles are cleared
  ∧ (jobAt s cl 0 n = some j → (j.kind ≠ .curve ∨ j.st ≠ .accepted ∨ edgesMet s cl 0 n = false → curve = .next s)
      ∧ (j.kind ≠ .zero ∨ j.st ≠ .accepted ∨ edgesMet s cl 0 n = false → zero = .next s))
  ∧ (jobAt s cl 0 n = none → curve = .next s ∧ zero = .next s)
  ∧ (unit = 0 → jobAt s cl 0 n = some j → j.kind = .curve → j.st = .accepted → edgesMet s cl 0 n = true → readCurve j.card = some c →
      Gives (.mxcurveApply cl n) s (fun t => (t.clus cl).jobs = gone ∧ (∀ k, tget {} (t.clus cl).curves k = if k = j.arg then c else tget {} (s.clus cl).curves k)
        ∧ (t.clus cl).acc = (s.clus cl).acc ∧ (t.clus cl).slots = (s.clus cl).slots ∧ t.threads = s.threads ∧ t.loc = s.loc ∧ t.dram = s.dram))
  ∧ (unit = 0 → jobAt s cl 0 n = some j → j.kind = .zero → j.st = .accepted → edgesMet s cl 0 n = true →
      Gives (.mxzeroApply cl n) s (fun t => (t.clus cl).jobs = gone
        ∧ (∀ k, tget 0 (t.clus cl).acc k = if j.arg.testBit (k / 32768) = true then 0 else tget 0 (s.clus cl).acc k)
        ∧ (t.clus cl).curves = (s.clus cl).curves ∧ (t.clus cl).slots = (s.clus cl).slots ∧ t.threads = s.threads ∧ t.loc = s.loc ∧ t.dram = s.dram))
  -- the end of a job
  ∧ (jobAt s cl unit n = some j → j.unit = unit → j.seq = n →
      (j.result = none → endJob s cl unit n r = closed s cl j r)
      ∧ (¬ QueueOn s (cl / 32) → parkJob s cl unit n p = endJob s cl unit n { state := 2, cause := p.cause })
      ∧ (QueueOn s (cl / 32) → ¬ QueueRoom s (cl / 32) ∨ recordWaits s (cl / 32) p.ord = true → parkJob s cl unit n p = modJob s cl unit n (fun j => { j with park := some { p with token := none } }))
      ∧ (unit < 3 → QueueOn s (cl / 32) → QueueRoom s (cl / 32) → recordWaits s (cl / 32) p.ord = false → ∃ v tok, Recorded s v (cl / 32) (cl % 32) (j.th / 4 % 8) (unit + 1) n j.ctx p tok
          ∧ parkJob s cl unit n p = modJob v cl unit n (fun j => { j with park := some { p with token := some tok } })))
  -- completion
  ∧ (jobAt s cl unit n = none → exec (.jobComplete cl unit n) s = .next s)
  ∧ (jobAt s cl unit n = some j → (j.result = none → exec (.jobComplete cl unit n) s = .next s)
      ∧ (j.result = some r → Gives (.jobComplete cl unit n) s (fun t => (t.clus cl).jobs = gone ∧ t.loc = s.loc ∧ t.dram = u.dram
          ∧ (∀ st, (t.stack st).msc = (u.stack st).msc ∧ (t.stack st).nmu = (u.stack st).nmu)
          ∧ (j.written.length ≤ 4096 → ∀ b ∈ j.written, (t.core (j.th / 4)).sig &&& sigBits (b * 64) = sigBits (b * 64))
          ∧ (4096 < j.written.length → (t.core (j.th / 4)).sig = BitVec.allOnes 1024)
          ∧ (∀ th k, (t.th th).rh k = if (u.th th).rh k = .job ref then .settled r else (u.th th).rh k)
          ∧ (∀ th k, (t.th th).rg k = (u.th th).rg k))))

end

namespace Sys2Proof.Claims
open Sys2Proof.Machine

/-! ### Matrix jobs -/

/-- Element `i` of width `w` of an operand region (R219, R351). -/
def operand (m : Mem) (at_ w i : Nat) : Nat :=
  if w = 4 then (tget 0 m (at_ + i / 2)).toNat / 16 ^ (i % 2) % 16 else bytesToNat (mread 0 m (at_ + i * (w / 8)) (w / 8))
/-- A's element (row, x) and B's element (x, column) of chunk `k` (R351). -/
def elemA (m : Mem) (c : MxCard) (k row x : Nat) : Nat :=
  operand m ((c.alist.getD k 0) / 8 * 32768 + (c.alist.getD k 0) % 8 * 4096) c.sh.ta.width (row * 128 + x)
def elemB (m : Mem) (c : MxCard) (k x col : Nat) : Nat := operand m (c.blist.getD k 0 * 32768) c.sh.tb.width (x * c.sh.n + col)

/-- The scales that preparation read (R359): KIND 1 f32, KIND 3 one e8m0 for 32 elements. -/
def scalarA (j : Job) (c : MxCard) (k row : Nat) : Nat := field j.scaleA ((row * c.nch + k) * 4) 4
def scalarB (j : Job) (c : MxCard) (k col : Nat) : Nat := field j.scaleB ((k * (c.sh.n / 128) + col / 128) * 4) 4
def blockA (j : Job) (c : MxCard) (k row x : Nat) : Nat := field j.scaleA (row * (4 * c.nch) + 4 * k + x / 32) 1
def blockB (j : Job) (c : MxCard) (k x col : Nat) : Nat := field j.scaleB ((128 * k + x) * (c.sh.n / 32) + col / 32) 1
/-- R230: an element under its e8m0 scale. -/
def scaledBy (x : Nat) (v : FVal) : FVal := if x = 0xFF then .nan false else v.scale ((x : Int) - 127)

/-- A chunk's term u (R233, R360). -/
def chunkTerm (j : Job) (m : Mem) (c : MxCard) (k row col : Nat) : Nat :=
  let f := numMode j.status
  let a := fun x => decF f c.sh.ta (elemA m c k row x)
  let b := fun x => decF f c.sh.tb (elemB m c k x col)
  let psum := (fsum false ((List.range 128).map (fun x =>
    (if c.kind = 3 then fmul (scaledBy (blockA j c k row x) (a x)) (scaledBy (blockB j c k x col) (b x)) else fmul (a x) (b x)).1))).1
  if c.kind = 1 then rne36 (fmul (f36v (rne36 psum)) (f32v (mul32 (scalarA j c k row) (scalarB j c k col)))).1 else rne36 psum
/-- Sat_i36(acc + psum) of a chunk (R234), as a pattern. -/
def chunkInt (m : Mem) (c : MxCard) (row col : Nat) (acc k : Nat) : Nat :=
  let x := valT .i36 acc + ((List.range 128).map (fun x => valT c.sh.ta (elemA m c k row x) * valT c.sh.tb (elemB m c k x col))).foldl (· + ·) 0
  ((max (-2 ^ 35) (min (2 ^ 35 - 1) x)) % 2 ^ 36).toNat

/-- The segment of a value in a curve (R362). -/
def Segment (c : Curve) (v : FVal) (j : Nat) : Prop :=
  let le := fun i => fcmpv (f32v (c.x.getD i 0).toNat) v = some .lt ∨ fcmpv (f32v (c.x.getD i 0).toNat) v = some .eq
  (j = 0 ∨ le j) ∧ j < max 1 c.nseg ∧ ∀ i, j < i → i < c.nseg → ¬ le i
/-- The value and the tap of a branch sum (R361). -/
def Branch (c : Curve) (sum y tap : Nat) : Prop :=
  let v := f32v (rne32 (f36v sum))
  if v.isNan then y = 0x7FC00000 ∧ tap = 0x7FC00000
  else ∃ j, Segment c v j ∧ y = fma32 (rne32 (fadd false v (f32v (c.x.getD j 0).toNat).neg).1) (c.m.getD j 0).toNat (c.y.getD j 0).toNat
    ∧ tap = mul32 c.gain.toNat (c.m.getD j 0).toNat
/-- The used branches in ascending order: what they add to the output, and their taps (R361). -/
def Branches (curve : Nat → Curve) (sum : Nat → Nat) : List Nat → Nat → Nat → List (Nat × Nat) → Prop
  | [], out, last, taps => last = out ∧ taps = []
  | b :: l, out, last, taps => ∃ y tap rest, Branch (curve b) (sum b) y tap ∧ taps = (b, tap) :: rest
    ∧ Branches curve sum l (add36 out (rne36 (fmul (f32v (curve b).gain.toNat) (f32v y)).1)) last rest

/-- A new element of the tile, and its taps (R360, R361). -/
def Element (j : Job) (k : Cluster) (c : MxCard) (row col old new : Nat) (taps : List (Nat × Nat)) : Prop :=
  let chunks := List.range c.nch
  let fed := fun b => chunks.filter (fun i => c.bmap.getD i 0 == b)
  let base := if c.zero then 0 else old
  if c.kind = 2 then new = chunks.foldl (chunkInt k.slots c row col) base ∧ taps = []
  else if c.dend = false then new = chunks.foldl (fun a i => add36 a (chunkTerm j k.slots c i row col)) base ∧ taps = []
  else ∃ out, Branches (fun b => tget {} k.curves (c.curve b)) (fun b => (fed b).foldl (fun a i => add36 a (chunkTerm j k.slots c i row col)) 0)
      ((List.range 16).filter (fun b => !(fed b).isEmpty)) 0 out taps ∧ new = if c.zero then out else add36 old out
/-- The place of output element (row, column) in the accumulator memory: tile, row, column (R351). -/
def outPlace (c : MxCard) (row col : Nat) : Nat :=
  if c.sh.n = 128 then c.acc * 32768 + row * 256 + c.half * 128 + col else (c.acc + col / 256) * 32768 + row * 256 + col % 256

/-- A job's progress, with a change. -/
def noted (s : State) (cl unit n k : Nat) (f : Job → Job) : State := modJob s cl unit n (fun j => { f j with prog := k, got := [], gotAt := 0 })
/-- The scale reads of a job (R359): of A or of B, the address, and the bytes. -/
def scaleReads (c : MxCard) (eA eB : List Byte) : List (Bool × Nat × Nat) :=
  let nA := field eA 8 4
  let nB := field eB 8 4
  let sA := field eA 0x28 8
  let sB := field eB 0x28 8
  if c.kind = 1 then
    (List.range 128).map (fun m => (true, sA + ((c.row0 * 128 + m) * ((nA + 127) / 128) + c.k0) * 4, 4 * c.nch))
      ++ (List.range c.nch).map (fun k => (false, sB + ((c.k0 + k) * ((nB + 127) / 128) + c.col0) * 4, 4 * (c.sh.n / 128)))
  else
    (List.range 128).map (fun m => (true, sA + (c.row0 * 128 + m) * ((nA + 31) / 32) + c.k0 * 128 / 32, 4 * c.nch))
      ++ (List.range (128 * c.nch)).map (fun x => (false, sB + (c.k0 * 128 + x) * ((nB + 31) / 32) + c.col0 * 128 / 32, c.sh.n / 32))
/-- One of them. -/
def scaleRead (cl n : Nat) (ag : Agent) (p : Bool × Nat × Nat) (s : State) : Except JobStop PUnit.{1} × State :=
  match (jRead ag p.2.1 p.2.2).run s with
  | (.ok bs, u) => (.ok ⟨⟩, modJob u cl 0 n (fun j => if p.1 then { j with scaleA := j.scaleA ++ bs } else { j with scaleB := j.scaleB ++ bs }))
  | (.error x, u) => (.error x, u)
/-- A tensor table entry serves an operand (R358 step 1). -/
def Serves (e : List Byte) (ty : Ty) (smode : Nat) : Prop :=
  let w := field e 0x24 4
  w.testBit 17 = true ∧ w / 2 ^ 8 % 4 ≤ 1 ∧ w % 64 = ty.code ∧ w / 2 ^ 12 % 4 = smode

/-! ### Drains, copies and optimiser commands -/

/-- A drained element as bits (R368). -/
def drained (f : NumMode) (c : DrainCard) (x : Nat) : Nat :=
  match c.dty with
  | .f36 => x
  | .i36 => (BitVec.ofNat 36 x).signExtend 64 |>.toNat
  | .f32 => (rndF f .f32 c.rm 0 (if c.srci then .ofInt (valT .i36 x) else f36v x)).1
  | t => if c.srci then patT t (max (least t) (min (greatest t) (valT .i36 x))) else (rndF f t c.rm 0 (f36v x)).1
/-- One word of a drain's row `m` is written (R368). -/
def drainWord2 (j : Job) (cl : Nat) (c : DrainCard) (p : Nat × Nat × Nat) (s : State) : Except JobStop PUnit.{1} × State :=
  let e := esize c.dty
  let x := fun k => drained (numMode j.status) c (tget 0 (s.clus cl).acc (c.acc * 32768 + p.1 * 256 + k)).toNat
  (jWrite j.agent p.2.1 ((List.range p.2.2).map (fun i =>
    let o := p.2.1 + i - (j.dst + p.1 * c.pitch)
    BitVec.ofNat 8 (x (o / e) / 256 ^ (o % e))))).run s
/-- The writes of the rows of a range. -/
def rowWords (start rows pitch len : Nat) : List (Nat × Nat × Nat) :=
  ((List.range rows).map (fun r => (outPieces (start + r * pitch) len).map (fun p => (r, p.1, p.2)))).flatten
/-- One word of a copy's destination row (R371). -/
def copyWord (j : Job) (cl : Nat) (c : CopyCard) (p : Nat × Nat × Nat) (s : State) : Except JobStop PUnit.{1} × State :=
  match (copyBytes j c p.1 (p.2.1 - (j.dst + p.1 * c.dpitch)) p.2.2).run s with
  | (.error x, u) => (.error x, u)
  | (.ok bs, u) => if c.dkind = 1 then (.ok ⟨⟩, u.modClus cl (fun x => { x with slots := mwrite 0 x.slots p.2.1 bs })) else (jWrite j.agent p.2.1 bs).run u

/-- R385: the new weight and moments of one element. -/
def stepOf (c : OptCard) (w g m v : Nat) : Nat × Nat × Nat :=
  let neg := fun x => x ^^^ 0x80000000
  if c.kind = 0 then
    let v1 := fma32 c.b1 m g
    (fma32 (neg c.lr) (fma32 c.wd w v1) w, v1, 0)
  else
    let m1 := fma32 c.b1 m (mul32 c.ob1 g)
    let v1 := fma32 c.b2 v (mul32 c.ob2 (mul32 g g))
    let u := rne32 (fdiv (f32v (mul32 m1 c.c1)) (f32v (add32 (rne32 (fsqrt (f32v (mul32 v1 c.c2))).1) c.eps))).1
    (fma32 (neg c.lr) (fma32 c.wd w u) w, m1, v1)
/-- R386: a block's moments requantised: the scale, and the bytes. -/
def Requantised (xs : List Nat) (scale : Nat) (bs : List Nat) : Prop :=
  let e4m3 := fmtOf .e4m3 false
  if ∃ x ∈ xs, (f32v x).isFin = false then scale = 0x7FC00000 ∧ bs = xs.map (fun _ => 0x7F)
  else ∃ a, (∀ x ∈ xs, x % 2 ^ 31 ≤ a) ∧ (a = 0 ∨ a ∈ xs.map (· % 2 ^ 31))
    ∧ scale = (if a = 0 then 0x3F800000 else rne32 (fdiv (f32v a) (.fin false 448 0)).1)
    ∧ bs = xs.map (fun x => (e4m3.round 0 0 false (fdiv (f32v x) (f32v scale)).1).1)
/-- The words of one array, of several, read or written one after another in a job. -/
def Places (ag : Agent) : List (Nat × Nat × Bool) → State → List (List (Nat × Page × Nat)) → State → Prop
  | [], s, ps, t => ps = [] ∧ t = s
  | (va, n, w) :: l, s, ps, t => ∃ p u rest, FinJ (optPlace ag va n w) s p u ∧ Places ag l u rest t ∧ ps = p :: rest
def ReadsAll (ag : Agent) : List (List (Nat × Page × Nat)) → State → List (List Byte) → State → Prop
  | [], s, bs, t => bs = [] ∧ t = s
  | p :: l, s, bs, t => ∃ b u rest, FinJ (optRead ag p) s b u ∧ ReadsAll ag l u rest t ∧ bs = b :: rest
def Writes (ag : Agent) : List (List (Nat × Page × Nat) × List Byte) → State → State → Prop
  | [], s, t => t = s
  | (p, b) :: l, s, t => ∃ u, FinJ (optWrite ag p b) s ⟨⟩ u ∧ Writes ag l u t
/-- Values as bytes of one width. -/
def packed (n : Nat) (l : List Nat) : List Byte := (l.map (natToBytes n)).flatten

/-! ### Chain jobs -/

/-- Element (b, j, a) of the slice of factor `k` (R373). -/
def factorElem (v : VTensor) (g : List (List Nat)) (k b j a : Nat) : Nat := (g.getD (k - 1) []).getD ((b * v.out k + j) * v.rank k + a) 0
/-- Digit `k` of an output position (R374). -/
def outDigit (v : VTensor) (e k : Nat) : Nat := e / (v.m.drop k).foldl (· * ·) 1 % v.out k
/-- P of R374 after factor `k` for the output digits of position `e`; 1.0 before the first. -/
def prodP (v : VTensor) (g : List (List Nat)) (e : Nat) : Nat → Nat → Nat
  | 0, _ => 0x3F800000
  | 1, a => factorElem v g 1 0 (outDigit v e 1) a
  | k + 2, a => (List.range (v.rank (k + 1))).foldl (fun t b => fma32 (prodP v g e (k + 1) b) (factorElem v g (k + 2) b (outDigit v e (k + 2)) a) t) 0
/-- Q of R379, `i` factors from the end; 1.0 behind the last. -/
def prodQ (v : VTensor) (g : List (List Nat)) (e : Nat) : Nat → Nat → Nat
  | 0, _ => 0x3F800000
  | i + 1, b => (List.range (v.rank (v.d - i))).foldl (fun t a => fma32 (factorElem v g (v.d - i) b (outDigit v e (v.d - i)) a) (prodQ v g e i a) t) 0
/-- C_k[b][j][a] of R379. -/
def gradient (v : VTensor) (g : List (List Nat)) (dy : List Nat) (k b j a : Nat) : Nat :=
  rne32 (fsum false (((List.range v.dim).filter (fun e => outDigit v e k == j)).map (fun e =>
    (fmul (fmul (f32v (prodP v g e (k - 1) b)) (f32v (dy.getD e 0))).1 (f32v (prodQ v g e (v.d - k) a))).1))).1
/-- The slices of row `i` are read at their homes, factor 1 first (R198, R373), and widened to f32. -/
def Slices (ag : Agent) (v : VTensor) (i : Nat) : List Nat → State → List (List Nat) → State → Prop
  | [], s, g, t => g = [] ∧ t = s
  | k :: l, s, g, t => ∃ bs u rest,
      let n := v.rank (k - 1) * v.out k * v.rank k
      let fs := if v.bf then 2 else 4
      FinJ (jReadHome ag ((v.fb.getD (k - 1) 0) + v.digit i k * n * fs) (n * fs)) s bs u ∧ Slices ag v i l u rest t
        ∧ g = (List.range n).map (fun x => if v.bf then field bs (2 * x) 2 * 2 ^ 16 else field bs (4 * x) 4) :: rest
/-- A value stored as the card's type (R378). -/
def storedAs (t : Ty) (x : Nat) : List Byte := if t = .bf16 then natToBytes 2 ((fmtOf .bf16 false).round 0 0 false (f32v x)).1 else natToBytes 4 x
/-- The work on one row or bag: its bytes are formed, then each word is written (R378, R381). -/
def outWork (cl n : Nat) (j : Job) (c : ChainCard) (make : Nat → J (List Byte)) (p : Nat × Option (Nat × Nat)) (s : State) : Except JobStop PUnit.{1} × State :=
  match p.2 with
  | none => (match (make p.1).run s with
    | (.ok bs, u) => (.ok ⟨⟩, modJob u cl 2 n (fun j => { j with scaleA := bs }))
    | (.error x, u) => (.error x, u))
  | some (va, len) => (jWrite j.agent va (((((jobAt s cl 2 n).getD j).scaleA.drop (va - (c.data + p.1 * c.pitch))).take len))).run s
def outList (c : ChainCard) (dim : Nat) : List (Nat × Option (Nat × Nat)) :=
  ((List.range c.count).map (fun p => (p, none) :: (outPieces (c.data + p * c.pitch) (dim * (c.dty.width / 8))).map (fun x => (p, some x)))).flatten
/-- List positions of a bag are taken one after another (R377, R381): the entry and the weight are checked, the row is read, and the
pooled row takes it. -/
def Pooled (j : Job) (c : ChainCard) : List Nat → List Nat → State → List Nat → State → Prop
  | [], acc, s, out, t => out = acc ∧ t = s
  | q :: l, acc, s, out, t => ∃ ib x u u1 u2 w, FinJ (listCheck j (c.list + 8 * q) 8 q) s ⟨⟩ s ∧ (c.wgt ≠ 0 → FinJ (listCheck j (c.wgt + 4 * q) 4 q) s ⟨⟩ s)
    ∧ FinJ (jRead j.agent (c.list + 8 * q) 8) s ib u ∧ FinJ (tableRow j j.entA (bytesToNat ib) q) u x u1
    ∧ (if c.wgt = 0 then w = 0x3F800000 ∧ u2 = u1 else ∃ wb, FinJ (jRead j.agent (c.wgt + 4 * q) 4) u1 wb u2 ∧ w = bytesToNat wb)
    ∧ Pooled j c l (List.zipWith (fun x a => fma32 w x a) x acc) u2 out t
/-- The adds of the factor in turn are sent (R380). -/
def sends (cl n : Nat) (ag : Agent) (k : Nat) : List (Nat × Nat × BitVec 32) → State → Except JobStop PUnit.{1} × State
  | [], s => (.ok ⟨⟩, s)
  | (f, va, x) :: l, s =>
    if f = k then (match (sendAdd ag va x).run s with
      | (.ok _, u) => sends cl n ag k l (modJob u cl 2 n (fun j => { j with adds := j.adds.drop 1 }))
      | (.error y, u) => (.error y, u))
    else sends cl n ag k l s
/-- What sending leaves: the job goes on when its adds are counted, or it ends short. -/
def afterSend (j : Job) (cl n : Nat) : Except JobStop PUnit.{1} × State → State
  | (.ok _, u) => modJob u cl 2 n Job.commit
  | r => outcome j cl 2 n r

end Sys2Proof.Claims

section
open Sys2Proof Sys2Proof.Machine Sys2Proof.Claims

/-- R351, R353, R358 to R363: a matrix job prepares and runs. Rests on choices of the model: log entries 25, 28, 29, 31, 89. -/
def Obligations.MatrixJobs : Prop := ∀ (s u1 u2 : State) (cl n : Nat) (j : Job) (c : MxCard) (e1 e2 : List Byte) (x : JobStop) (b : Nat) (l1 l2 : List Nat),
  let s0 := again s cl 0 n
  let prepare := exec (.mxjobPrepare cl n) s
  let run := exec (.mxjobRun cl n) s
  let scaled := c.kind = 1 ∨ c.kind = 3
  let table := fun i => (s.ctx j.ctx).ttbase.toNat + i * 64
  let count := (s.ctx j.ctx).ttcount.toNat
  let bad := fun (v : State) (cause info : Nat) => endJob v cl 0 n { state := 2, cause := cause, info := info }
  let soon := fun (b : Nat) => (tget {} (s.clus cl).curves (c.curve b)).loaded = true
    ∨ ∃ y ∈ ((s.clus cl).jobs.filter (fun y => y.unit == 0)).takeWhile (fun y => y.seq != n), y.kind = .curve ∧ y.arg = c.curve b ∧ y.st ≠ .submitted
  let curvesOk := c.dend = true → ∀ b ∈ c.used, soon b
  let firstBad := c.dend = true ∧ c.used = l1 ++ b :: l2 ∧ (∀ i ∈ l1, soon i) ∧ ¬ soon b
  let mode := fun (y : Nat) => if c.kind = 1 then y else 1
  let v1 := noted u1 cl 0 n 1 (fun j => { j with entA := e1 })
  let v2 := noted u2 cl 0 n 2 (fun j => { j with entB := e2 })
  let good := Serves e1 c.sh.ta (mode 2) ∧ Serves e2 c.sh.tb (mode 3)
  let same := field e1 0x30 4 = c.saver ∧ field e2 0x30 4 = c.sbver
  let k0 := if c.dend then 4 else 3
  let v4 := noted v2 cl 0 n k0 id
  let v5 := noted ((advanceStamp v4 (cl / 32)).modClus cl (fun y => { y with stamp := ((advanceStamp v4 (cl / 32)).die (cl / 32)).stamp })) cl 0 n (k0 + 1) id
  let t := works cl 0 n (scaleRead cl n j.agent) ((scaleReads c e1 e2).zipIdx (k0 + 1)) v5
  let ready := j.st = .prepared ∧ edgesMet s cl 0 n = true
    ∧ ∀ y ∈ ((s.clus cl).jobs.filter (fun y => y.unit == 0)).takeWhile (fun y => y.seq != n), y.kind = .mx → y.st = .prepared → edgesMet s cl 0 y.seq = false
  let dead := c.dend = true ∧ c.used = l1 ++ b :: l2 ∧ (∀ i ∈ l1, (tget {} (s.clus cl).curves (c.curve i)).loaded = true)
    ∧ (tget {} (s.clus cl).curves (c.curve b)).loaded = false
  let loaded := c.dend = true → ∀ b ∈ c.used, (tget {} (s.clus cl).curves (c.curve b)).loaded = true
  (jobAt s cl 0 n = none → prepare = .next s ∧ run = .next s)
  ∧ (jobAt s cl 0 n = some j → j.kind = .mx → j.th / 32 = cl → j.unit = 0 → j.seq = n → readMxCard j.card = some c → s.choices = [] →
    -- R358: preparation
    (j.st ≠ .accepted → prepare = .next s)
    ∧ (∀ p k, j.st = .accepted → j.park = some p → p.token = some k → prepare = .next s)
    ∧ (j.st = .accepted → j.park = none → j.prog = 0 →
      (¬ scaled → curvesOk → Gives (.mxjobPrepare cl n) s (fun t => t = noted s cl 0 n 0 (fun j => { j with st := .prepared })))
      ∧ (¬ scaled → firstBad → prepare = .next (bad s0 0x18 (c.curve b)))
      ∧ (scaled → count ≤ c.sa → prepare = .next (bad s0 0x0F c.sa))
      ∧ (scaled → c.sa < count → (jRead j.agent (table c.sa) 64).run s0 = (.error x, u1) → prepare = .next (outcome j cl 0 n (.error x, u1)))
      ∧ (scaled → c.sa < count → FinJ (jRead j.agent (table c.sa) 64) s0 e1 u1 →
        (count ≤ c.sb → prepare = .next (bad v1 0x0F c.sb))
        ∧ (c.sb < count → (jRead j.agent (table c.sb) 64).run v1 = (.error x, u2) → prepare = .next (outcome j cl 0 n (.error x, u2)))
        ∧ (c.sb < count → FinJ (jRead j.agent (table c.sb) 64) v1 e2 u2 →
          (¬ Serves e1 c.sh.ta (mode 2) → prepare = .next (bad v2 0x0F c.sa))
          ∧ (Serves e1 c.sh.ta (mode 2) → ¬ Serves e2 c.sh.tb (mode 3) → prepare = .next (bad v2 0x0F c.sb))
          ∧ (good → field e1 0x30 4 ≠ c.saver → prepare = .next (bad v2 0x10 (c.sa + field e1 0x30 4 * 2 ^ 32)))
          ∧ (good → field e1 0x30 4 = c.saver → field e2 0x30 4 ≠ c.sbver → prepare = .next (bad v2 0x10 (c.sb + field e2 0x30 4 * 2 ^ 32)))
          ∧ (good → same → firstBad → prepare = .next (bad (noted v2 cl 0 n 3 id) 0x18 (c.curve b)))
          ∧ (good → same → curvesOk →
            prepare = .next (match t with
              | (.ok _, u) => noted u cl 0 n 0 (fun j => { j with st := .prepared })
              | r => outcome j cl 0 n r)))))
    -- R358, R360 to R363: running
    ∧ (¬ ready → run = .next s)
    ∧ (ready → dead → run = .next (bad s 0x18 (c.curve b)))
    ∧ (∀ base, ready → loaded → j.result = none → (c.tap = true → j.dst = 0xFF00000000000000 + base ∧ base + c.tapBytes ≤ 2 ^ 19) →
      Gives (.mxjobRun cl n) s (fun t => jobAt t cl 0 n = some { j with st := .ended, park := none, result := some {}, got := [], gotAt := 0 }
        ∧ (∀ row col, row < 128 → col < c.sh.n → ∃ e taps,
          Element j (s.clus cl) c row col (tget 0 (s.clus cl).acc (outPlace c row col)).toNat e taps
            ∧ tget 0 (t.clus cl).acc (outPlace c row col) = BitVec.ofNat 36 e
            ∧ (c.tap = true → ∀ b, b < c.nbr → ∃ y, ((b, y) ∈ taps ∨ ((∀ p ∈ taps, p.1 ≠ b) ∧ y = 0))
              ∧ locRead t (loftKey (j.th / 4) (base + ((b * 128 + row) * c.sh.n + col) * 4)) 4 = natToBytes 4 y))
        ∧ (∀ k, (∀ row col, row < 128 → col < c.sh.n → k ≠ outPlace c row col) → tget 0 (t.clus cl).acc k = tget 0 (s.clus cl).acc k)
        ∧ (∀ a, (c.tap = false ∨ a < loftKey (j.th / 4) base ∨ loftKey (j.th / 4) base + c.tapBytes ≤ a) → locRead t a 1 = locRead s a 1)
        ∧ (t.clus cl).slots = (s.clus cl).slots ∧ (t.clus cl).curves = (s.clus cl).curves ∧ t.threads = s.threads ∧ t.dram = s.dram)))

/-- R219, R367 to R371, R383 to R386: drains, copies and optimiser commands run. Rests on choices of the model: log entries 25, 28, 32, 81, 89. -/
def Obligations.DataJobs : Prop := ∀ (s : State) (cl n : Nat) (j : Job) (d : DrainCard) (c : CopyCard) (o : OptCard) (i : Nat)
    (ps : List (List (Nat × Page × Nat))) (bs : List (List Byte)) (s1 s2 s3 t : State),
  let idle := fun (unit : Nat) (k : JobKind) => jobAt s cl unit n = some j ∧ (j.kind ≠ k ∨ (j.st ≠ .running ∧ (j.st ≠ .accepted ∨ edgesMet s cl unit n = false)))
  let open_ := fun (unit : Nat) => endJob (working s cl unit n) cl unit n { state := 2, cause := 0x0F }
  let kind2 := o.kind = 2
  let m := if kind2 then 128 else 1
  let e := if kind2 then 1 else 4
  let arrays := [(o.w + 4 * m * i, 4 * m, true), (o.g + 4 * m * i, 4 * m, o.clrg), (o.m1 + e * m * i, e * m, true)]
    ++ (if o.kind = 0 then [] else [(o.m2 + e * m * i, e * m, true)]) ++ (if kind2 then [(o.s1 + 4 * i, 4, true), (o.s2 + 4 * i, 4, true)] else [])
    ++ (if o.shadow then [(o.sh + 2 * m * i, 2 * m, true)] else [])
  let p := fun k => ps.getD k []
  let sh := if o.shadow then p (ps.length - 1) else []
  let charged := p 0 ++ p 2 ++ (if o.kind = 0 then [] else p 3) ++ (if kind2 then p 4 ++ p 5 else []) ++ sh ++ (if o.clrg then p 1 else [])
  let f := fun k x => field (bs.getD k []) (4 * x) 4
  let dec := fun k sc x => rne32 (fmul ((fmtOf .e4m3 false).dec (field (bs.getD k []) x 1)) (f32v (f sc 0))).1
  let new := fun x => stepOf o (f 0 x) (f 1 x) (if kind2 then dec 2 4 x else f 2 x) (if o.kind = 0 then 0 else if kind2 then dec 3 5 x else f 3 x)
  let news := (List.range m).map new
  let tail := (if o.shadow then [(sh, packed 2 (news.map (fun x => ((fmtOf .bf16 false).round 0 0 false (f32v x.1)).1)))] else [])
    ++ (if o.clrg then [(p 1, packed 4 (List.replicate m 0))] else [])
  -- what is not ready, or is parked, waits
  (idle 0 .drain → exec (.mxdrainRun cl n) s = .next s)
  ∧ (idle 1 .copy → exec (.cpjobRun cl n) s = .next s)
  ∧ (idle 2 .opt → exec (.optjobRun cl n) s = .next s)
  ∧ (jobAt s cl 0 n = none → exec (.mxdrainRun cl n) s = .next s)
  ∧ (jobAt s cl 1 n = none → exec (.cpjobRun cl n) s = .next s)
  ∧ (jobAt s cl 2 n = none → exec (.optjobRun cl n) s = .next s)
  -- R367, R368
  ∧ (Works s cl 0 n j → j.kind = .drain → readDrain j.card = some d →
    (d.rm = 5 → exec (.mxdrainRun cl n) s = .next (open_ 0))
    ∧ (d.rm ≠ 5 → exec (.mxdrainRun cl n) s = .next (outcome j cl 0 n
        (works cl 0 n (drainWord2 j cl d) ((rowWords j.dst 128 d.pitch (256 * esize d.dty)).zipIdx.drop j.prog) (working s cl 0 n)))))
  -- R369 to R371
  ∧ (Works s cl 1 n j → j.kind = .copy → readCopy j.card = some c →
    (c.rm = 5 → exec (.cpjobRun cl n) s = .next (open_ 1))
    ∧ (c.rm ≠ 5 → exec (.cpjobRun cl n) s = .next (outcome j cl 1 n
        (works cl 1 n (copyWord j cl c) ((rowWords j.dst (if c.trans then c.cols else c.rows) c.dpitch (c.dcols * c.dty.width / 8)).zipIdx.drop j.prog)
          (working s cl 1 n)))))
  ∧ (∀ r off len, let w := c.dty.width
      let first := off * 8 / w
      let last := ((off + len) * 8 + w - 1) / w
      (copyBytes j c r off len).run s = match (((List.range (last - first)).mapM (fun k => copyElem j c r (first + k))).run s : Except JobStop (List Nat) × State) with
        | (.ok xs, u) => (.ok (natToBytes len (xs.foldr (fun x a => x % 2 ^ w + 2 ^ w * a) 0 / 2 ^ (off * 8 - first * w))), u)
        | (.error x, u) => (.error x, u))
  ∧ (∀ r k, let row := if c.trans then k else r
      let col := if c.trans then r else k
      let w := c.sty.width
      (copyElem j c r k).run s = match (copyRead j c (row * c.spitch + col * w / 8) ((w + 7) / 8)).run s with
        | (.ok b, u) =>
          let x := if w = 4 then bytesToNat b / 16 ^ (col % 2) % 16 else bytesToNat b
          (.ok (if c.sty = c.dty then x else (cvt (numMode j.status) c.sty c.dty c.rm 0 x).1), u)
        | (.error x, u) => (.error x, u))
  ∧ (∀ off len, (copyRead j c off len).run s =
      if c.skind = 1 then (jLog j.agent (return mread 0 ((← get).clus (j.th / 32)).slots (j.src + off) len)).run s else (jRead j.agent (j.src + off) len).run s)
  -- R383 to R386
  ∧ (Works s cl 2 n j → j.kind = .opt → readOpt j.card = some o →
    exec (.optjobRun cl n) s = .next (outcome j cl 2 n
      (works cl 2 n (fun i s => (optEvent j.agent o i).run s) ((List.range (o.nel / m)).zipIdx.drop j.prog) (working s cl 2 n))))
  ∧ (o.kind < 3 → Places j.agent arrays s ps s1 → FinJ (optCharge j.agent charged) s1 ⟨⟩ s2 → ReadsAll j.agent (if o.shadow then ps.dropLast else ps) s2 bs s3 →
    (¬ kind2 → Writes j.agent ([(p 0, packed 4 (news.map (·.1))), (p 2, packed 4 (news.map (·.2.1)))]
        ++ (if o.kind = 1 then [(p 3, packed 4 (news.map (·.2.2)))] else []) ++ tail) s3 t →
      FinJ (optEvent j.agent o i) s ⟨⟩ t)
    ∧ (∀ sc1 b1 sc2 b2, kind2 → Requantised (news.map (·.2.1)) sc1 b1 → Requantised (news.map (·.2.2)) sc2 b2 →
      Writes j.agent ([(p 0, packed 4 (news.map (·.1))), (p 2, packed 1 b1), (p 4, natToBytes 4 sc1), (p 3, packed 1 b2), (p 5, natToBytes 4 sc2)] ++ tail) s3 t →
      FinJ (optEvent j.agent o i) s ⟨⟩ t))

/-- R360 to R362, R374, R379: what the engines compute: the elements of a matrix job with their taps, the rows of a virtual tensor, and
the gradients of its factors. -/
def Obligations.EngineArithmetic : Prop :=
  (∀ (j : Job) (k : Cluster) (c : MxCard) (row col old : Nat), readMxCard j.card = some c →
    Element j k c row col old (mxElement j k c row col old).1 (mxElement j k c row col old).2)
  ∧ (∀ (e : List Byte) (v : VTensor) (g : List (List Nat)) (dy : List Nat), readVTensor e = some v →
    evalRow v g = (List.range v.dim).map (fun e => prodP v g e v.d 0)
    ∧ ∀ k b y a, 1 ≤ k → k ≤ v.d → b < v.rank (k - 1) → y < v.out k → a < v.rank k →
      (contrib v g dy k)[(b * v.out k + y) * v.rank k + a]? = some (gradient v g dy k b y a))

/-- R198, R373, R377, R378, R380, R381: chain jobs. Rests on choices of the model: log entries 25, 27, 29, 31, 32, 89. -/
def Obligations.ChainJobs : Prop := ∀ (s u u1 t : State) (cl n : Nat) (j : Job) (c : ChainCard) (e : List Byte) (v : VTensor) (g : List (List Nat))
    (dy : List Nat) (ib db : List Byte) (p q : Nat) (ap : Bool),
  let s0 := working s cl 2 n
  let start := exec (.chainJobStart cl n) s
  let count := exec (.chstFactorCounted cl n) s
  let x := s.ctx j.ctx
  let va := x.ttbase.toNat + c.tidx * 64
  let bad := fun (v : State) (cause : Nat) => endJob v cl 2 n { state := 2, cause := cause }
  let valid := fun (e : List Byte) => (field e 0x24 4).testBit 17 = true
  let layout := fun (e : List Byte) => field e 0x24 4 / 2 ^ 8 % 4
  let plain := layout e = 0 ∧ field e 0x24 4 / 2 ^ 12 % 4 = 0 ∧ field e 0x24 4 % 64 ∈ [Ty.f32.code, Ty.bf16.code, Ty.f16.code]
    ∧ field e 0x10 4 = 1 ∧ field e 0x14 4 = 1 ∧ field e 8 4 ≤ 8192
  let pairAt := layout e = 2 ∧ c.tidx + 1 < x.ttcount.toNat ∧ va % 512 + 128 ≤ 512
  let second := fun (e : List Byte) => (field e 0x24 4).testBit 17 && layout e == 2
    && (decide (c.tidx + 1 < x.ttcount.toNat) && decide (va % 512 + 128 ≤ 512))
  let coded := fun (e : List Byte) => ∃ t : Ty, t.code = field e 0x24 4 % 64
  let pair := layout e = 2 ∧ valid (e.drop 64) ∧ layout (e.drop 64) = 3 ∧ coded e ∧ coded (e.drop 64)
  let gb := fun k => field j.entB (8 * (k - 1)) 8
  let gbOk := ∀ k, 1 ≤ k → k ≤ 8 → (gb k ≠ 0 ↔ k ≤ v.d)
  let fits := fun (dim : Nat) => dim * (c.dty.width / 8) ≤ c.pitch ∧ (isLocal c.data = true ∨ c.data + c.count * c.pitch ≤ 2 ^ 55)
  let fresh := Works s cl 2 n j ∧ readChain j.kind j.card = some c ∧ j.entA = []
  let resumed := Works s cl 2 n j ∧ readChain j.kind j.card = some c ∧ j.entA ≠ []
  let j1 := fun (e : List Byte) => { j with st := .running, entA := e }
  let rows := fun (e : List Byte) (dim : Nat) (s : State) => outcome j cl 2 n (works cl 2 n
    (outWork cl n (j1 e) c (fun p => if j.kind = .gpool then poolBag (j1 e) c p else loadRow (j1 e) c p)) ((outList c dim).zipIdx.drop j.prog) s)
  let ag := j.agent
  let value := fun (g : List (List Nat)) => (List.range v.dim).map (fun e => prodP v g e v.d 0)
  let jv := { j with entA := e }
  let dim := if layout e = 0 then field e 8 4 else v.dim
  let ks := (List.range v.d).map (· + 1)
  let w := c.dty.width / 8
  let size := fun k => v.rank (k - 1) * v.out k * v.rank k
  let adds := fun (g : List (List Nat)) (dy : List Nat) => (ks.reverse.map (fun k => (List.range (size k)).map (fun y =>
    let x := gradient v g dy k (y / (v.out k * v.rank k)) (y / v.rank k % v.out k) (y % v.rank k)
    (k, (if ap then v.fb.getD (k - 1) 0 else gb k) + (v.digit q k * size k + y) * 4,
      BitVec.ofNat 32 (if ap then mul32 (c.lr ^^^ 0x80000000) x else x))))).flatten
  let unique := ∀ y ∈ (s.clus cl).jobs, y.unit = 2 → y.seq = n → y = j
  let counted := (List.range 8).foldl (fun s st => (nmuAll s st).modStack st (fun k => { k with chain := tdel (j.th / 4) k.chain })) (chuteFlush s (j.th / 4))
  let next := modJob counted cl 2 n (fun j => { j with factor := 0, prog := j.prog + 1 })
  -- a job that is not ready
  (jobAt s cl 2 n = none → start = .next s ∧ count = .next s)
  ∧ (jobAt s cl 2 n = some j → (j.kind = .opt ∨ (j.st ≠ .running ∧ (j.st ≠ .accepted ∨ edgesMet s cl 2 n = false)) → start = .next s)
    ∧ (j.st ≠ .running ∨ j.factor = 0 ∨ j.park ≠ none → count = .next s))
  -- R377: the start of a job
  ∧ (fresh → j.kind ≠ .opt →
    (x.ttcount.toNat ≤ c.tidx → start = .next (bad s0 0x0F))
    ∧ (c.tidx < x.ttcount.toNat → FinJ (jReadEntry ag va second) s0 e u →
      (¬ valid e → start = .next (bad u 0x0F))
      ∧ (valid e → j.kind = .gpool → layout e = 0 → ¬ plain → start = .next (bad u 0x0F))
      ∧ (valid e → j.kind = .gpool → plain → ¬ fits (field e 8 4) → start = .next (bad u 0x05))
      ∧ (valid e → j.kind = .gpool → plain → fits (field e 8 4) →
          start = .next (rows e (field e 8 4) (modJob u cl 2 n (fun j => { j with entA := e, got := [], gotAt := 0 }))))
      ∧ (valid e → ¬ (j.kind = .gpool ∧ layout e = 0) → ¬ pairAt → start = .next (bad u 0x0F))
      ∧ (valid e → pairAt →
        (¬ pair → start = .next (bad u 0x0F))
        ∧ (pair → readVTensor e = none → start = .next (bad u 0x15))
        ∧ (pair → readVTensor e = some v →
          (j.kind = .chst true → v.bf = true → start = .next (bad u 0x15))
          ∧ (j.kind = .chst false → ¬ gbOk → start = .next (bad u 0x15))
          ∧ ((j.kind = .chst true → v.bf = false) → (j.kind = .chst false → gbOk) → ¬ fits v.dim → start = .next (bad u 0x05))
          ∧ (j.kind = .chld ∨ j.kind = .gpool → fits v.dim → start = .next (rows e v.dim (modJob u cl 2 n (fun j => { j with entA := e, got := [], gotAt := 0 }))))))))
  -- a job that was held up goes on
  ∧ (resumed → j.kind = .chld ∨ j.kind = .gpool → layout j.entA = 0 → start = .next (rows j.entA (field j.entA 8 4) s0))
  ∧ (resumed → j.kind = .chld ∨ j.kind = .gpool → layout j.entA ≠ 0 → readVTensor j.entA = some v → start = .next (rows j.entA v.dim s0))
  -- R378, R381: a row of chld, a row and a bag of gpool
  ∧ (layout e ≠ 0 → readVTensor e = some v →
    (v.rows ≤ p → (tableRow jv e p q).run s = (.error (.fail 0x15 q), s))
    ∧ (p < v.rows → Slices ag v p ks s g t → FinJ (tableRow jv e p q) s (value g) t))
  ∧ (FinJ (jRead ag (c.list + 8 * p) 8) s ib u →
    (∀ y, FinJ (tableRow jv e (bytesToNat ib) p) u y t → FinJ (loadRow jv c p) s (y.map (storedAs c.dty)).flatten t)
    ∧ (∀ y, (tableRow jv e (bytesToNat ib) p).run u = (.error y, t) → (loadRow jv c p).run s = (.error y, t)))
  ∧ (layout e = 0 → field e 12 4 ≤ p → (tableRow jv e p q).run s = (.error (.fail 0x15 q), s))
  ∧ (plain → p < field e 12 4 → let es := if field e 0x24 4 % 64 = Ty.f32.code then 4 else 2
      FinJ (jRead ag (field e 0 8 + p * field e 0x18 4 * es) (field e 8 4 * es)) s ib u →
      FinJ (tableRow jv e p q) s ((List.range (field e 8 4)).map (fun x => if field e 0x24 4 % 64 = Ty.f32.code then field ib (4 * x) 4
        else if field e 0x24 4 % 64 = Ty.bf16.code then field ib (2 * x) 2 * 2 ^ 16 else rne32 ((fmtOf .f16 false).dec (field ib (2 * x) 2)))) u)
  ∧ (layout e = 0 ∨ readVTensor e = some v → FinJ (jRead ag (c.offs + 4 * p) 4) s ib u → FinJ (jRead ag (c.offs + 4 * p + 4) 4) u db u1 →
    (bytesToNat db < bytesToNat ib → (poolBag jv c p).run s = (.error (.fail 0x15 p), u1))
    ∧ (∀ out, bytesToNat ib ≤ bytesToNat db →
        Pooled jv c ((List.range (bytesToNat db - bytesToNat ib)).map (bytesToNat ib + ·)) (List.replicate dim 0) u1 out t →
        FinJ (poolBag jv c p) s (out.map (storedAs c.dty)).flatten t)
    ∧ (∀ out f, bytesToNat ib ≤ q → q < bytesToNat db → isLocal (c.list + 8 * q) = true →
        Pooled jv c ((List.range (q - bytesToNat ib)).map (bytesToNat ib + ·)) (List.replicate dim 0) u1 out t →
        localCheck t (j.th / 4) j.ctx (j.status.getLsbD 0) (c.list + 8 * q) 8 = .error f → (poolBag jv c p).run s = (.error (.fail f.cause q), t)))
  -- R379, R380: a row of chst
  ∧ (resumed → j.kind = .chst ap → readVTensor j.entA = some v → j.factor = 0 → FinJ (jRead ag (c.list + 8 * j.prog) 8) s0 ib u → q = bytesToNat ib →
    (v.rows ≤ q → start = .next (endJob u cl 2 n { state := 2, cause := 0x15, info := j.prog }))
    ∧ (q < v.rows → Slices ag v q ks u g u1 → FinJ (jRead ag (c.data + j.prog * c.pitch) (v.dim * w)) u1 db t →
      dy = (List.range v.dim).map (fun x => if c.dty = .bf16 then field db (2 * x) 2 * 2 ^ 16 else field db (4 * x) 4) →
      start = .next (afterSend j cl n (sends cl n ag v.d (adds g dy) (modJob t cl 2 n (fun j => { j with adds := adds g dy, factor := v.d, got := [], gotAt := 0 }))))))
  ∧ (resumed → j.kind = .chst ap → readVTensor j.entA = some v → j.factor ≠ 0 →
    start = .next (afterSend j cl n (sends cl n ag j.factor j.adds s0)))
  ∧ (∀ pa pg ad, FinJ (jTranslate ag p .write) s (pa, pg) u → FinJ (jCharge ag [stackOf pa]) u ⟨⟩ u1 →
    let b := noteBlock ag pa u1
    FinJ (sendAdd ag p ad) s ⟨⟩ (chuteRoute (trimWord (l1Release b ag.q (pa / 32)) (ag.q / 256) (pa / 32)) ag.q
      { mkWrite pa [] ag.ctx pg.key pg.cls true true with op := some (.amo 7 .f32 ad.toNat), chain := true }))
  ∧ (unique → resumed → j.kind = .chst ap → j.st = .running → j.factor ≠ 0 →
    ((∃ a ∈ j.adds, a.1 = j.factor) → count = start)
    ∧ ((∀ a ∈ j.adds, a.1 ≠ j.factor) →
      (1 < j.factor → count = exec (.chainJobStart cl n) (modJob counted cl 2 n (fun j => { j with factor := j.factor - 1 })))
      ∧ (j.factor = 1 → c.count ≤ j.prog + 1 → count = .next (endJob next cl 2 n {}))
      ∧ (j.factor = 1 → j.prog + 1 < c.count → count = exec (.chainJobStart cl n) next)))

end

namespace Sys2Proof.Claims
open Sys2Proof.Machine

/-- The session changed. -/
def inZdb (s : State) (f : Zdb → Zdb) : State := { s with zdb := f s.zdb }
/-- A command prints lines and changes nothing else (R406). -/
def Prints (i : Instr) (s : State) (l : List (List Nat)) : Prop := exec i s = .next (inZdb s (fun z => { z with out := z.out ++ l }))
/-- A live thread of the session. -/
def OfSession (s : State) (th : Nat) : Prop := (s.th th).st ∈ [ThState.running, .stopping, .stopped] ∧ (s.th th).node ∈ s.zdb.nodes
/-- A thread stands at a breakpoint of the session that it has not just left (R406, R407). -/
def AtBreak (s : State) (th : Nat) : Prop :=
  let t := s.th th
  s.zdb.held = false ∧ s.zdb.passed ≠ some th ∧ t.st = .running ∧ t.node ∈ s.zdb.nodes
    ∧ ∃ b ∈ s.zdb.breaks, b.addr = t.pc ∧ (b.core = none ∨ b.core = some (th / 4))
/-- The thread that a command means: the current one, or the first of the session on a core. -/
def Meant (s : State) (q : Option Nat) (th : Nat) : Prop :=
  match q with
  | none => th = s.zdb.cur.getD 0
  | some q => (∃ k, k < 4 ∧ th = q * 4 + k ∧ OfSession s th ∧ ∀ i, i < k → ¬ OfSession s (q * 4 + i))
      ∨ (th = q * 4 ∧ ∀ i, i < 4 → ¬ OfSession s (q * 4 + i))
/-- Tag bits of the words of a sheaf (R128). -/
def tagMask (x : Sheaf) (f : SheafWord → Bool) : Nat := (x.words.zipIdx.map (fun (w, i) => if f w then 2 ^ (x.s + i) else 0)).foldl (· + ·) 0
/-- The session's records are sealed in order; an accepted one joins the session (R407). -/
def Seals (c : Nat) : List (List Byte) → State → State → Prop
  | [], s, t => t = s
  | r :: l, s, t => ∃ u v, exec (.intakeRecordWrite c 0 (r.take 0xF8)) s = .next u ∧ exec (.intakeRecordWrite c 0xF8 ((r.drop 0xF8).take 8)) u = .next v
    ∧ (let id := fun (s : State) => if (s.ctx c).count = 0 then 0 else c * 2 ^ 40 + (s.ctx c).count
       if id v = id s then Seals c l v t
       else Seals c l (inZdb v (fun z => { z with nodes := z.nodes ++ [id v], out := z.out ++ [[(v.dieClock 0).toNat, id v]] })) t)

end Sys2Proof.Claims

section
open Sys2Proof Sys2Proof.Machine Sys2Proof.Claims

/-- R88, R406, R407, R409, R410: the debugger. Rests on choices of the model: log entries 69, 89. -/
def Obligations.Debugger : Prop := ∀ (s u : State) (th k a n d : Nat) (addr pc : Word) (q : Option Nat) (ty : Ty) (l : List Turn) (bs : List Byte) (pg : Page) (pa : Nat)
    (ln : List (List Nat)),
  let z := s.zdb
  let clk := (s.dieClock 0).toNat
  let cur := z.cur.getD 0
  let t := s.th cur
  let core := s.core (cur / 4)
  let hold := fun (z : Zdb) => { z with held := true, cur := some th, steps := 0, out := z.out ++ [[clk, th / 4, th % 4, (s.th th).pc.toNat]] }
  let waits := fun i => OfSession s i ∧ ∃ w, (s.th i).wire = some w ∧ w.result = none
  let corner := fun i => wireXY (i / 1024) ((s.core (i / 4)).wiregrp.toNat % 16) ((s.core (i / 4)).wiregrp.toNat / 16 % 16)
  let levels := (s.node t.node).lrec.levels
  let inst := fun j => (List.range (j + 1)).foldl (fun a i => a * ((levels[i]?).map (·.count)).getD 1 + t.idx.getD i 0) 0
  let phase := fun j => tget {} s.phases (t.node * 2 ^ 16 + j * 2 ^ 13 + inst j)
  let stopped := z.held = true ∧ (s.th th).node ∈ z.nodes ∧ (s.th th).pkt = none ∧ ¬ (z.cur = some th ∧ z.steps ≠ 0)
  -- R406: a breakpoint holds the session; what is held does not issue and is not placed
  (¬ AtBreak s th → exec (.zdbBreakpointHold th) s = .next s)
  ∧ (AtBreak s th → (∀ i, ¬ waits i) → exec (.zdbBreakpointHold th) s = .next (inZdb s hold))
  ∧ (AtBreak s th → (∀ i, waits i → ¬ Complete s (corner i)) → (∀ q, (s.core q).wireNew = none ∧ (s.core q).tmoNew = none) →
      Gives (.zdbBreakpointHold th) s (fun v => v.zdb = hold z ∧ (∀ i, waits i → v.th i = { s.th i with wire := none }) ∧ (∀ i, ¬ waits i → v.th i = s.th i)
        ∧ v.loc = s.loc ∧ v.dram = s.dram ∧ v.nodes = s.nodes))
  ∧ (s.powered = true → s.agenda = .thread th :: l → stopped → step s = .next { s with clock := s.clock + 1, blocked := false, agenda := l })
  ∧ (z.held = true → (∀ e ∈ s.nodes, e.2.st = .ready → e.1 ∈ z.nodes) → s.nodes.Pairwise (fun a b => a.1 < b.1) →
      Gives (.dispatchDecision d) s (fun v => ∀ i, (v.node i).st = (s.node i).st ∧ (v.node i).place = (s.node i).place ∧ (v.node i).victimOf = (s.node i).victimOf))
  -- R407: commands
  ∧ exec (.zdbBreak addr q) s = .next (inZdb s (fun z => { z with breaks := z.breaks ++ [{ addr := addr, core := q }] }))
  ∧ (z.ctx < 256 → Seals z.ctx z.records s u → exec .zdbRun s = .next (inZdb u (fun z => { z with held := false, steps := 0, passed := none })))
  ∧ (z.held = false → exec .zdbCont s = .next s ∧ exec (.zdbStep n) s = .next s ∧ exec .zdbStepTimeout s = .next s)
  ∧ (z.held = true → exec .zdbCont s = .next (inZdb s (fun z => { z with held := false, steps := 0, passed := z.cur, out := z.out ++ [[clk]] }))
      ∧ exec (.zdbStep n) s = .next (inZdb s (fun z => { z with steps := n, passed := z.cur, deadline := s.clock + 100000 }))
      ∧ (z.steps = 0 ∨ s.clock < z.deadline → exec .zdbStepTimeout s = .next s)
      ∧ (z.steps ≠ 0 → z.deadline ≤ s.clock → exec .zdbStepTimeout s = .next (inZdb s (fun z => { z with steps := 0, out := z.out ++ [[clk, z.steps]] }))))
  -- registers
  ∧ (Meant s q th → Prints (.zdbPrint (.g k) q) s [[((s.th th).rg (BitVec.ofNat 5 k)).toNat]]
      ∧ Prints (.zdbPrint (.v k) q) s [[((s.th th).rv (BitVec.ofNat 5 k)).toNat]]
      ∧ (k < 8 → Prints (.zdbPrint (.p k) q) s [[((s.th th).rp k).toNat]])
      ∧ (k < 16 → Prints (.zdbPrint (.h k) q) s [[(statusWord ((s.th th).rh k)).toNat]])
      ∧ Prints (.zdbPrint (.sr k) q) s [[(readSr { s with cur := th } k).toNat]])
  -- memory: a local address as the current thread sees it, a device address at its memory home
  ∧ (isLocal a = true → t.sb = [] → peekByte s cur a = some ((locRead s (localHome (cur / 4) a) 1).headD 0))
  ∧ (isLocal a = false → (translate s (cur / 4) t.ctx true a .read).2 = .ok (pa, pg) →
      let ways := tget [] (s.stack (stackOf pa)).msc (mscSet (offOf pa))
      let fr := dramFrame s (pa / 512)
      ((∀ w ∈ ways, w.pf ≠ pa / 512) →
          peekByte s cur a = some (if fr.2.2 = true ∨ fr.1 = pg.key then frameByte fr.2.1 (pa % 512) else 0))
      ∧ (∀ w, ways.find? (fun w => w.pf == pa / 512) = some w →
          peekByte s cur a = some (if w.poison = true ∨ w.key = pg.key then frameByte w.data (pa % 512) else 0)))
  ∧ (∀ f, isLocal a = false → (translate s (cur / 4) t.ctx true a .read).2 = .error f → peekByte s cur a = none)
  ∧ (let w := if ty = .f36 ∨ ty = .i36 then 64 else ty.width
      let m := (n * w + 7) / 8
      ((∀ i, i < m → peekByte s cur (addr.toNat + i) = bs[i]?) → bs.length = m →
        Prints (.zdbX addr n ty) s [(List.range n).map (fun i => bytesToNat bs / 2 ^ (i * w) % 2 ^ w)])
      ∧ (∀ i, i < m → peekByte s cur (addr.toNat + i) = none → Prints (.zdbX addr n ty) s [[]]))
  -- tables
  ∧ Prints .zdbInfoTiles s ((core.tiles.filter (fun (_, x) => x.st != 0)).map (fun (i, x) =>
      [i, (x.pend * 2 ^ 56 + x.ctx * 2 ^ 48 + (if x.flt then 2 ^ 43 else 0) + (if x.keep then 2 ^ 42 else 0) + x.st * 2 ^ 40 + x.lenm1 * 2 ^ 19 + x.base) % 2 ^ 64]))
  ∧ Prints (.zdbInfoCc q) s (((s.core (q.getD (cur / 4))).cc.map (fun (i, x) => [i, x.cause % 256 * 2 ^ 40 + (if x.flt then 2 ^ 32 else 0) + x.value.toNat])).filter
      (fun x => x.getD 1 0 != 0))
  ∧ Prints .zdbInfoH s [(List.range 16).map (fun i => (statusWord (t.rh i)).toNat)]
  ∧ (∀ f, (translate s (cur / 4) t.ctx true addr.toNat .read).2 = .error f → Prints (.zdbInfoSheaf addr) s [[]])
  ∧ ((translate s (cur / 4) t.ctx true addr.toNat .read).2 = .ok (pa, pg) →
      let x := (tget [] (s.die (cur / 1024)).sets (sliceOf pa * 384 + setOf pa)).filter (fun x => x.frame == pa / 512)
      (∀ (i j : Nat) (y w : Sheaf), x[i]? = some y → x[j]? = some w → i < j → y.s < w.s) → (∀ y ∈ x, y.s < 16) →
      Prints (.zdbInfoSheaf addr) s ([sliceOf pa, setOf pa] :: x.map (fun x =>
        [1, x.frame % 2 ^ 31, x.s, (x.s + x.words.length - 1) % 16, tagMask x (·.dirty) % 2 ^ 16, tagMask x (·.owned) % 2 ^ 16, x.key % 2 ^ 10, x.cls % 4,
          if x.ms then 1 else 0, x.phw % 2 ^ 8, x.stamp % 2 ^ 16, x.slot % 2 ^ 7, x.age % 2 ^ 6])))
  ∧ Prints .zdbInfoChute s [[((core.stalled.map Prod.snd).eraseDups.map (fun st => 2 ^ st)).foldl (· + ·) 0 * 2 ^ 40 + (core.rounds.length + 1) * 2 ^ 32 + core.round * 2 ^ 28 + core.out % 2 ^ 19],
      (List.range 8).map (fun st => tget 0 core.grants (t.ctx * 8 + st))]
  ∧ Prints .zdbInfoPhase s ((List.range levels.length).map (fun j => (phase j).count :: (if t.compute then 1 else 0) :: (phase j).arrived))
  ∧ (ln = z.nodes.map (fun id => let n := s.node id
        [id, (match n.st with | .waiting => 0 | .ready => 1 | .dispatched => 2 | .running => 3 | .done => 4 | .faulted => 5 | .cancelled => 6), n.ep]
          ++ (n.place.map (fun sh => [sh.q, sh.base, sh.size] ++ sh.slots)).flatten) →
      Prints .zdbInfoCrew s ln)

end
end

