-- ==== Sys2Proof/Laws/Ops.lean ====
section
/-! SUPPORT. What each shared operation can do, once: the ends of an instruction, the issue checks, an instruction's work, traps. -/
namespace Sys2Proof.Laws
open Sys2Proof.Machine

/-- Only the acting thread's present registers matter to how it goes on. -/
theorem retireWith_congr {s : State} {n : Nat} {f f' : Thread → Thread} (h : f s.me = f' s.me) : s.retireWith n f = s.retireWith n f' := by
  simp only [State.retireWith, State.modMe, State.modTh]
  show ({ s.setTh s.cur ((f s.me).next n) with blocked := false } : State) = { s.setTh s.cur ((f' s.me).next n) with blocked := false }
  rw [h]

/-- The same for a branch. -/
theorem branch_congr {s : State} {a : Option Word} {f f' : Thread → Thread} (h : f s.me = f' s.me) : s.branch a f = s.branch a f' := by
  simp only [State.branch, State.modMe, State.modTh]
  show ({ s.setTh s.cur ((f s.me).branch a) with blocked := false } : State) = { s.setTh s.cur ((f' s.me).branch a) with blocked := false }
  rw [h]

/-- An instruction that no mode and no packet bars is carried out. -/
theorem issue_ready {s : State} {p : Option Nat} {w : Bool} {k : State → State} (h : overLimit s.me = false)
    (hp : p = none ∨ s.me.sup = true) (hw : w = false ∨ s.me.pkt = none) : issue s p w k = k s := by
  obtain rfl | hp := hp <;> obtain rfl | hw := hw <;> simp_all [issue]

/-- A scalar-guarded instruction whose guard holds is carried out. -/
theorem scalarOp_ready {s : State} {g : Guard} {n : Nat} {p : Option Nat} {w : Bool} {k : State → State} (hg : s.me.guardOk g = true)
    (h : overLimit s.me = false) (hp : p = none ∨ s.me.sup = true) (hw : w = false ∨ s.me.pkt = none) :
    scalarOp s g n p w k = .next (k s) := by
  simp only [scalarOp, hg, if_true, issue_ready h hp hw]

/-- A scalar-guarded instruction whose guard is false only goes on. -/
theorem scalarOp_skip {s : State} {g : Guard} {n : Nat} {p : Option Nat} {w : Bool} {k : State → State} (hg : s.me.guardOk g = false) :
    scalarOp s g n p w k = .next (s.retire n) := by simp [scalarOp, hg]

/-- A supervisor-only instruction in user mode traps with PRIV. -/
theorem scalarOp_priv {s : State} {g : Guard} {n i : Nat} {w : Bool} {k : State → State} (hg : s.me.guardOk g = true)
    (hu : s.me.sup = false) : scalarOp s g n (some i) w k = .next (trapOf s ⟨cPRIV, i⟩) := by simp [scalarOp, hg, issue, hu]

/-- A register instruction whose guard holds changes its thread and goes on. -/
theorem regOp_ready {s : State} {g : Guard} {n : Nat} {f : Thread → Thread} (hg : s.me.guardOk g = true) (h : overLimit s.me = false) :
    regOp s g n f = .next (s.retireWith n f) := scalarOp_ready hg h (.inl rfl) (.inl rfl)

/-- An element-guarded instruction issues. -/
theorem elemOp_ready {s : State} {k : State → State} (h : overLimit s.me = false) : elemOp s k = .next (k s) := by
  simp [elemOp, issue_ready h (.inl rfl) (.inl rfl)]

/-- A branch outside a delay slot whose guard holds is carried out. -/
theorem branchOp_ready {s : State} {g : Guard} {c : Nat} {k : State → State} (hs : s.me.slot = .plain) (hg : s.me.guardOk g = true)
    (h : overLimit s.me = false) : branchOp s g c k = .next (k s) := by
  simp [branchOp, hs, hg, issue_ready h (.inl rfl) (.inl rfl)]

/-- A branch in a delay slot traps with SLOT. -/
theorem branchOp_slot {s : State} {g : Guard} {c : Nat} {k : State → State} (hs : s.me.slot ≠ .plain) :
    branchOp s g c k = .next (trapOf s ⟨cSLOT, c⟩) := by simp [branchOp, hs]

/-- Work that runs to its end leaves its state. -/
theorem work_ok {m : M PUnit} {s t : State} {a : PUnit} (h : m.run s = (.ok a, t)) : work m s = t := by
  unfold work; rw [h]
/-- Work that waits leaves its thread waiting. -/
theorem work_wait {m : M PUnit} {s t : State} (h : m.run s = (.error .wait, t)) : work m s = t.wait := by
  unfold work; rw [h]
/-- Work that traps takes its trap. -/
theorem work_trap {m : M PUnit} {s t : State} {f : Fail} (h : m.run s = (.error (.trap f), t)) : work m s = trapOf t f := by
  unfold work; rw [h]

/-- Raising no flag changes nothing. -/
theorem raise_zero (t : Thread) : t.raise 0 = t := by cases t; simp [Thread.raise]

/-! ### Work, step by step -/

variable {α β : Type}

@[simp] theorem run_pure (a : α) (s : State) : (pure a : M α).run s = (.ok a, s) := rfl
theorem run_bind (m : M α) (f : α → M β) (s : State) :
    (m >>= f).run s = (match m.run s with | (.ok a, t) => (f a).run t | (.error e, t) => (.error e, t)) := by
  show (match m.run s with | (a, t) => (ExceptT.bindCont f a : StateM State (Except Stop β)) t) = _
  rcases m.run s with ⟨a | a, t⟩ <;> rfl
/-- One step of work that runs to its end. -/
theorem run_bind_ok {m : M α} {f : α → M β} {s t : State} {a : α} (h : m.run s = (.ok a, t)) : (m >>= f).run s = (f a).run t := by
  rw [run_bind, h]
/-- One step of work that stops. -/
theorem run_bind_stop {m : M α} {f : α → M β} {s t : State} {e : Stop} (h : m.run s = (.error e, t)) :
    (m >>= f).run s = (.error e, t) := by rw [run_bind, h]
@[simp] theorem run_get (s : State) : (get : M State).run s = (.ok s, s) := rfl
@[simp] theorem run_set (s t : State) : (set t : M PUnit).run s = (.ok ⟨⟩, t) := rfl
@[simp] theorem run_modify (f : State → State) (s : State) : (modify f : M PUnit).run s = (.ok ⟨⟩, f s) := rfl
@[simp] theorem run_me (s : State) : (me : M Thread).run s = (.ok s.me, s) := rfl
@[simp] theorem run_demand_true (c i : Nat) (s : State) : (demand true c i).run s = (.ok ⟨⟩, s) := rfl
@[simp] theorem run_demand_false (c i : Nat) (s : State) : (demand false c i).run s = (.error (.trap ⟨c, i⟩), s) := rfl
@[simp] theorem run_await_true (s : State) : (await true).run s = (.ok ⟨⟩, s) := rfl
@[simp] theorem run_await_false (s : State) : (await false).run s = (.error .wait, s) := rfl
@[simp] theorem run_hold (s : State) : (hold : M α).run s = (.error .wait, s) := rfl
@[simp] theorem run_raise (c i : Nat) (s : State) : (raise c i : M α).run s = (.error (.trap ⟨c, i⟩), s) := rfl
@[simp] theorem run_done (n : Nat) (f : Thread → Thread) (s : State) : (done n f).run s = (.ok ⟨⟩, s.retireWith n f) := rfl
@[simp] theorem run_pick (f : State → State × α) (s : State) : (pick f).run s = (.ok (f s).2, (f s).1) := rfl
@[simp] theorem run_liftChk_ok (a : α) (s : State) : (liftChk (.ok a)).run s = (.ok a, s) := rfl
@[simp] theorem run_liftChk_error (f : Fail) (s : State) : (liftChk (.error f) : M α).run s = (.error (.trap f), s) := rfl

/-! ### Memory -/

/-- A local write changes nothing but the bytes of local memory. -/
theorem locWrite_frame (s : State) (k : Nat) (bs : List (Option Byte)) : locWrite s k bs = { s with loc := (locWrite s k bs).loc } := rfl

/-- A machine choice with none listed is the first. -/
theorem choose_nil {s : State} {n : Nat} (h : s.choices = []) : choose s n = (s, 0) := by simp [choose, h]

/-- A wait leaves everything but the mark that the thread waits. -/
theorem wait_eq (s : State) : s.wait = { s.setTh s.cur { s.me with waits := true } with blocked := true } := rfl

/-- The next state of a trap that enters a handler, or the crew's fault. -/
theorem trap_crew {s : State} {c i n : Nat} {x y : Bool} (h : s.me.ecause.getLsbD 63 = true) : trap s c i n x y = crewFault s c := by
  simp [trap, h]

end Sys2Proof.Laws
end

