-- ==== Sys2Proof/Laws/Table.lean ====
section
/-! SUPPORT. Tables: reading after setting, and the canonical form, which every operation keeps. -/
namespace Sys2Proof.Laws

variable {α : Type}

theorem tget_tins_same (d x : α) (n : Nat) (t : Table α) : tget d (tins n x t) n = x := by
  induction t with
  | nil => simp [tins, tget]
  | cons e t ih =>
    obtain ⟨k, v⟩ := e
    simp only [tins]
    split
    · simp [tget]
    · split
      · simp [tget]
      · simp [tget, *]

theorem tget_tins_other (d x : α) {m n : Nat} (h : m ≠ n) (t : Table α) : tget d (tins n x t) m = tget d t m := by
  induction t with
  | nil => simp [tins, tget, h]
  | cons e t ih =>
    obtain ⟨k, v⟩ := e
    simp only [tins]
    split
    · simp [tget, h]
    · split
      · next hk => subst hk; simp [tget, h]
      · simp [tget, ih]

theorem tget_tdel_same (d : α) (n : Nat) (t : Table α) : tget d (tdel n t) n = d := by
  induction t with
  | nil => simp [tdel, tget]
  | cons e t ih =>
    obtain ⟨k, v⟩ := e
    by_cases hk : k = n
    · simp_all [tdel]
    · have : n ≠ k := fun h => hk h.symm
      simp_all [tdel, tget]

theorem tget_tdel_other (d : α) {m n : Nat} (h : m ≠ n) (t : Table α) : tget d (tdel n t) m = tget d t m := by
  induction t with
  | nil => simp [tdel, tget]
  | cons e t ih =>
    obtain ⟨k, v⟩ := e
    by_cases hk : k = n
    · subst hk; simp_all [tdel, tget]
    · simp_all [tdel, tget]

/-- Reading a key after setting it. -/
theorem tget_tset_same [DecidableEq α] (d x : α) (t : Table α) (n : Nat) : tget d (tset d t n x) n = x := by
  unfold tset
  split
  · next h => rw [tget_tdel_same, h]
  · rw [tget_tins_same]

/-- Setting a key leaves every other key alone. -/
theorem tget_tset_other [DecidableEq α] (d x : α) (t : Table α) {m n : Nat} (h : m ≠ n) : tget d (tset d t n x) m = tget d t m := by
  unfold tset
  split
  · rw [tget_tdel_other d h]
  · rw [tget_tins_other d x h]

theorem tget_tset [DecidableEq α] (d x : α) (t : Table α) (m n : Nat) :
    tget d (tset d t n x) m = if m = n then x else tget d t m := by
  by_cases h : m = n
  · subst h; simp [tget_tset_same]
  · simp [h, tget_tset_other]

variable [DecidableEq α]

theorem twfFrom_mono (d : α) {a b : Nat} (h : a ≤ b) (t : Table α) (ht : twfFrom d b t = true) : twfFrom d a t = true := by
  cases t with
  | nil => rfl
  | cons e t =>
    obtain ⟨k, v⟩ := e
    simp only [twfFrom, Bool.and_eq_true, decide_eq_true_eq] at ht ⊢
    exact ⟨⟨Nat.le_trans h ht.1.1, ht.1.2⟩, ht.2⟩

theorem twfFrom_tins (d x : α) (hx : x ≠ d) (n : Nat) : ∀ (t : Table α) (lo : Nat), lo ≤ n → twfFrom d lo t = true →
    twfFrom d lo (tins n x t) = true := by
  intro t
  induction t with
  | nil => intro lo h _; simp [tins, twfFrom, h, hx]
  | cons e t ih =>
    obtain ⟨k, v⟩ := e
    intro lo h ht
    simp only [twfFrom, Bool.and_eq_true, decide_eq_true_eq] at ht
    simp only [tins]
    split
    · next hk =>
      simp only [twfFrom, Bool.and_eq_true, decide_eq_true_eq]
      exact ⟨⟨h, hx⟩, ⟨hk, ht.1.2⟩, ht.2⟩
    · split
      · next hk =>
        subst hk
        simp only [twfFrom, Bool.and_eq_true, decide_eq_true_eq]
        exact ⟨⟨h, hx⟩, ht.2⟩
      · simp only [twfFrom, Bool.and_eq_true, decide_eq_true_eq]
        exact ⟨ht.1, ih (k + 1) (by omega) ht.2⟩

theorem twfFrom_tdel (d : α) (n : Nat) : ∀ (t : Table α) (lo : Nat), twfFrom d lo t = true → twfFrom d lo (tdel n t) = true := by
  intro t
  induction t with
  | nil => intro lo _; rfl
  | cons e t ih =>
    obtain ⟨k, v⟩ := e
    intro lo ht
    simp only [twfFrom, Bool.and_eq_true, decide_eq_true_eq] at ht
    have hr := ih (k + 1) ht.2
    by_cases hk : k = n
    · have : tdel n ((k, v) :: t) = tdel n t := by simp [tdel, hk]
      rw [this]
      exact twfFrom_mono d (by omega) _ hr
    · have : tdel n ((k, v) :: t) = (k, v) :: tdel n t := by simp [tdel, hk]
      rw [this]
      simp only [twfFrom, Bool.and_eq_true, decide_eq_true_eq]
      exact ⟨ht.1, hr⟩

/-- Setting a key keeps the canonical form. -/
theorem twf_tset (d x : α) (t : Table α) (n : Nat) (h : twf d t = true) : twf d (tset d t n x) = true := by
  unfold tset
  split
  · exact twfFrom_tdel d n t 0 h
  · next hx => exact twfFrom_tins d x hx n t 0 (Nat.zero_le n) h

theorem twf_tmod (d : α) (t : Table α) (n : Nat) (f : α → α) (h : twf d t = true) : twf d (tmod d t n f) = true :=
  twf_tset d _ t n h

/-- Writing bytes keeps a memory's canonical form. -/
theorem wf_mwrite (d : Byte) : ∀ (bs : List Byte) (m : Mem) (a : Nat), Memory.wf d m = true → Memory.wf d (mwrite d m a bs) = true := by
  intro bs
  induction bs with
  | nil => intro m a h; exact h
  | cons b bs ih => intro m a h; exact ih _ _ (twf_tset d b m a h)

/-- Writing masked bytes keeps a memory's canonical form. -/
theorem wf_mwriteMask (d : Byte) : ∀ (bs : List (Option Byte)) (m : Mem) (a : Nat), Memory.wf d m = true →
    Memory.wf d (mwriteMask d m a bs) = true := by
  intro bs
  induction bs with
  | nil => intro m a h; exact h
  | cons b bs ih =>
    intro m a h
    cases b with
    | none => exact ih _ _ h
    | some b => exact ih _ _ (twf_tset d b m a h)

/-- A write leaves every byte below its first and behind its last alone. -/
theorem tget_mwrite_outside (d : Byte) : ∀ (bs : List Byte) (m : Mem) (a i : Nat), i < a ∨ a + bs.length ≤ i →
    tget d (mwrite d m a bs) i = tget d m i := by
  intro bs
  induction bs with
  | nil => intros; rfl
  | cons b bs ih =>
    intro m a i h
    simp only [List.length_cons] at h
    rw [mwrite, ih _ _ _ (by omega), tget_tset_other d b m (by omega)]

/-- A byte just written reads back. -/
theorem tget_mwrite_inside (d : Byte) : ∀ (bs : List Byte) (m : Mem) (a i : Nat) (h : i < bs.length),
    tget d (mwrite d m a bs) (a + i) = bs[i] := by
  intro bs
  induction bs with
  | nil => intro m a i h; simp at h
  | cons b bs ih =>
    intro m a i h
    cases i with
    | zero =>
      rw [mwrite, tget_mwrite_outside d bs _ _ _ (by omega)]
      simp [tget_tset_same]
    | succ i =>
      have := ih (tset d m a b) (a + 1) i (by simpa using h)
      rw [mwrite, show a + (i + 1) = a + 1 + i by omega, this]
      simp

/-- A masked write leaves every byte outside its range alone. -/
theorem tget_mwriteMask_outside (d : Byte) : ∀ (bs : List (Option Byte)) (m : Mem) (a i : Nat), i < a ∨ a + bs.length ≤ i →
    tget d (mwriteMask d m a bs) i = tget d m i := by
  intro bs
  induction bs with
  | nil => intros; rfl
  | cons b bs ih =>
    intro m a i h
    simp only [List.length_cons] at h
    cases b with
    | none => rw [mwriteMask, ih _ _ _ (by omega)]
    | some b => rw [mwriteMask, ih _ _ _ (by omega), tget_tset_other d b m (by omega)]

/-- Reading back what has just been written. -/
theorem mread_mwrite (d : Byte) (bs : List Byte) : ∀ (m : Mem) (a : Nat), mread d (mwrite d m a bs) a bs.length = bs := by
  induction bs with
  | nil => intros; rfl
  | cons b bs ih =>
    intro m a
    simp only [List.length_cons, mread, mwrite]
    rw [ih, tget_mwrite_outside d bs _ _ _ (by omega), tget_tset_same]

end Sys2Proof.Laws
end

