-- ==== Sys2Proof/Laws/State.lean ====
section
/-! SUPPORT. What each update of the state leaves alone, field by field, and what reading gives after an update. -/
namespace Sys2Proof.Machine

/-! ### setTh -/

@[simp] theorem State.setTh_powered (s : State) (i : Nat) (x : Thread) : (s.setTh i x).powered = s.powered := rfl
@[simp] theorem State.setTh_clock (s : State) (i : Nat) (x : Thread) : (s.setTh i x).clock = s.clock := rfl
@[simp] theorem State.setTh_windowAt (s : State) (i : Nat) (x : Thread) : (s.setTh i x).windowAt = s.windowAt := rfl
@[simp] theorem State.setTh_dispatch (s : State) (i : Nat) (x : Thread) : (s.setTh i x).dispatch = s.dispatch := rfl
@[simp] theorem State.setTh_mgmt (s : State) (i : Nat) (x : Thread) : (s.setTh i x).mgmt = s.mgmt := rfl
@[simp] theorem State.setTh_host (s : State) (i : Nat) (x : Thread) : (s.setTh i x).host = s.host := rfl
@[simp] theorem State.setTh_ports (s : State) (i : Nat) (x : Thread) : (s.setTh i x).ports = s.ports := rfl
@[simp] theorem State.setTh_ctxs (s : State) (i : Nat) (x : Thread) : (s.setTh i x).ctxs = s.ctxs := rfl
@[simp] theorem State.setTh_nodes (s : State) (i : Nat) (x : Thread) : (s.setTh i x).nodes = s.nodes := rfl
@[simp] theorem State.setTh_accepts (s : State) (i : Nat) (x : Thread) : (s.setTh i x).accepts = s.accepts := rfl
@[simp] theorem State.setTh_phases (s : State) (i : Nat) (x : Thread) : (s.setTh i x).phases = s.phases := rfl
@[simp] theorem State.setTh_dies (s : State) (i : Nat) (x : Thread) : (s.setTh i x).dies = s.dies := rfl
@[simp] theorem State.setTh_clusters (s : State) (i : Nat) (x : Thread) : (s.setTh i x).clusters = s.clusters := rfl
@[simp] theorem State.setTh_cores (s : State) (i : Nat) (x : Thread) : (s.setTh i x).cores = s.cores := rfl
@[simp] theorem State.setTh_hbms (s : State) (i : Nat) (x : Thread) : (s.setTh i x).hbms = s.hbms := rfl
@[simp] theorem State.setTh_units (s : State) (i : Nat) (x : Thread) : (s.setTh i x).units = s.units := rfl
@[simp] theorem State.setTh_dram (s : State) (i : Nat) (x : Thread) : (s.setTh i x).dram = s.dram := rfl
@[simp] theorem State.setTh_loc (s : State) (i : Nat) (x : Thread) : (s.setTh i x).loc = s.loc := rfl
@[simp] theorem State.setTh_beats (s : State) (i : Nat) (x : Thread) : (s.setTh i x).beats = s.beats := rfl
@[simp] theorem State.setTh_peerArr (s : State) (i : Nat) (x : Thread) : (s.setTh i x).peerArr = s.peerArr := rfl
@[simp] theorem State.setTh_peerSent (s : State) (i : Nat) (x : Thread) : (s.setTh i x).peerSent = s.peerSent := rfl
@[simp] theorem State.setTh_peerBad (s : State) (i : Nat) (x : Thread) : (s.setTh i x).peerBad = s.peerBad := rfl
@[simp] theorem State.setTh_zdb (s : State) (i : Nat) (x : Thread) : (s.setTh i x).zdb = s.zdb := rfl
@[simp] theorem State.setTh_agenda (s : State) (i : Nat) (x : Thread) : (s.setTh i x).agenda = s.agenda := rfl
@[simp] theorem State.setTh_choices (s : State) (i : Nat) (x : Thread) : (s.setTh i x).choices = s.choices := rfl
@[simp] theorem State.setTh_freeCount (s : State) (i : Nat) (x : Thread) : (s.setTh i x).freeCount = s.freeCount := rfl
@[simp] theorem State.setTh_cur (s : State) (i : Nat) (x : Thread) : (s.setTh i x).cur = s.cur := rfl
@[simp] theorem State.setTh_blocked (s : State) (i : Nat) (x : Thread) : (s.setTh i x).blocked = s.blocked := rfl
@[simp] theorem State.setTh_tried (s : State) (i : Nat) (x : Thread) : (s.setTh i x).tried = s.tried := rfl
@[simp] theorem State.setTh_others (s : State) (i : Nat) (x : Thread) : (s.setTh i x).others = s.others := rfl

/-! ### setCore -/

@[simp] theorem State.setCore_powered (s : State) (i : Nat) (x : Core) : (s.setCore i x).powered = s.powered := rfl
@[simp] theorem State.setCore_clock (s : State) (i : Nat) (x : Core) : (s.setCore i x).clock = s.clock := rfl
@[simp] theorem State.setCore_windowAt (s : State) (i : Nat) (x : Core) : (s.setCore i x).windowAt = s.windowAt := rfl
@[simp] theorem State.setCore_dispatch (s : State) (i : Nat) (x : Core) : (s.setCore i x).dispatch = s.dispatch := rfl
@[simp] theorem State.setCore_mgmt (s : State) (i : Nat) (x : Core) : (s.setCore i x).mgmt = s.mgmt := rfl
@[simp] theorem State.setCore_host (s : State) (i : Nat) (x : Core) : (s.setCore i x).host = s.host := rfl
@[simp] theorem State.setCore_ports (s : State) (i : Nat) (x : Core) : (s.setCore i x).ports = s.ports := rfl
@[simp] theorem State.setCore_ctxs (s : State) (i : Nat) (x : Core) : (s.setCore i x).ctxs = s.ctxs := rfl
@[simp] theorem State.setCore_nodes (s : State) (i : Nat) (x : Core) : (s.setCore i x).nodes = s.nodes := rfl
@[simp] theorem State.setCore_accepts (s : State) (i : Nat) (x : Core) : (s.setCore i x).accepts = s.accepts := rfl
@[simp] theorem State.setCore_phases (s : State) (i : Nat) (x : Core) : (s.setCore i x).phases = s.phases := rfl
@[simp] theorem State.setCore_dies (s : State) (i : Nat) (x : Core) : (s.setCore i x).dies = s.dies := rfl
@[simp] theorem State.setCore_clusters (s : State) (i : Nat) (x : Core) : (s.setCore i x).clusters = s.clusters := rfl
@[simp] theorem State.setCore_threads (s : State) (i : Nat) (x : Core) : (s.setCore i x).threads = s.threads := rfl
@[simp] theorem State.setCore_hbms (s : State) (i : Nat) (x : Core) : (s.setCore i x).hbms = s.hbms := rfl
@[simp] theorem State.setCore_units (s : State) (i : Nat) (x : Core) : (s.setCore i x).units = s.units := rfl
@[simp] theorem State.setCore_dram (s : State) (i : Nat) (x : Core) : (s.setCore i x).dram = s.dram := rfl
@[simp] theorem State.setCore_loc (s : State) (i : Nat) (x : Core) : (s.setCore i x).loc = s.loc := rfl
@[simp] theorem State.setCore_beats (s : State) (i : Nat) (x : Core) : (s.setCore i x).beats = s.beats := rfl
@[simp] theorem State.setCore_peerArr (s : State) (i : Nat) (x : Core) : (s.setCore i x).peerArr = s.peerArr := rfl
@[simp] theorem State.setCore_peerSent (s : State) (i : Nat) (x : Core) : (s.setCore i x).peerSent = s.peerSent := rfl
@[simp] theorem State.setCore_peerBad (s : State) (i : Nat) (x : Core) : (s.setCore i x).peerBad = s.peerBad := rfl
@[simp] theorem State.setCore_zdb (s : State) (i : Nat) (x : Core) : (s.setCore i x).zdb = s.zdb := rfl
@[simp] theorem State.setCore_agenda (s : State) (i : Nat) (x : Core) : (s.setCore i x).agenda = s.agenda := rfl
@[simp] theorem State.setCore_choices (s : State) (i : Nat) (x : Core) : (s.setCore i x).choices = s.choices := rfl
@[simp] theorem State.setCore_freeCount (s : State) (i : Nat) (x : Core) : (s.setCore i x).freeCount = s.freeCount := rfl
@[simp] theorem State.setCore_cur (s : State) (i : Nat) (x : Core) : (s.setCore i x).cur = s.cur := rfl
@[simp] theorem State.setCore_blocked (s : State) (i : Nat) (x : Core) : (s.setCore i x).blocked = s.blocked := rfl
@[simp] theorem State.setCore_tried (s : State) (i : Nat) (x : Core) : (s.setCore i x).tried = s.tried := rfl
@[simp] theorem State.setCore_others (s : State) (i : Nat) (x : Core) : (s.setCore i x).others = s.others := rfl

/-! ### setClus -/

@[simp] theorem State.setClus_powered (s : State) (i : Nat) (x : Cluster) : (s.setClus i x).powered = s.powered := rfl
@[simp] theorem State.setClus_clock (s : State) (i : Nat) (x : Cluster) : (s.setClus i x).clock = s.clock := rfl
@[simp] theorem State.setClus_windowAt (s : State) (i : Nat) (x : Cluster) : (s.setClus i x).windowAt = s.windowAt := rfl
@[simp] theorem State.setClus_dispatch (s : State) (i : Nat) (x : Cluster) : (s.setClus i x).dispatch = s.dispatch := rfl
@[simp] theorem State.setClus_mgmt (s : State) (i : Nat) (x : Cluster) : (s.setClus i x).mgmt = s.mgmt := rfl
@[simp] theorem State.setClus_host (s : State) (i : Nat) (x : Cluster) : (s.setClus i x).host = s.host := rfl
@[simp] theorem State.setClus_ports (s : State) (i : Nat) (x : Cluster) : (s.setClus i x).ports = s.ports := rfl
@[simp] theorem State.setClus_ctxs (s : State) (i : Nat) (x : Cluster) : (s.setClus i x).ctxs = s.ctxs := rfl
@[simp] theorem State.setClus_nodes (s : State) (i : Nat) (x : Cluster) : (s.setClus i x).nodes = s.nodes := rfl
@[simp] theorem State.setClus_accepts (s : State) (i : Nat) (x : Cluster) : (s.setClus i x).accepts = s.accepts := rfl
@[simp] theorem State.setClus_phases (s : State) (i : Nat) (x : Cluster) : (s.setClus i x).phases = s.phases := rfl
@[simp] theorem State.setClus_dies (s : State) (i : Nat) (x : Cluster) : (s.setClus i x).dies = s.dies := rfl
@[simp] theorem State.setClus_cores (s : State) (i : Nat) (x : Cluster) : (s.setClus i x).cores = s.cores := rfl
@[simp] theorem State.setClus_threads (s : State) (i : Nat) (x : Cluster) : (s.setClus i x).threads = s.threads := rfl
@[simp] theorem State.setClus_hbms (s : State) (i : Nat) (x : Cluster) : (s.setClus i x).hbms = s.hbms := rfl
@[simp] theorem State.setClus_units (s : State) (i : Nat) (x : Cluster) : (s.setClus i x).units = s.units := rfl
@[simp] theorem State.setClus_dram (s : State) (i : Nat) (x : Cluster) : (s.setClus i x).dram = s.dram := rfl
@[simp] theorem State.setClus_loc (s : State) (i : Nat) (x : Cluster) : (s.setClus i x).loc = s.loc := rfl
@[simp] theorem State.setClus_beats (s : State) (i : Nat) (x : Cluster) : (s.setClus i x).beats = s.beats := rfl
@[simp] theorem State.setClus_peerArr (s : State) (i : Nat) (x : Cluster) : (s.setClus i x).peerArr = s.peerArr := rfl
@[simp] theorem State.setClus_peerSent (s : State) (i : Nat) (x : Cluster) : (s.setClus i x).peerSent = s.peerSent := rfl
@[simp] theorem State.setClus_peerBad (s : State) (i : Nat) (x : Cluster) : (s.setClus i x).peerBad = s.peerBad := rfl
@[simp] theorem State.setClus_zdb (s : State) (i : Nat) (x : Cluster) : (s.setClus i x).zdb = s.zdb := rfl
@[simp] theorem State.setClus_agenda (s : State) (i : Nat) (x : Cluster) : (s.setClus i x).agenda = s.agenda := rfl
@[simp] theorem State.setClus_choices (s : State) (i : Nat) (x : Cluster) : (s.setClus i x).choices = s.choices := rfl
@[simp] theorem State.setClus_freeCount (s : State) (i : Nat) (x : Cluster) : (s.setClus i x).freeCount = s.freeCount := rfl
@[simp] theorem State.setClus_cur (s : State) (i : Nat) (x : Cluster) : (s.setClus i x).cur = s.cur := rfl
@[simp] theorem State.setClus_blocked (s : State) (i : Nat) (x : Cluster) : (s.setClus i x).blocked = s.blocked := rfl
@[simp] theorem State.setClus_tried (s : State) (i : Nat) (x : Cluster) : (s.setClus i x).tried = s.tried := rfl
@[simp] theorem State.setClus_others (s : State) (i : Nat) (x : Cluster) : (s.setClus i x).others = s.others := rfl

/-! ### setDie -/

@[simp] theorem State.setDie_powered (s : State) (i : Nat) (x : Die) : (s.setDie i x).powered = s.powered := rfl
@[simp] theorem State.setDie_clock (s : State) (i : Nat) (x : Die) : (s.setDie i x).clock = s.clock := rfl
@[simp] theorem State.setDie_windowAt (s : State) (i : Nat) (x : Die) : (s.setDie i x).windowAt = s.windowAt := rfl
@[simp] theorem State.setDie_dispatch (s : State) (i : Nat) (x : Die) : (s.setDie i x).dispatch = s.dispatch := rfl
@[simp] theorem State.setDie_mgmt (s : State) (i : Nat) (x : Die) : (s.setDie i x).mgmt = s.mgmt := rfl
@[simp] theorem State.setDie_host (s : State) (i : Nat) (x : Die) : (s.setDie i x).host = s.host := rfl
@[simp] theorem State.setDie_ports (s : State) (i : Nat) (x : Die) : (s.setDie i x).ports = s.ports := rfl
@[simp] theorem State.setDie_ctxs (s : State) (i : Nat) (x : Die) : (s.setDie i x).ctxs = s.ctxs := rfl
@[simp] theorem State.setDie_nodes (s : State) (i : Nat) (x : Die) : (s.setDie i x).nodes = s.nodes := rfl
@[simp] theorem State.setDie_accepts (s : State) (i : Nat) (x : Die) : (s.setDie i x).accepts = s.accepts := rfl
@[simp] theorem State.setDie_phases (s : State) (i : Nat) (x : Die) : (s.setDie i x).phases = s.phases := rfl
@[simp] theorem State.setDie_clusters (s : State) (i : Nat) (x : Die) : (s.setDie i x).clusters = s.clusters := rfl
@[simp] theorem State.setDie_cores (s : State) (i : Nat) (x : Die) : (s.setDie i x).cores = s.cores := rfl
@[simp] theorem State.setDie_threads (s : State) (i : Nat) (x : Die) : (s.setDie i x).threads = s.threads := rfl
@[simp] theorem State.setDie_hbms (s : State) (i : Nat) (x : Die) : (s.setDie i x).hbms = s.hbms := rfl
@[simp] theorem State.setDie_units (s : State) (i : Nat) (x : Die) : (s.setDie i x).units = s.units := rfl
@[simp] theorem State.setDie_dram (s : State) (i : Nat) (x : Die) : (s.setDie i x).dram = s.dram := rfl
@[simp] theorem State.setDie_loc (s : State) (i : Nat) (x : Die) : (s.setDie i x).loc = s.loc := rfl
@[simp] theorem State.setDie_beats (s : State) (i : Nat) (x : Die) : (s.setDie i x).beats = s.beats := rfl
@[simp] theorem State.setDie_peerArr (s : State) (i : Nat) (x : Die) : (s.setDie i x).peerArr = s.peerArr := rfl
@[simp] theorem State.setDie_peerSent (s : State) (i : Nat) (x : Die) : (s.setDie i x).peerSent = s.peerSent := rfl
@[simp] theorem State.setDie_peerBad (s : State) (i : Nat) (x : Die) : (s.setDie i x).peerBad = s.peerBad := rfl
@[simp] theorem State.setDie_zdb (s : State) (i : Nat) (x : Die) : (s.setDie i x).zdb = s.zdb := rfl
@[simp] theorem State.setDie_agenda (s : State) (i : Nat) (x : Die) : (s.setDie i x).agenda = s.agenda := rfl
@[simp] theorem State.setDie_choices (s : State) (i : Nat) (x : Die) : (s.setDie i x).choices = s.choices := rfl
@[simp] theorem State.setDie_freeCount (s : State) (i : Nat) (x : Die) : (s.setDie i x).freeCount = s.freeCount := rfl
@[simp] theorem State.setDie_cur (s : State) (i : Nat) (x : Die) : (s.setDie i x).cur = s.cur := rfl
@[simp] theorem State.setDie_blocked (s : State) (i : Nat) (x : Die) : (s.setDie i x).blocked = s.blocked := rfl
@[simp] theorem State.setDie_tried (s : State) (i : Nat) (x : Die) : (s.setDie i x).tried = s.tried := rfl
@[simp] theorem State.setDie_others (s : State) (i : Nat) (x : Die) : (s.setDie i x).others = s.others := rfl

/-! ### setStack -/

@[simp] theorem State.setStack_powered (s : State) (i : Nat) (x : Stack) : (s.setStack i x).powered = s.powered := rfl
@[simp] theorem State.setStack_clock (s : State) (i : Nat) (x : Stack) : (s.setStack i x).clock = s.clock := rfl
@[simp] theorem State.setStack_windowAt (s : State) (i : Nat) (x : Stack) : (s.setStack i x).windowAt = s.windowAt := rfl
@[simp] theorem State.setStack_dispatch (s : State) (i : Nat) (x : Stack) : (s.setStack i x).dispatch = s.dispatch := rfl
@[simp] theorem State.setStack_mgmt (s : State) (i : Nat) (x : Stack) : (s.setStack i x).mgmt = s.mgmt := rfl
@[simp] theorem State.setStack_host (s : State) (i : Nat) (x : Stack) : (s.setStack i x).host = s.host := rfl
@[simp] theorem State.setStack_ports (s : State) (i : Nat) (x : Stack) : (s.setStack i x).ports = s.ports := rfl
@[simp] theorem State.setStack_ctxs (s : State) (i : Nat) (x : Stack) : (s.setStack i x).ctxs = s.ctxs := rfl
@[simp] theorem State.setStack_nodes (s : State) (i : Nat) (x : Stack) : (s.setStack i x).nodes = s.nodes := rfl
@[simp] theorem State.setStack_accepts (s : State) (i : Nat) (x : Stack) : (s.setStack i x).accepts = s.accepts := rfl
@[simp] theorem State.setStack_phases (s : State) (i : Nat) (x : Stack) : (s.setStack i x).phases = s.phases := rfl
@[simp] theorem State.setStack_dies (s : State) (i : Nat) (x : Stack) : (s.setStack i x).dies = s.dies := rfl
@[simp] theorem State.setStack_clusters (s : State) (i : Nat) (x : Stack) : (s.setStack i x).clusters = s.clusters := rfl
@[simp] theorem State.setStack_cores (s : State) (i : Nat) (x : Stack) : (s.setStack i x).cores = s.cores := rfl
@[simp] theorem State.setStack_threads (s : State) (i : Nat) (x : Stack) : (s.setStack i x).threads = s.threads := rfl
@[simp] theorem State.setStack_units (s : State) (i : Nat) (x : Stack) : (s.setStack i x).units = s.units := rfl
@[simp] theorem State.setStack_dram (s : State) (i : Nat) (x : Stack) : (s.setStack i x).dram = s.dram := rfl
@[simp] theorem State.setStack_loc (s : State) (i : Nat) (x : Stack) : (s.setStack i x).loc = s.loc := rfl
@[simp] theorem State.setStack_beats (s : State) (i : Nat) (x : Stack) : (s.setStack i x).beats = s.beats := rfl
@[simp] theorem State.setStack_peerArr (s : State) (i : Nat) (x : Stack) : (s.setStack i x).peerArr = s.peerArr := rfl
@[simp] theorem State.setStack_peerSent (s : State) (i : Nat) (x : Stack) : (s.setStack i x).peerSent = s.peerSent := rfl
@[simp] theorem State.setStack_peerBad (s : State) (i : Nat) (x : Stack) : (s.setStack i x).peerBad = s.peerBad := rfl
@[simp] theorem State.setStack_zdb (s : State) (i : Nat) (x : Stack) : (s.setStack i x).zdb = s.zdb := rfl
@[simp] theorem State.setStack_agenda (s : State) (i : Nat) (x : Stack) : (s.setStack i x).agenda = s.agenda := rfl
@[simp] theorem State.setStack_choices (s : State) (i : Nat) (x : Stack) : (s.setStack i x).choices = s.choices := rfl
@[simp] theorem State.setStack_freeCount (s : State) (i : Nat) (x : Stack) : (s.setStack i x).freeCount = s.freeCount := rfl
@[simp] theorem State.setStack_cur (s : State) (i : Nat) (x : Stack) : (s.setStack i x).cur = s.cur := rfl
@[simp] theorem State.setStack_blocked (s : State) (i : Nat) (x : Stack) : (s.setStack i x).blocked = s.blocked := rfl
@[simp] theorem State.setStack_tried (s : State) (i : Nat) (x : Stack) : (s.setStack i x).tried = s.tried := rfl
@[simp] theorem State.setStack_others (s : State) (i : Nat) (x : Stack) : (s.setStack i x).others = s.others := rfl

/-! ### setCtx -/

@[simp] theorem State.setCtx_powered (s : State) (i : Nat) (x : Ctx) : (s.setCtx i x).powered = s.powered := rfl
@[simp] theorem State.setCtx_clock (s : State) (i : Nat) (x : Ctx) : (s.setCtx i x).clock = s.clock := rfl
@[simp] theorem State.setCtx_windowAt (s : State) (i : Nat) (x : Ctx) : (s.setCtx i x).windowAt = s.windowAt := rfl
@[simp] theorem State.setCtx_dispatch (s : State) (i : Nat) (x : Ctx) : (s.setCtx i x).dispatch = s.dispatch := rfl
@[simp] theorem State.setCtx_mgmt (s : State) (i : Nat) (x : Ctx) : (s.setCtx i x).mgmt = s.mgmt := rfl
@[simp] theorem State.setCtx_host (s : State) (i : Nat) (x : Ctx) : (s.setCtx i x).host = s.host := rfl
@[simp] theorem State.setCtx_ports (s : State) (i : Nat) (x : Ctx) : (s.setCtx i x).ports = s.ports := rfl
@[simp] theorem State.setCtx_nodes (s : State) (i : Nat) (x : Ctx) : (s.setCtx i x).nodes = s.nodes := rfl
@[simp] theorem State.setCtx_accepts (s : State) (i : Nat) (x : Ctx) : (s.setCtx i x).accepts = s.accepts := rfl
@[simp] theorem State.setCtx_phases (s : State) (i : Nat) (x : Ctx) : (s.setCtx i x).phases = s.phases := rfl
@[simp] theorem State.setCtx_dies (s : State) (i : Nat) (x : Ctx) : (s.setCtx i x).dies = s.dies := rfl
@[simp] theorem State.setCtx_clusters (s : State) (i : Nat) (x : Ctx) : (s.setCtx i x).clusters = s.clusters := rfl
@[simp] theorem State.setCtx_cores (s : State) (i : Nat) (x : Ctx) : (s.setCtx i x).cores = s.cores := rfl
@[simp] theorem State.setCtx_threads (s : State) (i : Nat) (x : Ctx) : (s.setCtx i x).threads = s.threads := rfl
@[simp] theorem State.setCtx_hbms (s : State) (i : Nat) (x : Ctx) : (s.setCtx i x).hbms = s.hbms := rfl
@[simp] theorem State.setCtx_units (s : State) (i : Nat) (x : Ctx) : (s.setCtx i x).units = s.units := rfl
@[simp] theorem State.setCtx_dram (s : State) (i : Nat) (x : Ctx) : (s.setCtx i x).dram = s.dram := rfl
@[simp] theorem State.setCtx_loc (s : State) (i : Nat) (x : Ctx) : (s.setCtx i x).loc = s.loc := rfl
@[simp] theorem State.setCtx_beats (s : State) (i : Nat) (x : Ctx) : (s.setCtx i x).beats = s.beats := rfl
@[simp] theorem State.setCtx_peerArr (s : State) (i : Nat) (x : Ctx) : (s.setCtx i x).peerArr = s.peerArr := rfl
@[simp] theorem State.setCtx_peerSent (s : State) (i : Nat) (x : Ctx) : (s.setCtx i x).peerSent = s.peerSent := rfl
@[simp] theorem State.setCtx_peerBad (s : State) (i : Nat) (x : Ctx) : (s.setCtx i x).peerBad = s.peerBad := rfl
@[simp] theorem State.setCtx_zdb (s : State) (i : Nat) (x : Ctx) : (s.setCtx i x).zdb = s.zdb := rfl
@[simp] theorem State.setCtx_agenda (s : State) (i : Nat) (x : Ctx) : (s.setCtx i x).agenda = s.agenda := rfl
@[simp] theorem State.setCtx_choices (s : State) (i : Nat) (x : Ctx) : (s.setCtx i x).choices = s.choices := rfl
@[simp] theorem State.setCtx_freeCount (s : State) (i : Nat) (x : Ctx) : (s.setCtx i x).freeCount = s.freeCount := rfl
@[simp] theorem State.setCtx_cur (s : State) (i : Nat) (x : Ctx) : (s.setCtx i x).cur = s.cur := rfl
@[simp] theorem State.setCtx_blocked (s : State) (i : Nat) (x : Ctx) : (s.setCtx i x).blocked = s.blocked := rfl
@[simp] theorem State.setCtx_tried (s : State) (i : Nat) (x : Ctx) : (s.setCtx i x).tried = s.tried := rfl
@[simp] theorem State.setCtx_others (s : State) (i : Nat) (x : Ctx) : (s.setCtx i x).others = s.others := rfl

/-! ### setNode -/

@[simp] theorem State.setNode_powered (s : State) (i : Nat) (x : Node) : (s.setNode i x).powered = s.powered := rfl
@[simp] theorem State.setNode_clock (s : State) (i : Nat) (x : Node) : (s.setNode i x).clock = s.clock := rfl
@[simp] theorem State.setNode_windowAt (s : State) (i : Nat) (x : Node) : (s.setNode i x).windowAt = s.windowAt := rfl
@[simp] theorem State.setNode_dispatch (s : State) (i : Nat) (x : Node) : (s.setNode i x).dispatch = s.dispatch := rfl
@[simp] theorem State.setNode_mgmt (s : State) (i : Nat) (x : Node) : (s.setNode i x).mgmt = s.mgmt := rfl
@[simp] theorem State.setNode_host (s : State) (i : Nat) (x : Node) : (s.setNode i x).host = s.host := rfl
@[simp] theorem State.setNode_ports (s : State) (i : Nat) (x : Node) : (s.setNode i x).ports = s.ports := rfl
@[simp] theorem State.setNode_ctxs (s : State) (i : Nat) (x : Node) : (s.setNode i x).ctxs = s.ctxs := rfl
@[simp] theorem State.setNode_accepts (s : State) (i : Nat) (x : Node) : (s.setNode i x).accepts = s.accepts := rfl
@[simp] theorem State.setNode_phases (s : State) (i : Nat) (x : Node) : (s.setNode i x).phases = s.phases := rfl
@[simp] theorem State.setNode_dies (s : State) (i : Nat) (x : Node) : (s.setNode i x).dies = s.dies := rfl
@[simp] theorem State.setNode_clusters (s : State) (i : Nat) (x : Node) : (s.setNode i x).clusters = s.clusters := rfl
@[simp] theorem State.setNode_cores (s : State) (i : Nat) (x : Node) : (s.setNode i x).cores = s.cores := rfl
@[simp] theorem State.setNode_threads (s : State) (i : Nat) (x : Node) : (s.setNode i x).threads = s.threads := rfl
@[simp] theorem State.setNode_hbms (s : State) (i : Nat) (x : Node) : (s.setNode i x).hbms = s.hbms := rfl
@[simp] theorem State.setNode_units (s : State) (i : Nat) (x : Node) : (s.setNode i x).units = s.units := rfl
@[simp] theorem State.setNode_dram (s : State) (i : Nat) (x : Node) : (s.setNode i x).dram = s.dram := rfl
@[simp] theorem State.setNode_loc (s : State) (i : Nat) (x : Node) : (s.setNode i x).loc = s.loc := rfl
@[simp] theorem State.setNode_beats (s : State) (i : Nat) (x : Node) : (s.setNode i x).beats = s.beats := rfl
@[simp] theorem State.setNode_peerArr (s : State) (i : Nat) (x : Node) : (s.setNode i x).peerArr = s.peerArr := rfl
@[simp] theorem State.setNode_peerSent (s : State) (i : Nat) (x : Node) : (s.setNode i x).peerSent = s.peerSent := rfl
@[simp] theorem State.setNode_peerBad (s : State) (i : Nat) (x : Node) : (s.setNode i x).peerBad = s.peerBad := rfl
@[simp] theorem State.setNode_zdb (s : State) (i : Nat) (x : Node) : (s.setNode i x).zdb = s.zdb := rfl
@[simp] theorem State.setNode_agenda (s : State) (i : Nat) (x : Node) : (s.setNode i x).agenda = s.agenda := rfl
@[simp] theorem State.setNode_choices (s : State) (i : Nat) (x : Node) : (s.setNode i x).choices = s.choices := rfl
@[simp] theorem State.setNode_freeCount (s : State) (i : Nat) (x : Node) : (s.setNode i x).freeCount = s.freeCount := rfl
@[simp] theorem State.setNode_cur (s : State) (i : Nat) (x : Node) : (s.setNode i x).cur = s.cur := rfl
@[simp] theorem State.setNode_blocked (s : State) (i : Nat) (x : Node) : (s.setNode i x).blocked = s.blocked := rfl
@[simp] theorem State.setNode_tried (s : State) (i : Nat) (x : Node) : (s.setNode i x).tried = s.tried := rfl
@[simp] theorem State.setNode_others (s : State) (i : Nat) (x : Node) : (s.setNode i x).others = s.others := rfl

/-! ### setPort -/

@[simp] theorem State.setPort_powered (s : State) (i : Nat) (x : Port) : (s.setPort i x).powered = s.powered := rfl
@[simp] theorem State.setPort_clock (s : State) (i : Nat) (x : Port) : (s.setPort i x).clock = s.clock := rfl
@[simp] theorem State.setPort_windowAt (s : State) (i : Nat) (x : Port) : (s.setPort i x).windowAt = s.windowAt := rfl
@[simp] theorem State.setPort_dispatch (s : State) (i : Nat) (x : Port) : (s.setPort i x).dispatch = s.dispatch := rfl
@[simp] theorem State.setPort_mgmt (s : State) (i : Nat) (x : Port) : (s.setPort i x).mgmt = s.mgmt := rfl
@[simp] theorem State.setPort_host (s : State) (i : Nat) (x : Port) : (s.setPort i x).host = s.host := rfl
@[simp] theorem State.setPort_ctxs (s : State) (i : Nat) (x : Port) : (s.setPort i x).ctxs = s.ctxs := rfl
@[simp] theorem State.setPort_nodes (s : State) (i : Nat) (x : Port) : (s.setPort i x).nodes = s.nodes := rfl
@[simp] theorem State.setPort_accepts (s : State) (i : Nat) (x : Port) : (s.setPort i x).accepts = s.accepts := rfl
@[simp] theorem State.setPort_phases (s : State) (i : Nat) (x : Port) : (s.setPort i x).phases = s.phases := rfl
@[simp] theorem State.setPort_dies (s : State) (i : Nat) (x : Port) : (s.setPort i x).dies = s.dies := rfl
@[simp] theorem State.setPort_clusters (s : State) (i : Nat) (x : Port) : (s.setPort i x).clusters = s.clusters := rfl
@[simp] theorem State.setPort_cores (s : State) (i : Nat) (x : Port) : (s.setPort i x).cores = s.cores := rfl
@[simp] theorem State.setPort_threads (s : State) (i : Nat) (x : Port) : (s.setPort i x).threads = s.threads := rfl
@[simp] theorem State.setPort_hbms (s : State) (i : Nat) (x : Port) : (s.setPort i x).hbms = s.hbms := rfl
@[simp] theorem State.setPort_units (s : State) (i : Nat) (x : Port) : (s.setPort i x).units = s.units := rfl
@[simp] theorem State.setPort_dram (s : State) (i : Nat) (x : Port) : (s.setPort i x).dram = s.dram := rfl
@[simp] theorem State.setPort_loc (s : State) (i : Nat) (x : Port) : (s.setPort i x).loc = s.loc := rfl
@[simp] theorem State.setPort_beats (s : State) (i : Nat) (x : Port) : (s.setPort i x).beats = s.beats := rfl
@[simp] theorem State.setPort_peerArr (s : State) (i : Nat) (x : Port) : (s.setPort i x).peerArr = s.peerArr := rfl
@[simp] theorem State.setPort_peerSent (s : State) (i : Nat) (x : Port) : (s.setPort i x).peerSent = s.peerSent := rfl
@[simp] theorem State.setPort_peerBad (s : State) (i : Nat) (x : Port) : (s.setPort i x).peerBad = s.peerBad := rfl
@[simp] theorem State.setPort_zdb (s : State) (i : Nat) (x : Port) : (s.setPort i x).zdb = s.zdb := rfl
@[simp] theorem State.setPort_agenda (s : State) (i : Nat) (x : Port) : (s.setPort i x).agenda = s.agenda := rfl
@[simp] theorem State.setPort_choices (s : State) (i : Nat) (x : Port) : (s.setPort i x).choices = s.choices := rfl
@[simp] theorem State.setPort_freeCount (s : State) (i : Nat) (x : Port) : (s.setPort i x).freeCount = s.freeCount := rfl
@[simp] theorem State.setPort_cur (s : State) (i : Nat) (x : Port) : (s.setPort i x).cur = s.cur := rfl
@[simp] theorem State.setPort_blocked (s : State) (i : Nat) (x : Port) : (s.setPort i x).blocked = s.blocked := rfl
@[simp] theorem State.setPort_tried (s : State) (i : Nat) (x : Port) : (s.setPort i x).tried = s.tried := rfl
@[simp] theorem State.setPort_others (s : State) (i : Nat) (x : Port) : (s.setPort i x).others = s.others := rfl

/-! ### setUnit -/

@[simp] theorem State.setUnit_powered (s : State) (i : Nat) (x : Unit) : (s.setUnit i x).powered = s.powered := rfl
@[simp] theorem State.setUnit_clock (s : State) (i : Nat) (x : Unit) : (s.setUnit i x).clock = s.clock := rfl
@[simp] theorem State.setUnit_windowAt (s : State) (i : Nat) (x : Unit) : (s.setUnit i x).windowAt = s.windowAt := rfl
@[simp] theorem State.setUnit_dispatch (s : State) (i : Nat) (x : Unit) : (s.setUnit i x).dispatch = s.dispatch := rfl
@[simp] theorem State.setUnit_mgmt (s : State) (i : Nat) (x : Unit) : (s.setUnit i x).mgmt = s.mgmt := rfl
@[simp] theorem State.setUnit_host (s : State) (i : Nat) (x : Unit) : (s.setUnit i x).host = s.host := rfl
@[simp] theorem State.setUnit_ports (s : State) (i : Nat) (x : Unit) : (s.setUnit i x).ports = s.ports := rfl
@[simp] theorem State.setUnit_ctxs (s : State) (i : Nat) (x : Unit) : (s.setUnit i x).ctxs = s.ctxs := rfl
@[simp] theorem State.setUnit_nodes (s : State) (i : Nat) (x : Unit) : (s.setUnit i x).nodes = s.nodes := rfl
@[simp] theorem State.setUnit_accepts (s : State) (i : Nat) (x : Unit) : (s.setUnit i x).accepts = s.accepts := rfl
@[simp] theorem State.setUnit_phases (s : State) (i : Nat) (x : Unit) : (s.setUnit i x).phases = s.phases := rfl
@[simp] theorem State.setUnit_dies (s : State) (i : Nat) (x : Unit) : (s.setUnit i x).dies = s.dies := rfl
@[simp] theorem State.setUnit_clusters (s : State) (i : Nat) (x : Unit) : (s.setUnit i x).clusters = s.clusters := rfl
@[simp] theorem State.setUnit_cores (s : State) (i : Nat) (x : Unit) : (s.setUnit i x).cores = s.cores := rfl
@[simp] theorem State.setUnit_threads (s : State) (i : Nat) (x : Unit) : (s.setUnit i x).threads = s.threads := rfl
@[simp] theorem State.setUnit_hbms (s : State) (i : Nat) (x : Unit) : (s.setUnit i x).hbms = s.hbms := rfl
@[simp] theorem State.setUnit_dram (s : State) (i : Nat) (x : Unit) : (s.setUnit i x).dram = s.dram := rfl
@[simp] theorem State.setUnit_loc (s : State) (i : Nat) (x : Unit) : (s.setUnit i x).loc = s.loc := rfl
@[simp] theorem State.setUnit_beats (s : State) (i : Nat) (x : Unit) : (s.setUnit i x).beats = s.beats := rfl
@[simp] theorem State.setUnit_peerArr (s : State) (i : Nat) (x : Unit) : (s.setUnit i x).peerArr = s.peerArr := rfl
@[simp] theorem State.setUnit_peerSent (s : State) (i : Nat) (x : Unit) : (s.setUnit i x).peerSent = s.peerSent := rfl
@[simp] theorem State.setUnit_peerBad (s : State) (i : Nat) (x : Unit) : (s.setUnit i x).peerBad = s.peerBad := rfl
@[simp] theorem State.setUnit_zdb (s : State) (i : Nat) (x : Unit) : (s.setUnit i x).zdb = s.zdb := rfl
@[simp] theorem State.setUnit_agenda (s : State) (i : Nat) (x : Unit) : (s.setUnit i x).agenda = s.agenda := rfl
@[simp] theorem State.setUnit_choices (s : State) (i : Nat) (x : Unit) : (s.setUnit i x).choices = s.choices := rfl
@[simp] theorem State.setUnit_freeCount (s : State) (i : Nat) (x : Unit) : (s.setUnit i x).freeCount = s.freeCount := rfl
@[simp] theorem State.setUnit_cur (s : State) (i : Nat) (x : Unit) : (s.setUnit i x).cur = s.cur := rfl
@[simp] theorem State.setUnit_blocked (s : State) (i : Nat) (x : Unit) : (s.setUnit i x).blocked = s.blocked := rfl
@[simp] theorem State.setUnit_tried (s : State) (i : Nat) (x : Unit) : (s.setUnit i x).tried = s.tried := rfl
@[simp] theorem State.setUnit_others (s : State) (i : Nat) (x : Unit) : (s.setUnit i x).others = s.others := rfl

/-! ### modMgmt -/

@[simp] theorem State.modMgmt_powered (s : State) (f : Mgmt → Mgmt) : (s.modMgmt f).powered = s.powered := rfl
@[simp] theorem State.modMgmt_clock (s : State) (f : Mgmt → Mgmt) : (s.modMgmt f).clock = s.clock := rfl
@[simp] theorem State.modMgmt_windowAt (s : State) (f : Mgmt → Mgmt) : (s.modMgmt f).windowAt = s.windowAt := rfl
@[simp] theorem State.modMgmt_dispatch (s : State) (f : Mgmt → Mgmt) : (s.modMgmt f).dispatch = s.dispatch := rfl
@[simp] theorem State.modMgmt_host (s : State) (f : Mgmt → Mgmt) : (s.modMgmt f).host = s.host := rfl
@[simp] theorem State.modMgmt_ports (s : State) (f : Mgmt → Mgmt) : (s.modMgmt f).ports = s.ports := rfl
@[simp] theorem State.modMgmt_ctxs (s : State) (f : Mgmt → Mgmt) : (s.modMgmt f).ctxs = s.ctxs := rfl
@[simp] theorem State.modMgmt_nodes (s : State) (f : Mgmt → Mgmt) : (s.modMgmt f).nodes = s.nodes := rfl
@[simp] theorem State.modMgmt_accepts (s : State) (f : Mgmt → Mgmt) : (s.modMgmt f).accepts = s.accepts := rfl
@[simp] theorem State.modMgmt_phases (s : State) (f : Mgmt → Mgmt) : (s.modMgmt f).phases = s.phases := rfl
@[simp] theorem State.modMgmt_dies (s : State) (f : Mgmt → Mgmt) : (s.modMgmt f).dies = s.dies := rfl
@[simp] theorem State.modMgmt_clusters (s : State) (f : Mgmt → Mgmt) : (s.modMgmt f).clusters = s.clusters := rfl
@[simp] theorem State.modMgmt_cores (s : State) (f : Mgmt → Mgmt) : (s.modMgmt f).cores = s.cores := rfl
@[simp] theorem State.modMgmt_threads (s : State) (f : Mgmt → Mgmt) : (s.modMgmt f).threads = s.threads := rfl
@[simp] theorem State.modMgmt_hbms (s : State) (f : Mgmt → Mgmt) : (s.modMgmt f).hbms = s.hbms := rfl
@[simp] theorem State.modMgmt_units (s : State) (f : Mgmt → Mgmt) : (s.modMgmt f).units = s.units := rfl
@[simp] theorem State.modMgmt_dram (s : State) (f : Mgmt → Mgmt) : (s.modMgmt f).dram = s.dram := rfl
@[simp] theorem State.modMgmt_loc (s : State) (f : Mgmt → Mgmt) : (s.modMgmt f).loc = s.loc := rfl
@[simp] theorem State.modMgmt_beats (s : State) (f : Mgmt → Mgmt) : (s.modMgmt f).beats = s.beats := rfl
@[simp] theorem State.modMgmt_peerArr (s : State) (f : Mgmt → Mgmt) : (s.modMgmt f).peerArr = s.peerArr := rfl
@[simp] theorem State.modMgmt_peerSent (s : State) (f : Mgmt → Mgmt) : (s.modMgmt f).peerSent = s.peerSent := rfl
@[simp] theorem State.modMgmt_peerBad (s : State) (f : Mgmt → Mgmt) : (s.modMgmt f).peerBad = s.peerBad := rfl
@[simp] theorem State.modMgmt_zdb (s : State) (f : Mgmt → Mgmt) : (s.modMgmt f).zdb = s.zdb := rfl
@[simp] theorem State.modMgmt_agenda (s : State) (f : Mgmt → Mgmt) : (s.modMgmt f).agenda = s.agenda := rfl
@[simp] theorem State.modMgmt_choices (s : State) (f : Mgmt → Mgmt) : (s.modMgmt f).choices = s.choices := rfl
@[simp] theorem State.modMgmt_freeCount (s : State) (f : Mgmt → Mgmt) : (s.modMgmt f).freeCount = s.freeCount := rfl
@[simp] theorem State.modMgmt_cur (s : State) (f : Mgmt → Mgmt) : (s.modMgmt f).cur = s.cur := rfl
@[simp] theorem State.modMgmt_blocked (s : State) (f : Mgmt → Mgmt) : (s.modMgmt f).blocked = s.blocked := rfl
@[simp] theorem State.modMgmt_tried (s : State) (f : Mgmt → Mgmt) : (s.modMgmt f).tried = s.tried := rfl
@[simp] theorem State.modMgmt_others (s : State) (f : Mgmt → Mgmt) : (s.modMgmt f).others = s.others := rfl

/-! ### modHost -/

@[simp] theorem State.modHost_powered (s : State) (f : HostPort → HostPort) : (s.modHost f).powered = s.powered := rfl
@[simp] theorem State.modHost_clock (s : State) (f : HostPort → HostPort) : (s.modHost f).clock = s.clock := rfl
@[simp] theorem State.modHost_windowAt (s : State) (f : HostPort → HostPort) : (s.modHost f).windowAt = s.windowAt := rfl
@[simp] theorem State.modHost_dispatch (s : State) (f : HostPort → HostPort) : (s.modHost f).dispatch = s.dispatch := rfl
@[simp] theorem State.modHost_mgmt (s : State) (f : HostPort → HostPort) : (s.modHost f).mgmt = s.mgmt := rfl
@[simp] theorem State.modHost_ports (s : State) (f : HostPort → HostPort) : (s.modHost f).ports = s.ports := rfl
@[simp] theorem State.modHost_ctxs (s : State) (f : HostPort → HostPort) : (s.modHost f).ctxs = s.ctxs := rfl
@[simp] theorem State.modHost_nodes (s : State) (f : HostPort → HostPort) : (s.modHost f).nodes = s.nodes := rfl
@[simp] theorem State.modHost_accepts (s : State) (f : HostPort → HostPort) : (s.modHost f).accepts = s.accepts := rfl
@[simp] theorem State.modHost_phases (s : State) (f : HostPort → HostPort) : (s.modHost f).phases = s.phases := rfl
@[simp] theorem State.modHost_dies (s : State) (f : HostPort → HostPort) : (s.modHost f).dies = s.dies := rfl
@[simp] theorem State.modHost_clusters (s : State) (f : HostPort → HostPort) : (s.modHost f).clusters = s.clusters := rfl
@[simp] theorem State.modHost_cores (s : State) (f : HostPort → HostPort) : (s.modHost f).cores = s.cores := rfl
@[simp] theorem State.modHost_threads (s : State) (f : HostPort → HostPort) : (s.modHost f).threads = s.threads := rfl
@[simp] theorem State.modHost_hbms (s : State) (f : HostPort → HostPort) : (s.modHost f).hbms = s.hbms := rfl
@[simp] theorem State.modHost_units (s : State) (f : HostPort → HostPort) : (s.modHost f).units = s.units := rfl
@[simp] theorem State.modHost_dram (s : State) (f : HostPort → HostPort) : (s.modHost f).dram = s.dram := rfl
@[simp] theorem State.modHost_loc (s : State) (f : HostPort → HostPort) : (s.modHost f).loc = s.loc := rfl
@[simp] theorem State.modHost_beats (s : State) (f : HostPort → HostPort) : (s.modHost f).beats = s.beats := rfl
@[simp] theorem State.modHost_peerArr (s : State) (f : HostPort → HostPort) : (s.modHost f).peerArr = s.peerArr := rfl
@[simp] theorem State.modHost_peerSent (s : State) (f : HostPort → HostPort) : (s.modHost f).peerSent = s.peerSent := rfl
@[simp] theorem State.modHost_peerBad (s : State) (f : HostPort → HostPort) : (s.modHost f).peerBad = s.peerBad := rfl
@[simp] theorem State.modHost_zdb (s : State) (f : HostPort → HostPort) : (s.modHost f).zdb = s.zdb := rfl
@[simp] theorem State.modHost_agenda (s : State) (f : HostPort → HostPort) : (s.modHost f).agenda = s.agenda := rfl
@[simp] theorem State.modHost_choices (s : State) (f : HostPort → HostPort) : (s.modHost f).choices = s.choices := rfl
@[simp] theorem State.modHost_freeCount (s : State) (f : HostPort → HostPort) : (s.modHost f).freeCount = s.freeCount := rfl
@[simp] theorem State.modHost_cur (s : State) (f : HostPort → HostPort) : (s.modHost f).cur = s.cur := rfl
@[simp] theorem State.modHost_blocked (s : State) (f : HostPort → HostPort) : (s.modHost f).blocked = s.blocked := rfl
@[simp] theorem State.modHost_tried (s : State) (f : HostPort → HostPort) : (s.modHost f).tried = s.tried := rfl
@[simp] theorem State.modHost_others (s : State) (f : HostPort → HostPort) : (s.modHost f).others = s.others := rfl

/-! ### Reading after an update -/

@[simp] theorem State.th_setTh_same (s : State) (i : Nat) (x : Thread) : (s.setTh i x).th i = x := by
  simp [State.th, State.setTh, Laws.tget_tset_same]
theorem State.th_setTh (s : State) (i j : Nat) (x : Thread) : (s.setTh i x).th j = if j = i then x else s.th j := by
  simp [State.th, State.setTh, Laws.tget_tset]
@[simp] theorem State.modTh_eq (s : State) (i : Nat) (f : Thread → Thread) : s.modTh i f = s.setTh i (f (s.th i)) := rfl
@[simp] theorem State.core_setCore_same (s : State) (i : Nat) (x : Core) : (s.setCore i x).core i = x := by
  simp [State.core, State.setCore, Laws.tget_tset_same]
theorem State.core_setCore (s : State) (i j : Nat) (x : Core) : (s.setCore i x).core j = if j = i then x else s.core j := by
  simp [State.core, State.setCore, Laws.tget_tset]
@[simp] theorem State.modCore_eq (s : State) (i : Nat) (f : Core → Core) : s.modCore i f = s.setCore i (f (s.core i)) := rfl
@[simp] theorem State.clus_setClus_same (s : State) (i : Nat) (x : Cluster) : (s.setClus i x).clus i = x := by
  simp [State.clus, State.setClus, Laws.tget_tset_same]
theorem State.clus_setClus (s : State) (i j : Nat) (x : Cluster) : (s.setClus i x).clus j = if j = i then x else s.clus j := by
  simp [State.clus, State.setClus, Laws.tget_tset]
@[simp] theorem State.modClus_eq (s : State) (i : Nat) (f : Cluster → Cluster) : s.modClus i f = s.setClus i (f (s.clus i)) := rfl
@[simp] theorem State.die_setDie_same (s : State) (i : Nat) (x : Die) : (s.setDie i x).die i = x := by
  simp [State.die, State.setDie, Laws.tget_tset_same]
theorem State.die_setDie (s : State) (i j : Nat) (x : Die) : (s.setDie i x).die j = if j = i then x else s.die j := by
  simp [State.die, State.setDie, Laws.tget_tset]
@[simp] theorem State.modDie_eq (s : State) (i : Nat) (f : Die → Die) : s.modDie i f = s.setDie i (f (s.die i)) := rfl
@[simp] theorem State.stack_setStack_same (s : State) (i : Nat) (x : Stack) : (s.setStack i x).stack i = x := by
  simp [State.stack, State.setStack, Laws.tget_tset_same]
theorem State.stack_setStack (s : State) (i j : Nat) (x : Stack) : (s.setStack i x).stack j = if j = i then x else s.stack j := by
  simp [State.stack, State.setStack, Laws.tget_tset]
@[simp] theorem State.modStack_eq (s : State) (i : Nat) (f : Stack → Stack) : s.modStack i f = s.setStack i (f (s.stack i)) := rfl
@[simp] theorem State.ctx_setCtx_same (s : State) (i : Nat) (x : Ctx) : (s.setCtx i x).ctx i = x := by
  simp [State.ctx, State.setCtx, Laws.tget_tset_same]
theorem State.ctx_setCtx (s : State) (i j : Nat) (x : Ctx) : (s.setCtx i x).ctx j = if j = i then x else s.ctx j := by
  simp [State.ctx, State.setCtx, Laws.tget_tset]
@[simp] theorem State.modCtx_eq (s : State) (i : Nat) (f : Ctx → Ctx) : s.modCtx i f = s.setCtx i (f (s.ctx i)) := rfl
@[simp] theorem State.node_setNode_same (s : State) (i : Nat) (x : Node) : (s.setNode i x).node i = x := by
  simp [State.node, State.setNode, Laws.tget_tset_same]
theorem State.node_setNode (s : State) (i j : Nat) (x : Node) : (s.setNode i x).node j = if j = i then x else s.node j := by
  simp [State.node, State.setNode, Laws.tget_tset]
@[simp] theorem State.modNode_eq (s : State) (i : Nat) (f : Node → Node) : s.modNode i f = s.setNode i (f (s.node i)) := rfl
@[simp] theorem State.port_setPort_same (s : State) (i : Nat) (x : Port) : (s.setPort i x).port i = x := by
  simp [State.port, State.setPort, Laws.tget_tset_same]
theorem State.port_setPort (s : State) (i j : Nat) (x : Port) : (s.setPort i x).port j = if j = i then x else s.port j := by
  simp [State.port, State.setPort, Laws.tget_tset]
@[simp] theorem State.modPort_eq (s : State) (i : Nat) (f : Port → Port) : s.modPort i f = s.setPort i (f (s.port i)) := rfl
@[simp] theorem State.unit_setUnit_same (s : State) (i : Nat) (x : Unit) : (s.setUnit i x).unit i = x := by
  simp [State.unit, State.setUnit, Laws.tget_tset_same]
theorem State.unit_setUnit (s : State) (i j : Nat) (x : Unit) : (s.setUnit i x).unit j = if j = i then x else s.unit j := by
  simp [State.unit, State.setUnit, Laws.tget_tset]

/-! ### Parts that an update of another part leaves alone -/

@[simp] theorem State.core_setTh (s : State) (i : Nat) (x : Thread) (j : Nat) : (s.setTh i x).core j = s.core j := rfl
@[simp] theorem State.clus_setTh (s : State) (i : Nat) (x : Thread) (j : Nat) : (s.setTh i x).clus j = s.clus j := rfl
@[simp] theorem State.die_setTh (s : State) (i : Nat) (x : Thread) (j : Nat) : (s.setTh i x).die j = s.die j := rfl
@[simp] theorem State.stack_setTh (s : State) (i : Nat) (x : Thread) (j : Nat) : (s.setTh i x).stack j = s.stack j := rfl
@[simp] theorem State.ctx_setTh (s : State) (i : Nat) (x : Thread) (j : Nat) : (s.setTh i x).ctx j = s.ctx j := rfl
@[simp] theorem State.node_setTh (s : State) (i : Nat) (x : Thread) (j : Nat) : (s.setTh i x).node j = s.node j := rfl
@[simp] theorem State.port_setTh (s : State) (i : Nat) (x : Thread) (j : Nat) : (s.setTh i x).port j = s.port j := rfl
@[simp] theorem State.unit_setTh (s : State) (i : Nat) (x : Thread) (j : Nat) : (s.setTh i x).unit j = s.unit j := rfl
@[simp] theorem State.th_setCore (s : State) (i : Nat) (x : Core) (j : Nat) : (s.setCore i x).th j = s.th j := rfl
@[simp] theorem State.clus_setCore (s : State) (i : Nat) (x : Core) (j : Nat) : (s.setCore i x).clus j = s.clus j := rfl
@[simp] theorem State.die_setCore (s : State) (i : Nat) (x : Core) (j : Nat) : (s.setCore i x).die j = s.die j := rfl
@[simp] theorem State.stack_setCore (s : State) (i : Nat) (x : Core) (j : Nat) : (s.setCore i x).stack j = s.stack j := rfl
@[simp] theorem State.ctx_setCore (s : State) (i : Nat) (x : Core) (j : Nat) : (s.setCore i x).ctx j = s.ctx j := rfl
@[simp] theorem State.node_setCore (s : State) (i : Nat) (x : Core) (j : Nat) : (s.setCore i x).node j = s.node j := rfl
@[simp] theorem State.port_setCore (s : State) (i : Nat) (x : Core) (j : Nat) : (s.setCore i x).port j = s.port j := rfl
@[simp] theorem State.unit_setCore (s : State) (i : Nat) (x : Core) (j : Nat) : (s.setCore i x).unit j = s.unit j := rfl
@[simp] theorem State.th_setClus (s : State) (i : Nat) (x : Cluster) (j : Nat) : (s.setClus i x).th j = s.th j := rfl
@[simp] theorem State.core_setClus (s : State) (i : Nat) (x : Cluster) (j : Nat) : (s.setClus i x).core j = s.core j := rfl
@[simp] theorem State.die_setClus (s : State) (i : Nat) (x : Cluster) (j : Nat) : (s.setClus i x).die j = s.die j := rfl
@[simp] theorem State.stack_setClus (s : State) (i : Nat) (x : Cluster) (j : Nat) : (s.setClus i x).stack j = s.stack j := rfl
@[simp] theorem State.ctx_setClus (s : State) (i : Nat) (x : Cluster) (j : Nat) : (s.setClus i x).ctx j = s.ctx j := rfl
@[simp] theorem State.node_setClus (s : State) (i : Nat) (x : Cluster) (j : Nat) : (s.setClus i x).node j = s.node j := rfl
@[simp] theorem State.port_setClus (s : State) (i : Nat) (x : Cluster) (j : Nat) : (s.setClus i x).port j = s.port j := rfl
@[simp] theorem State.unit_setClus (s : State) (i : Nat) (x : Cluster) (j : Nat) : (s.setClus i x).unit j = s.unit j := rfl
@[simp] theorem State.th_setDie (s : State) (i : Nat) (x : Die) (j : Nat) : (s.setDie i x).th j = s.th j := rfl
@[simp] theorem State.core_setDie (s : State) (i : Nat) (x : Die) (j : Nat) : (s.setDie i x).core j = s.core j := rfl
@[simp] theorem State.clus_setDie (s : State) (i : Nat) (x : Die) (j : Nat) : (s.setDie i x).clus j = s.clus j := rfl
@[simp] theorem State.stack_setDie (s : State) (i : Nat) (x : Die) (j : Nat) : (s.setDie i x).stack j = s.stack j := rfl
@[simp] theorem State.ctx_setDie (s : State) (i : Nat) (x : Die) (j : Nat) : (s.setDie i x).ctx j = s.ctx j := rfl
@[simp] theorem State.node_setDie (s : State) (i : Nat) (x : Die) (j : Nat) : (s.setDie i x).node j = s.node j := rfl
@[simp] theorem State.port_setDie (s : State) (i : Nat) (x : Die) (j : Nat) : (s.setDie i x).port j = s.port j := rfl
@[simp] theorem State.unit_setDie (s : State) (i : Nat) (x : Die) (j : Nat) : (s.setDie i x).unit j = s.unit j := rfl
@[simp] theorem State.th_setStack (s : State) (i : Nat) (x : Stack) (j : Nat) : (s.setStack i x).th j = s.th j := rfl
@[simp] theorem State.core_setStack (s : State) (i : Nat) (x : Stack) (j : Nat) : (s.setStack i x).core j = s.core j := rfl
@[simp] theorem State.clus_setStack (s : State) (i : Nat) (x : Stack) (j : Nat) : (s.setStack i x).clus j = s.clus j := rfl
@[simp] theorem State.die_setStack (s : State) (i : Nat) (x : Stack) (j : Nat) : (s.setStack i x).die j = s.die j := rfl
@[simp] theorem State.ctx_setStack (s : State) (i : Nat) (x : Stack) (j : Nat) : (s.setStack i x).ctx j = s.ctx j := rfl
@[simp] theorem State.node_setStack (s : State) (i : Nat) (x : Stack) (j : Nat) : (s.setStack i x).node j = s.node j := rfl
@[simp] theorem State.port_setStack (s : State) (i : Nat) (x : Stack) (j : Nat) : (s.setStack i x).port j = s.port j := rfl
@[simp] theorem State.unit_setStack (s : State) (i : Nat) (x : Stack) (j : Nat) : (s.setStack i x).unit j = s.unit j := rfl
@[simp] theorem State.th_setCtx (s : State) (i : Nat) (x : Ctx) (j : Nat) : (s.setCtx i x).th j = s.th j := rfl
@[simp] theorem State.core_setCtx (s : State) (i : Nat) (x : Ctx) (j : Nat) : (s.setCtx i x).core j = s.core j := rfl
@[simp] theorem State.clus_setCtx (s : State) (i : Nat) (x : Ctx) (j : Nat) : (s.setCtx i x).clus j = s.clus j := rfl
@[simp] theorem State.die_setCtx (s : State) (i : Nat) (x : Ctx) (j : Nat) : (s.setCtx i x).die j = s.die j := rfl
@[simp] theorem State.stack_setCtx (s : State) (i : Nat) (x : Ctx) (j : Nat) : (s.setCtx i x).stack j = s.stack j := rfl
@[simp] theorem State.node_setCtx (s : State) (i : Nat) (x : Ctx) (j : Nat) : (s.setCtx i x).node j = s.node j := rfl
@[simp] theorem State.port_setCtx (s : State) (i : Nat) (x : Ctx) (j : Nat) : (s.setCtx i x).port j = s.port j := rfl
@[simp] theorem State.unit_setCtx (s : State) (i : Nat) (x : Ctx) (j : Nat) : (s.setCtx i x).unit j = s.unit j := rfl
@[simp] theorem State.th_setNode (s : State) (i : Nat) (x : Node) (j : Nat) : (s.setNode i x).th j = s.th j := rfl
@[simp] theorem State.core_setNode (s : State) (i : Nat) (x : Node) (j : Nat) : (s.setNode i x).core j = s.core j := rfl
@[simp] theorem State.clus_setNode (s : State) (i : Nat) (x : Node) (j : Nat) : (s.setNode i x).clus j = s.clus j := rfl
@[simp] theorem State.die_setNode (s : State) (i : Nat) (x : Node) (j : Nat) : (s.setNode i x).die j = s.die j := rfl
@[simp] theorem State.stack_setNode (s : State) (i : Nat) (x : Node) (j : Nat) : (s.setNode i x).stack j = s.stack j := rfl
@[simp] theorem State.ctx_setNode (s : State) (i : Nat) (x : Node) (j : Nat) : (s.setNode i x).ctx j = s.ctx j := rfl
@[simp] theorem State.port_setNode (s : State) (i : Nat) (x : Node) (j : Nat) : (s.setNode i x).port j = s.port j := rfl
@[simp] theorem State.unit_setNode (s : State) (i : Nat) (x : Node) (j : Nat) : (s.setNode i x).unit j = s.unit j := rfl
@[simp] theorem State.th_setPort (s : State) (i : Nat) (x : Port) (j : Nat) : (s.setPort i x).th j = s.th j := rfl
@[simp] theorem State.core_setPort (s : State) (i : Nat) (x : Port) (j : Nat) : (s.setPort i x).core j = s.core j := rfl
@[simp] theorem State.clus_setPort (s : State) (i : Nat) (x : Port) (j : Nat) : (s.setPort i x).clus j = s.clus j := rfl
@[simp] theorem State.die_setPort (s : State) (i : Nat) (x : Port) (j : Nat) : (s.setPort i x).die j = s.die j := rfl
@[simp] theorem State.stack_setPort (s : State) (i : Nat) (x : Port) (j : Nat) : (s.setPort i x).stack j = s.stack j := rfl
@[simp] theorem State.ctx_setPort (s : State) (i : Nat) (x : Port) (j : Nat) : (s.setPort i x).ctx j = s.ctx j := rfl
@[simp] theorem State.node_setPort (s : State) (i : Nat) (x : Port) (j : Nat) : (s.setPort i x).node j = s.node j := rfl
@[simp] theorem State.unit_setPort (s : State) (i : Nat) (x : Port) (j : Nat) : (s.setPort i x).unit j = s.unit j := rfl
@[simp] theorem State.th_setUnit (s : State) (i : Nat) (x : Unit) (j : Nat) : (s.setUnit i x).th j = s.th j := rfl
@[simp] theorem State.core_setUnit (s : State) (i : Nat) (x : Unit) (j : Nat) : (s.setUnit i x).core j = s.core j := rfl
@[simp] theorem State.clus_setUnit (s : State) (i : Nat) (x : Unit) (j : Nat) : (s.setUnit i x).clus j = s.clus j := rfl
@[simp] theorem State.die_setUnit (s : State) (i : Nat) (x : Unit) (j : Nat) : (s.setUnit i x).die j = s.die j := rfl
@[simp] theorem State.stack_setUnit (s : State) (i : Nat) (x : Unit) (j : Nat) : (s.setUnit i x).stack j = s.stack j := rfl
@[simp] theorem State.ctx_setUnit (s : State) (i : Nat) (x : Unit) (j : Nat) : (s.setUnit i x).ctx j = s.ctx j := rfl
@[simp] theorem State.node_setUnit (s : State) (i : Nat) (x : Unit) (j : Nat) : (s.setUnit i x).node j = s.node j := rfl
@[simp] theorem State.port_setUnit (s : State) (i : Nat) (x : Unit) (j : Nat) : (s.setUnit i x).port j = s.port j := rfl
@[simp] theorem State.th_modMgmt (s : State) (f : Mgmt → Mgmt) (j : Nat) : (s.modMgmt f).th j = s.th j := rfl
@[simp] theorem State.core_modMgmt (s : State) (f : Mgmt → Mgmt) (j : Nat) : (s.modMgmt f).core j = s.core j := rfl
@[simp] theorem State.clus_modMgmt (s : State) (f : Mgmt → Mgmt) (j : Nat) : (s.modMgmt f).clus j = s.clus j := rfl
@[simp] theorem State.die_modMgmt (s : State) (f : Mgmt → Mgmt) (j : Nat) : (s.modMgmt f).die j = s.die j := rfl
@[simp] theorem State.stack_modMgmt (s : State) (f : Mgmt → Mgmt) (j : Nat) : (s.modMgmt f).stack j = s.stack j := rfl
@[simp] theorem State.ctx_modMgmt (s : State) (f : Mgmt → Mgmt) (j : Nat) : (s.modMgmt f).ctx j = s.ctx j := rfl
@[simp] theorem State.node_modMgmt (s : State) (f : Mgmt → Mgmt) (j : Nat) : (s.modMgmt f).node j = s.node j := rfl
@[simp] theorem State.port_modMgmt (s : State) (f : Mgmt → Mgmt) (j : Nat) : (s.modMgmt f).port j = s.port j := rfl
@[simp] theorem State.unit_modMgmt (s : State) (f : Mgmt → Mgmt) (j : Nat) : (s.modMgmt f).unit j = s.unit j := rfl
@[simp] theorem State.th_modHost (s : State) (f : HostPort → HostPort) (j : Nat) : (s.modHost f).th j = s.th j := rfl
@[simp] theorem State.core_modHost (s : State) (f : HostPort → HostPort) (j : Nat) : (s.modHost f).core j = s.core j := rfl
@[simp] theorem State.clus_modHost (s : State) (f : HostPort → HostPort) (j : Nat) : (s.modHost f).clus j = s.clus j := rfl
@[simp] theorem State.die_modHost (s : State) (f : HostPort → HostPort) (j : Nat) : (s.modHost f).die j = s.die j := rfl
@[simp] theorem State.stack_modHost (s : State) (f : HostPort → HostPort) (j : Nat) : (s.modHost f).stack j = s.stack j := rfl
@[simp] theorem State.ctx_modHost (s : State) (f : HostPort → HostPort) (j : Nat) : (s.modHost f).ctx j = s.ctx j := rfl
@[simp] theorem State.node_modHost (s : State) (f : HostPort → HostPort) (j : Nat) : (s.modHost f).node j = s.node j := rfl
@[simp] theorem State.port_modHost (s : State) (f : HostPort → HostPort) (j : Nat) : (s.modHost f).port j = s.port j := rfl
@[simp] theorem State.unit_modHost (s : State) (f : HostPort → HostPort) (j : Nat) : (s.modHost f).unit j = s.unit j := rfl

@[simp] theorem State.modMe_eq (s : State) (f : Thread → Thread) : s.modMe f = s.setTh s.cur (f s.me) := rfl

/-! ### The end of an instruction -/

@[simp] theorem State.retire_powered (s : State) (len : Nat) : (s.retire len).powered = s.powered := rfl
@[simp] theorem State.retire_clock (s : State) (len : Nat) : (s.retire len).clock = s.clock := rfl
@[simp] theorem State.retire_windowAt (s : State) (len : Nat) : (s.retire len).windowAt = s.windowAt := rfl
@[simp] theorem State.retire_dispatch (s : State) (len : Nat) : (s.retire len).dispatch = s.dispatch := rfl
@[simp] theorem State.retire_mgmt (s : State) (len : Nat) : (s.retire len).mgmt = s.mgmt := rfl
@[simp] theorem State.retire_host (s : State) (len : Nat) : (s.retire len).host = s.host := rfl
@[simp] theorem State.retire_ports (s : State) (len : Nat) : (s.retire len).ports = s.ports := rfl
@[simp] theorem State.retire_ctxs (s : State) (len : Nat) : (s.retire len).ctxs = s.ctxs := rfl
@[simp] theorem State.retire_nodes (s : State) (len : Nat) : (s.retire len).nodes = s.nodes := rfl
@[simp] theorem State.retire_accepts (s : State) (len : Nat) : (s.retire len).accepts = s.accepts := rfl
@[simp] theorem State.retire_phases (s : State) (len : Nat) : (s.retire len).phases = s.phases := rfl
@[simp] theorem State.retire_dies (s : State) (len : Nat) : (s.retire len).dies = s.dies := rfl
@[simp] theorem State.retire_clusters (s : State) (len : Nat) : (s.retire len).clusters = s.clusters := rfl
@[simp] theorem State.retire_cores (s : State) (len : Nat) : (s.retire len).cores = s.cores := rfl
@[simp] theorem State.retire_hbms (s : State) (len : Nat) : (s.retire len).hbms = s.hbms := rfl
@[simp] theorem State.retire_units (s : State) (len : Nat) : (s.retire len).units = s.units := rfl
@[simp] theorem State.retire_dram (s : State) (len : Nat) : (s.retire len).dram = s.dram := rfl
@[simp] theorem State.retire_loc (s : State) (len : Nat) : (s.retire len).loc = s.loc := rfl
@[simp] theorem State.retire_beats (s : State) (len : Nat) : (s.retire len).beats = s.beats := rfl
@[simp] theorem State.retire_peerArr (s : State) (len : Nat) : (s.retire len).peerArr = s.peerArr := rfl
@[simp] theorem State.retire_peerSent (s : State) (len : Nat) : (s.retire len).peerSent = s.peerSent := rfl
@[simp] theorem State.retire_peerBad (s : State) (len : Nat) : (s.retire len).peerBad = s.peerBad := rfl
@[simp] theorem State.retire_zdb (s : State) (len : Nat) : (s.retire len).zdb = s.zdb := rfl
@[simp] theorem State.retire_agenda (s : State) (len : Nat) : (s.retire len).agenda = s.agenda := rfl
@[simp] theorem State.retire_choices (s : State) (len : Nat) : (s.retire len).choices = s.choices := rfl
@[simp] theorem State.retire_freeCount (s : State) (len : Nat) : (s.retire len).freeCount = s.freeCount := rfl
@[simp] theorem State.retire_cur (s : State) (len : Nat) : (s.retire len).cur = s.cur := rfl
@[simp] theorem State.retire_tried (s : State) (len : Nat) : (s.retire len).tried = s.tried := rfl
@[simp] theorem State.retire_others (s : State) (len : Nat) : (s.retire len).others = s.others := rfl
@[simp] theorem State.core_retire (s : State) (len : Nat) (j : Nat) : (s.retire len).core j = s.core j := rfl
@[simp] theorem State.clus_retire (s : State) (len : Nat) (j : Nat) : (s.retire len).clus j = s.clus j := rfl
@[simp] theorem State.die_retire (s : State) (len : Nat) (j : Nat) : (s.retire len).die j = s.die j := rfl
@[simp] theorem State.stack_retire (s : State) (len : Nat) (j : Nat) : (s.retire len).stack j = s.stack j := rfl
@[simp] theorem State.ctx_retire (s : State) (len : Nat) (j : Nat) : (s.retire len).ctx j = s.ctx j := rfl
@[simp] theorem State.node_retire (s : State) (len : Nat) (j : Nat) : (s.retire len).node j = s.node j := rfl
@[simp] theorem State.port_retire (s : State) (len : Nat) (j : Nat) : (s.retire len).port j = s.port j := rfl
@[simp] theorem State.unit_retire (s : State) (len : Nat) (j : Nat) : (s.retire len).unit j = s.unit j := rfl
@[simp] theorem State.retireWith_powered (s : State) (len : Nat) (f : Thread → Thread) : (s.retireWith len f).powered = s.powered := rfl
@[simp] theorem State.retireWith_clock (s : State) (len : Nat) (f : Thread → Thread) : (s.retireWith len f).clock = s.clock := rfl
@[simp] theorem State.retireWith_windowAt (s : State) (len : Nat) (f : Thread → Thread) : (s.retireWith len f).windowAt = s.windowAt := rfl
@[simp] theorem State.retireWith_dispatch (s : State) (len : Nat) (f : Thread → Thread) : (s.retireWith len f).dispatch = s.dispatch := rfl
@[simp] theorem State.retireWith_mgmt (s : State) (len : Nat) (f : Thread → Thread) : (s.retireWith len f).mgmt = s.mgmt := rfl
@[simp] theorem State.retireWith_host (s : State) (len : Nat) (f : Thread → Thread) : (s.retireWith len f).host = s.host := rfl
@[simp] theorem State.retireWith_ports (s : State) (len : Nat) (f : Thread → Thread) : (s.retireWith len f).ports = s.ports := rfl
@[simp] theorem State.retireWith_ctxs (s : State) (len : Nat) (f : Thread → Thread) : (s.retireWith len f).ctxs = s.ctxs := rfl
@[simp] theorem State.retireWith_nodes (s : State) (len : Nat) (f : Thread → Thread) : (s.retireWith len f).nodes = s.nodes := rfl
@[simp] theorem State.retireWith_accepts (s : State) (len : Nat) (f : Thread → Thread) : (s.retireWith len f).accepts = s.accepts := rfl
@[simp] theorem State.retireWith_phases (s : State) (len : Nat) (f : Thread → Thread) : (s.retireWith len f).phases = s.phases := rfl
@[simp] theorem State.retireWith_dies (s : State) (len : Nat) (f : Thread → Thread) : (s.retireWith len f).dies = s.dies := rfl
@[simp] theorem State.retireWith_clusters (s : State) (len : Nat) (f : Thread → Thread) : (s.retireWith len f).clusters = s.clusters := rfl
@[simp] theorem State.retireWith_cores (s : State) (len : Nat) (f : Thread → Thread) : (s.retireWith len f).cores = s.cores := rfl
@[simp] theorem State.retireWith_hbms (s : State) (len : Nat) (f : Thread → Thread) : (s.retireWith len f).hbms = s.hbms := rfl
@[simp] theorem State.retireWith_units (s : State) (len : Nat) (f : Thread → Thread) : (s.retireWith len f).units = s.units := rfl
@[simp] theorem State.retireWith_dram (s : State) (len : Nat) (f : Thread → Thread) : (s.retireWith len f).dram = s.dram := rfl
@[simp] theorem State.retireWith_loc (s : State) (len : Nat) (f : Thread → Thread) : (s.retireWith len f).loc = s.loc := rfl
@[simp] theorem State.retireWith_beats (s : State) (len : Nat) (f : Thread → Thread) : (s.retireWith len f).beats = s.beats := rfl
@[simp] theorem State.retireWith_peerArr (s : State) (len : Nat) (f : Thread → Thread) : (s.retireWith len f).peerArr = s.peerArr := rfl
@[simp] theorem State.retireWith_peerSent (s : State) (len : Nat) (f : Thread → Thread) : (s.retireWith len f).peerSent = s.peerSent := rfl
@[simp] theorem State.retireWith_peerBad (s : State) (len : Nat) (f : Thread → Thread) : (s.retireWith len f).peerBad = s.peerBad := rfl
@[simp] theorem State.retireWith_zdb (s : State) (len : Nat) (f : Thread → Thread) : (s.retireWith len f).zdb = s.zdb := rfl
@[simp] theorem State.retireWith_agenda (s : State) (len : Nat) (f : Thread → Thread) : (s.retireWith len f).agenda = s.agenda := rfl
@[simp] theorem State.retireWith_choices (s : State) (len : Nat) (f : Thread → Thread) : (s.retireWith len f).choices = s.choices := rfl
@[simp] theorem State.retireWith_freeCount (s : State) (len : Nat) (f : Thread → Thread) : (s.retireWith len f).freeCount = s.freeCount := rfl
@[simp] theorem State.retireWith_cur (s : State) (len : Nat) (f : Thread → Thread) : (s.retireWith len f).cur = s.cur := rfl
@[simp] theorem State.retireWith_tried (s : State) (len : Nat) (f : Thread → Thread) : (s.retireWith len f).tried = s.tried := rfl
@[simp] theorem State.retireWith_others (s : State) (len : Nat) (f : Thread → Thread) : (s.retireWith len f).others = s.others := rfl
@[simp] theorem State.core_retireWith (s : State) (len : Nat) (f : Thread → Thread) (j : Nat) : (s.retireWith len f).core j = s.core j := rfl
@[simp] theorem State.clus_retireWith (s : State) (len : Nat) (f : Thread → Thread) (j : Nat) : (s.retireWith len f).clus j = s.clus j := rfl
@[simp] theorem State.die_retireWith (s : State) (len : Nat) (f : Thread → Thread) (j : Nat) : (s.retireWith len f).die j = s.die j := rfl
@[simp] theorem State.stack_retireWith (s : State) (len : Nat) (f : Thread → Thread) (j : Nat) : (s.retireWith len f).stack j = s.stack j := rfl
@[simp] theorem State.ctx_retireWith (s : State) (len : Nat) (f : Thread → Thread) (j : Nat) : (s.retireWith len f).ctx j = s.ctx j := rfl
@[simp] theorem State.node_retireWith (s : State) (len : Nat) (f : Thread → Thread) (j : Nat) : (s.retireWith len f).node j = s.node j := rfl
@[simp] theorem State.port_retireWith (s : State) (len : Nat) (f : Thread → Thread) (j : Nat) : (s.retireWith len f).port j = s.port j := rfl
@[simp] theorem State.unit_retireWith (s : State) (len : Nat) (f : Thread → Thread) (j : Nat) : (s.retireWith len f).unit j = s.unit j := rfl
@[simp] theorem State.branch_powered (s : State) (t : Option Word) (f : Thread → Thread) : (s.branch t f).powered = s.powered := rfl
@[simp] theorem State.branch_clock (s : State) (t : Option Word) (f : Thread → Thread) : (s.branch t f).clock = s.clock := rfl
@[simp] theorem State.branch_windowAt (s : State) (t : Option Word) (f : Thread → Thread) : (s.branch t f).windowAt = s.windowAt := rfl
@[simp] theorem State.branch_dispatch (s : State) (t : Option Word) (f : Thread → Thread) : (s.branch t f).dispatch = s.dispatch := rfl
@[simp] theorem State.branch_mgmt (s : State) (t : Option Word) (f : Thread → Thread) : (s.branch t f).mgmt = s.mgmt := rfl
@[simp] theorem State.branch_host (s : State) (t : Option Word) (f : Thread → Thread) : (s.branch t f).host = s.host := rfl
@[simp] theorem State.branch_ports (s : State) (t : Option Word) (f : Thread → Thread) : (s.branch t f).ports = s.ports := rfl
@[simp] theorem State.branch_ctxs (s : State) (t : Option Word) (f : Thread → Thread) : (s.branch t f).ctxs = s.ctxs := rfl
@[simp] theorem State.branch_nodes (s : State) (t : Option Word) (f : Thread → Thread) : (s.branch t f).nodes = s.nodes := rfl
@[simp] theorem State.branch_accepts (s : State) (t : Option Word) (f : Thread → Thread) : (s.branch t f).accepts = s.accepts := rfl
@[simp] theorem State.branch_phases (s : State) (t : Option Word) (f : Thread → Thread) : (s.branch t f).phases = s.phases := rfl
@[simp] theorem State.branch_dies (s : State) (t : Option Word) (f : Thread → Thread) : (s.branch t f).dies = s.dies := rfl
@[simp] theorem State.branch_clusters (s : State) (t : Option Word) (f : Thread → Thread) : (s.branch t f).clusters = s.clusters := rfl
@[simp] theorem State.branch_cores (s : State) (t : Option Word) (f : Thread → Thread) : (s.branch t f).cores = s.cores := rfl
@[simp] theorem State.branch_hbms (s : State) (t : Option Word) (f : Thread → Thread) : (s.branch t f).hbms = s.hbms := rfl
@[simp] theorem State.branch_units (s : State) (t : Option Word) (f : Thread → Thread) : (s.branch t f).units = s.units := rfl
@[simp] theorem State.branch_dram (s : State) (t : Option Word) (f : Thread → Thread) : (s.branch t f).dram = s.dram := rfl
@[simp] theorem State.branch_loc (s : State) (t : Option Word) (f : Thread → Thread) : (s.branch t f).loc = s.loc := rfl
@[simp] theorem State.branch_beats (s : State) (t : Option Word) (f : Thread → Thread) : (s.branch t f).beats = s.beats := rfl
@[simp] theorem State.branch_peerArr (s : State) (t : Option Word) (f : Thread → Thread) : (s.branch t f).peerArr = s.peerArr := rfl
@[simp] theorem State.branch_peerSent (s : State) (t : Option Word) (f : Thread → Thread) : (s.branch t f).peerSent = s.peerSent := rfl
@[simp] theorem State.branch_peerBad (s : State) (t : Option Word) (f : Thread → Thread) : (s.branch t f).peerBad = s.peerBad := rfl
@[simp] theorem State.branch_zdb (s : State) (t : Option Word) (f : Thread → Thread) : (s.branch t f).zdb = s.zdb := rfl
@[simp] theorem State.branch_agenda (s : State) (t : Option Word) (f : Thread → Thread) : (s.branch t f).agenda = s.agenda := rfl
@[simp] theorem State.branch_choices (s : State) (t : Option Word) (f : Thread → Thread) : (s.branch t f).choices = s.choices := rfl
@[simp] theorem State.branch_freeCount (s : State) (t : Option Word) (f : Thread → Thread) : (s.branch t f).freeCount = s.freeCount := rfl
@[simp] theorem State.branch_cur (s : State) (t : Option Word) (f : Thread → Thread) : (s.branch t f).cur = s.cur := rfl
@[simp] theorem State.branch_tried (s : State) (t : Option Word) (f : Thread → Thread) : (s.branch t f).tried = s.tried := rfl
@[simp] theorem State.branch_others (s : State) (t : Option Word) (f : Thread → Thread) : (s.branch t f).others = s.others := rfl
@[simp] theorem State.core_branch (s : State) (t : Option Word) (f : Thread → Thread) (j : Nat) : (s.branch t f).core j = s.core j := rfl
@[simp] theorem State.clus_branch (s : State) (t : Option Word) (f : Thread → Thread) (j : Nat) : (s.branch t f).clus j = s.clus j := rfl
@[simp] theorem State.die_branch (s : State) (t : Option Word) (f : Thread → Thread) (j : Nat) : (s.branch t f).die j = s.die j := rfl
@[simp] theorem State.stack_branch (s : State) (t : Option Word) (f : Thread → Thread) (j : Nat) : (s.branch t f).stack j = s.stack j := rfl
@[simp] theorem State.ctx_branch (s : State) (t : Option Word) (f : Thread → Thread) (j : Nat) : (s.branch t f).ctx j = s.ctx j := rfl
@[simp] theorem State.node_branch (s : State) (t : Option Word) (f : Thread → Thread) (j : Nat) : (s.branch t f).node j = s.node j := rfl
@[simp] theorem State.port_branch (s : State) (t : Option Word) (f : Thread → Thread) (j : Nat) : (s.branch t f).port j = s.port j := rfl
@[simp] theorem State.unit_branch (s : State) (t : Option Word) (f : Thread → Thread) (j : Nat) : (s.branch t f).unit j = s.unit j := rfl
@[simp] theorem State.wait_powered (s : State) : (s.wait).powered = s.powered := rfl
@[simp] theorem State.wait_clock (s : State) : (s.wait).clock = s.clock := rfl
@[simp] theorem State.wait_windowAt (s : State) : (s.wait).windowAt = s.windowAt := rfl
@[simp] theorem State.wait_dispatch (s : State) : (s.wait).dispatch = s.dispatch := rfl
@[simp] theorem State.wait_mgmt (s : State) : (s.wait).mgmt = s.mgmt := rfl
@[simp] theorem State.wait_host (s : State) : (s.wait).host = s.host := rfl
@[simp] theorem State.wait_ports (s : State) : (s.wait).ports = s.ports := rfl
@[simp] theorem State.wait_ctxs (s : State) : (s.wait).ctxs = s.ctxs := rfl
@[simp] theorem State.wait_nodes (s : State) : (s.wait).nodes = s.nodes := rfl
@[simp] theorem State.wait_accepts (s : State) : (s.wait).accepts = s.accepts := rfl
@[simp] theorem State.wait_phases (s : State) : (s.wait).phases = s.phases := rfl
@[simp] theorem State.wait_dies (s : State) : (s.wait).dies = s.dies := rfl
@[simp] theorem State.wait_clusters (s : State) : (s.wait).clusters = s.clusters := rfl
@[simp] theorem State.wait_cores (s : State) : (s.wait).cores = s.cores := rfl
@[simp] theorem State.wait_hbms (s : State) : (s.wait).hbms = s.hbms := rfl
@[simp] theorem State.wait_units (s : State) : (s.wait).units = s.units := rfl
@[simp] theorem State.wait_dram (s : State) : (s.wait).dram = s.dram := rfl
@[simp] theorem State.wait_loc (s : State) : (s.wait).loc = s.loc := rfl
@[simp] theorem State.wait_beats (s : State) : (s.wait).beats = s.beats := rfl
@[simp] theorem State.wait_peerArr (s : State) : (s.wait).peerArr = s.peerArr := rfl
@[simp] theorem State.wait_peerSent (s : State) : (s.wait).peerSent = s.peerSent := rfl
@[simp] theorem State.wait_peerBad (s : State) : (s.wait).peerBad = s.peerBad := rfl
@[simp] theorem State.wait_zdb (s : State) : (s.wait).zdb = s.zdb := rfl
@[simp] theorem State.wait_agenda (s : State) : (s.wait).agenda = s.agenda := rfl
@[simp] theorem State.wait_choices (s : State) : (s.wait).choices = s.choices := rfl
@[simp] theorem State.wait_freeCount (s : State) : (s.wait).freeCount = s.freeCount := rfl
@[simp] theorem State.wait_cur (s : State) : (s.wait).cur = s.cur := rfl
@[simp] theorem State.wait_tried (s : State) : (s.wait).tried = s.tried := rfl
@[simp] theorem State.wait_others (s : State) : (s.wait).others = s.others := rfl
@[simp] theorem State.core_wait (s : State) (j : Nat) : (s.wait).core j = s.core j := rfl
@[simp] theorem State.clus_wait (s : State) (j : Nat) : (s.wait).clus j = s.clus j := rfl
@[simp] theorem State.die_wait (s : State) (j : Nat) : (s.wait).die j = s.die j := rfl
@[simp] theorem State.stack_wait (s : State) (j : Nat) : (s.wait).stack j = s.stack j := rfl
@[simp] theorem State.ctx_wait (s : State) (j : Nat) : (s.wait).ctx j = s.ctx j := rfl
@[simp] theorem State.node_wait (s : State) (j : Nat) : (s.wait).node j = s.node j := rfl
@[simp] theorem State.port_wait (s : State) (j : Nat) : (s.wait).port j = s.port j := rfl
@[simp] theorem State.unit_wait (s : State) (j : Nat) : (s.wait).unit j = s.unit j := rfl
@[simp] theorem State.me_retireWith (s : State) (len : Nat) (f : Thread → Thread) : (s.retireWith len f).me = (f s.me).next len := by
  simp [State.retireWith, State.me, State.modMe, State.th, State.modTh, State.setTh, Laws.tget_tset_same]
@[simp] theorem State.me_branch (s : State) (t : Option Word) (f : Thread → Thread) : (s.branch t f).me = (f s.me).branch t := by
  simp [State.branch, State.me, State.modMe, State.th, State.modTh, State.setTh, Laws.tget_tset_same]
theorem State.th_retireWith_other (s : State) (len : Nat) (f : Thread → Thread) {j : Nat} (h : j ≠ s.cur) : (s.retireWith len f).th j = s.th j := by
  simp [State.retireWith, State.modMe, State.th, State.modTh, State.setTh, Laws.tget_tset, h]

/-! ### Threads -/

@[simp] theorem Thread.next_st (t : Thread) (len : Nat) : (t.next len).st = t.st := rfl
@[simp] theorem Thread.next_gen (t : Thread) (len : Nat) : (t.next len).gen = t.gen := rfl
@[simp] theorem Thread.next_node (t : Thread) (len : Nat) : (t.next len).node = t.node := rfl
@[simp] theorem Thread.next_rank (t : Thread) (len : Nat) : (t.next len).rank = t.rank := rfl
@[simp] theorem Thread.next_idx (t : Thread) (len : Nat) : (t.next len).idx = t.idx := rfl
@[simp] theorem Thread.next_g (t : Thread) (len : Nat) : (t.next len).g = t.g := rfl
@[simp] theorem Thread.next_v (t : Thread) (len : Nat) : (t.next len).v = t.v := rfl
@[simp] theorem Thread.next_p (t : Thread) (len : Nat) : (t.next len).p = t.p := rfl
@[simp] theorem Thread.next_h (t : Thread) (len : Nat) : (t.next len).h = t.h := rfl
@[simp] theorem Thread.next_status (t : Thread) (len : Nat) : (t.next len).status = t.status := rfl
@[simp] theorem Thread.next_utvec (t : Thread) (len : Nat) : (t.next len).utvec = t.utvec := rfl
@[simp] theorem Thread.next_umask (t : Thread) (len : Nat) : (t.next len).umask = t.umask := rfl
@[simp] theorem Thread.next_epc (t : Thread) (len : Nat) : (t.next len).epc = t.epc := rfl
@[simp] theorem Thread.next_ebt (t : Thread) (len : Nat) : (t.next len).ebt = t.ebt := rfl
@[simp] theorem Thread.next_ecause (t : Thread) (len : Nat) : (t.next len).ecause = t.ecause := rfl
@[simp] theorem Thread.next_einfo (t : Thread) (len : Nat) : (t.next len).einfo = t.einfo := rfl
@[simp] theorem Thread.next_estat (t : Thread) (len : Nat) : (t.next len).estat = t.estat := rfl
@[simp] theorem Thread.next_dlcount (t : Thread) (len : Nat) : (t.next len).dlcount = t.dlcount := rfl
@[simp] theorem Thread.next_rngkey (t : Thread) (len : Nat) : (t.next len).rngkey = t.rngkey := rfl
@[simp] theorem Thread.next_rngctr (t : Thread) (len : Nat) : (t.next len).rngctr = t.rngctr := rfl
@[simp] theorem Thread.next_rxbase (t : Thread) (len : Nat) : (t.next len).rxbase = t.rxbase := rfl
@[simp] theorem Thread.next_rxsize (t : Thread) (len : Nat) : (t.next len).rxsize = t.rxsize := rfl
@[simp] theorem Thread.next_rxhead (t : Thread) (len : Nat) : (t.next len).rxhead = t.rxhead := rfl
@[simp] theorem Thread.next_rxtail (t : Thread) (len : Nat) : (t.next len).rxtail = t.rxtail := rfl
@[simp] theorem Thread.next_nest (t : Thread) (len : Nat) : (t.next len).nest = t.nest := rfl
@[simp] theorem Thread.next_sb (t : Thread) (len : Nat) : (t.next len).sb = t.sb := rfl
@[simp] theorem Thread.next_seqNo (t : Thread) (len : Nat) : (t.next len).seqNo = t.seqNo := rfl
@[simp] theorem Thread.next_relStage (t : Thread) (len : Nat) : (t.next len).relStage = t.relStage := rfl
@[simp] theorem Thread.next_pend (t : Thread) (len : Nat) : (t.next len).pend = t.pend := rfl
@[simp] theorem Thread.next_opWait (t : Thread) (len : Nat) : (t.next len).opWait = t.opWait := rfl
@[simp] theorem Thread.next_fbuf (t : Thread) (len : Nat) : (t.next len).fbuf = t.fbuf := rfl
@[simp] theorem Thread.next_barWait (t : Thread) (len : Nat) : (t.next len).barWait = t.barWait := rfl
@[simp] theorem Thread.next_compute (t : Thread) (len : Nat) : (t.next len).compute = t.compute := rfl
@[simp] theorem Thread.next_yieldTo (t : Thread) (len : Nat) : (t.next len).yieldTo = t.yieldTo := rfl
@[simp] theorem Thread.next_regroup (t : Thread) (len : Nat) : (t.next len).regroup = t.regroup := rfl
@[simp] theorem Thread.next_clkWait (t : Thread) (len : Nat) : (t.next len).clkWait = t.clkWait := rfl
@[simp] theorem Thread.next_bar (t : Thread) (len : Nat) : (t.next len).bar = t.bar := rfl
@[simp] theorem Thread.next_wire (t : Thread) (len : Nat) : (t.next len).wire = t.wire := rfl
@[simp] theorem Thread.next_sysWait (t : Thread) (len : Nat) : (t.next len).sysWait = t.sysWait := rfl
@[simp] theorem Thread.next_sub (t : Thread) (len : Nat) : (t.next len).sub = t.sub := rfl
@[simp] theorem Thread.branch_st (t : Thread) (x : Option Word) : (t.branch x).st = t.st := rfl
@[simp] theorem Thread.branch_gen (t : Thread) (x : Option Word) : (t.branch x).gen = t.gen := rfl
@[simp] theorem Thread.branch_node (t : Thread) (x : Option Word) : (t.branch x).node = t.node := rfl
@[simp] theorem Thread.branch_rank (t : Thread) (x : Option Word) : (t.branch x).rank = t.rank := rfl
@[simp] theorem Thread.branch_idx (t : Thread) (x : Option Word) : (t.branch x).idx = t.idx := rfl
@[simp] theorem Thread.branch_g (t : Thread) (x : Option Word) : (t.branch x).g = t.g := rfl
@[simp] theorem Thread.branch_v (t : Thread) (x : Option Word) : (t.branch x).v = t.v := rfl
@[simp] theorem Thread.branch_p (t : Thread) (x : Option Word) : (t.branch x).p = t.p := rfl
@[simp] theorem Thread.branch_h (t : Thread) (x : Option Word) : (t.branch x).h = t.h := rfl
@[simp] theorem Thread.branch_status (t : Thread) (x : Option Word) : (t.branch x).status = t.status := rfl
@[simp] theorem Thread.branch_utvec (t : Thread) (x : Option Word) : (t.branch x).utvec = t.utvec := rfl
@[simp] theorem Thread.branch_umask (t : Thread) (x : Option Word) : (t.branch x).umask = t.umask := rfl
@[simp] theorem Thread.branch_epc (t : Thread) (x : Option Word) : (t.branch x).epc = t.epc := rfl
@[simp] theorem Thread.branch_ebt (t : Thread) (x : Option Word) : (t.branch x).ebt = t.ebt := rfl
@[simp] theorem Thread.branch_ecause (t : Thread) (x : Option Word) : (t.branch x).ecause = t.ecause := rfl
@[simp] theorem Thread.branch_einfo (t : Thread) (x : Option Word) : (t.branch x).einfo = t.einfo := rfl
@[simp] theorem Thread.branch_estat (t : Thread) (x : Option Word) : (t.branch x).estat = t.estat := rfl
@[simp] theorem Thread.branch_dlcount (t : Thread) (x : Option Word) : (t.branch x).dlcount = t.dlcount := rfl
@[simp] theorem Thread.branch_rngkey (t : Thread) (x : Option Word) : (t.branch x).rngkey = t.rngkey := rfl
@[simp] theorem Thread.branch_rngctr (t : Thread) (x : Option Word) : (t.branch x).rngctr = t.rngctr := rfl
@[simp] theorem Thread.branch_rxbase (t : Thread) (x : Option Word) : (t.branch x).rxbase = t.rxbase := rfl
@[simp] theorem Thread.branch_rxsize (t : Thread) (x : Option Word) : (t.branch x).rxsize = t.rxsize := rfl
@[simp] theorem Thread.branch_rxhead (t : Thread) (x : Option Word) : (t.branch x).rxhead = t.rxhead := rfl
@[simp] theorem Thread.branch_rxtail (t : Thread) (x : Option Word) : (t.branch x).rxtail = t.rxtail := rfl
@[simp] theorem Thread.branch_nest (t : Thread) (x : Option Word) : (t.branch x).nest = t.nest := rfl
@[simp] theorem Thread.branch_sb (t : Thread) (x : Option Word) : (t.branch x).sb = t.sb := rfl
@[simp] theorem Thread.branch_seqNo (t : Thread) (x : Option Word) : (t.branch x).seqNo = t.seqNo := rfl
@[simp] theorem Thread.branch_relStage (t : Thread) (x : Option Word) : (t.branch x).relStage = t.relStage := rfl
@[simp] theorem Thread.branch_pend (t : Thread) (x : Option Word) : (t.branch x).pend = t.pend := rfl
@[simp] theorem Thread.branch_opWait (t : Thread) (x : Option Word) : (t.branch x).opWait = t.opWait := rfl
@[simp] theorem Thread.branch_fbuf (t : Thread) (x : Option Word) : (t.branch x).fbuf = t.fbuf := rfl
@[simp] theorem Thread.branch_barWait (t : Thread) (x : Option Word) : (t.branch x).barWait = t.barWait := rfl
@[simp] theorem Thread.branch_compute (t : Thread) (x : Option Word) : (t.branch x).compute = t.compute := rfl
@[simp] theorem Thread.branch_yieldTo (t : Thread) (x : Option Word) : (t.branch x).yieldTo = t.yieldTo := rfl
@[simp] theorem Thread.branch_regroup (t : Thread) (x : Option Word) : (t.branch x).regroup = t.regroup := rfl
@[simp] theorem Thread.branch_clkWait (t : Thread) (x : Option Word) : (t.branch x).clkWait = t.clkWait := rfl
@[simp] theorem Thread.branch_bar (t : Thread) (x : Option Word) : (t.branch x).bar = t.bar := rfl
@[simp] theorem Thread.branch_wire (t : Thread) (x : Option Word) : (t.branch x).wire = t.wire := rfl
@[simp] theorem Thread.branch_sysWait (t : Thread) (x : Option Word) : (t.branch x).sysWait = t.sysWait := rfl
@[simp] theorem Thread.branch_sub (t : Thread) (x : Option Word) : (t.branch x).sub = t.sub := rfl
@[simp] theorem Thread.wg_st (t : Thread) (r : BitVec 5) (x : Word) : (t.wg r x).st = t.st := by unfold Thread.wg; split <;> rfl
@[simp] theorem Thread.wg_gen (t : Thread) (r : BitVec 5) (x : Word) : (t.wg r x).gen = t.gen := by unfold Thread.wg; split <;> rfl
@[simp] theorem Thread.wg_node (t : Thread) (r : BitVec 5) (x : Word) : (t.wg r x).node = t.node := by unfold Thread.wg; split <;> rfl
@[simp] theorem Thread.wg_rank (t : Thread) (r : BitVec 5) (x : Word) : (t.wg r x).rank = t.rank := by unfold Thread.wg; split <;> rfl
@[simp] theorem Thread.wg_idx (t : Thread) (r : BitVec 5) (x : Word) : (t.wg r x).idx = t.idx := by unfold Thread.wg; split <;> rfl
@[simp] theorem Thread.wg_pc (t : Thread) (r : BitVec 5) (x : Word) : (t.wg r x).pc = t.pc := by unfold Thread.wg; split <;> rfl
@[simp] theorem Thread.wg_slot (t : Thread) (r : BitVec 5) (x : Word) : (t.wg r x).slot = t.slot := by unfold Thread.wg; split <;> rfl
@[simp] theorem Thread.wg_v (t : Thread) (r : BitVec 5) (x : Word) : (t.wg r x).v = t.v := by unfold Thread.wg; split <;> rfl
@[simp] theorem Thread.wg_p (t : Thread) (r : BitVec 5) (x : Word) : (t.wg r x).p = t.p := by unfold Thread.wg; split <;> rfl
@[simp] theorem Thread.wg_h (t : Thread) (r : BitVec 5) (x : Word) : (t.wg r x).h = t.h := by unfold Thread.wg; split <;> rfl
@[simp] theorem Thread.wg_status (t : Thread) (r : BitVec 5) (x : Word) : (t.wg r x).status = t.status := by unfold Thread.wg; split <;> rfl
@[simp] theorem Thread.wg_utvec (t : Thread) (r : BitVec 5) (x : Word) : (t.wg r x).utvec = t.utvec := by unfold Thread.wg; split <;> rfl
@[simp] theorem Thread.wg_umask (t : Thread) (r : BitVec 5) (x : Word) : (t.wg r x).umask = t.umask := by unfold Thread.wg; split <;> rfl
@[simp] theorem Thread.wg_epc (t : Thread) (r : BitVec 5) (x : Word) : (t.wg r x).epc = t.epc := by unfold Thread.wg; split <;> rfl
@[simp] theorem Thread.wg_ebt (t : Thread) (r : BitVec 5) (x : Word) : (t.wg r x).ebt = t.ebt := by unfold Thread.wg; split <;> rfl
@[simp] theorem Thread.wg_ecause (t : Thread) (r : BitVec 5) (x : Word) : (t.wg r x).ecause = t.ecause := by unfold Thread.wg; split <;> rfl
@[simp] theorem Thread.wg_einfo (t : Thread) (r : BitVec 5) (x : Word) : (t.wg r x).einfo = t.einfo := by unfold Thread.wg; split <;> rfl
@[simp] theorem Thread.wg_estat (t : Thread) (r : BitVec 5) (x : Word) : (t.wg r x).estat = t.estat := by unfold Thread.wg; split <;> rfl
@[simp] theorem Thread.wg_dlcount (t : Thread) (r : BitVec 5) (x : Word) : (t.wg r x).dlcount = t.dlcount := by unfold Thread.wg; split <;> rfl
@[simp] theorem Thread.wg_rngkey (t : Thread) (r : BitVec 5) (x : Word) : (t.wg r x).rngkey = t.rngkey := by unfold Thread.wg; split <;> rfl
@[simp] theorem Thread.wg_rngctr (t : Thread) (r : BitVec 5) (x : Word) : (t.wg r x).rngctr = t.rngctr := by unfold Thread.wg; split <;> rfl
@[simp] theorem Thread.wg_rxbase (t : Thread) (r : BitVec 5) (x : Word) : (t.wg r x).rxbase = t.rxbase := by unfold Thread.wg; split <;> rfl
@[simp] theorem Thread.wg_rxsize (t : Thread) (r : BitVec 5) (x : Word) : (t.wg r x).rxsize = t.rxsize := by unfold Thread.wg; split <;> rfl
@[simp] theorem Thread.wg_rxhead (t : Thread) (r : BitVec 5) (x : Word) : (t.wg r x).rxhead = t.rxhead := by unfold Thread.wg; split <;> rfl
@[simp] theorem Thread.wg_rxtail (t : Thread) (r : BitVec 5) (x : Word) : (t.wg r x).rxtail = t.rxtail := by unfold Thread.wg; split <;> rfl
@[simp] theorem Thread.wg_resWait (t : Thread) (r : BitVec 5) (x : Word) : (t.wg r x).resWait = t.resWait := by unfold Thread.wg; split <;> rfl
@[simp] theorem Thread.wg_pkt (t : Thread) (r : BitVec 5) (x : Word) : (t.wg r x).pkt = t.pkt := by unfold Thread.wg; split <;> rfl
@[simp] theorem Thread.wg_nest (t : Thread) (r : BitVec 5) (x : Word) : (t.wg r x).nest = t.nest := by unfold Thread.wg; split <;> rfl
@[simp] theorem Thread.wg_sb (t : Thread) (r : BitVec 5) (x : Word) : (t.wg r x).sb = t.sb := by unfold Thread.wg; split <;> rfl
@[simp] theorem Thread.wg_seqNo (t : Thread) (r : BitVec 5) (x : Word) : (t.wg r x).seqNo = t.seqNo := by unfold Thread.wg; split <;> rfl
@[simp] theorem Thread.wg_relStage (t : Thread) (r : BitVec 5) (x : Word) : (t.wg r x).relStage = t.relStage := by unfold Thread.wg; split <;> rfl
@[simp] theorem Thread.wg_pend (t : Thread) (r : BitVec 5) (x : Word) : (t.wg r x).pend = t.pend := by unfold Thread.wg; split <;> rfl
@[simp] theorem Thread.wg_got (t : Thread) (r : BitVec 5) (x : Word) : (t.wg r x).got = t.got := by unfold Thread.wg; split <;> rfl
@[simp] theorem Thread.wg_gotAt (t : Thread) (r : BitVec 5) (x : Word) : (t.wg r x).gotAt = t.gotAt := by unfold Thread.wg; split <;> rfl
@[simp] theorem Thread.wg_opWait (t : Thread) (r : BitVec 5) (x : Word) : (t.wg r x).opWait = t.opWait := by unfold Thread.wg; split <;> rfl
@[simp] theorem Thread.wg_fbuf (t : Thread) (r : BitVec 5) (x : Word) : (t.wg r x).fbuf = t.fbuf := by unfold Thread.wg; split <;> rfl
@[simp] theorem Thread.wg_barWait (t : Thread) (r : BitVec 5) (x : Word) : (t.wg r x).barWait = t.barWait := by unfold Thread.wg; split <;> rfl
@[simp] theorem Thread.wg_compute (t : Thread) (r : BitVec 5) (x : Word) : (t.wg r x).compute = t.compute := by unfold Thread.wg; split <;> rfl
@[simp] theorem Thread.wg_yieldTo (t : Thread) (r : BitVec 5) (x : Word) : (t.wg r x).yieldTo = t.yieldTo := by unfold Thread.wg; split <;> rfl
@[simp] theorem Thread.wg_regroup (t : Thread) (r : BitVec 5) (x : Word) : (t.wg r x).regroup = t.regroup := by unfold Thread.wg; split <;> rfl
@[simp] theorem Thread.wg_clkWait (t : Thread) (r : BitVec 5) (x : Word) : (t.wg r x).clkWait = t.clkWait := by unfold Thread.wg; split <;> rfl
@[simp] theorem Thread.wg_bar (t : Thread) (r : BitVec 5) (x : Word) : (t.wg r x).bar = t.bar := by unfold Thread.wg; split <;> rfl
@[simp] theorem Thread.wg_wire (t : Thread) (r : BitVec 5) (x : Word) : (t.wg r x).wire = t.wire := by unfold Thread.wg; split <;> rfl
@[simp] theorem Thread.wg_sysWait (t : Thread) (r : BitVec 5) (x : Word) : (t.wg r x).sysWait = t.sysWait := by unfold Thread.wg; split <;> rfl
@[simp] theorem Thread.wg_sub (t : Thread) (r : BitVec 5) (x : Word) : (t.wg r x).sub = t.sub := by unfold Thread.wg; split <;> rfl
@[simp] theorem Thread.wg_waits (t : Thread) (r : BitVec 5) (x : Word) : (t.wg r x).waits = t.waits := by unfold Thread.wg; split <;> rfl
@[simp] theorem Thread.wg_waitOn (t : Thread) (r : BitVec 5) (x : Word) : (t.wg r x).waitOn = t.waitOn := by unfold Thread.wg; split <;> rfl
@[simp] theorem Thread.wg_prog (t : Thread) (r : BitVec 5) (x : Word) : (t.wg r x).prog = t.prog := by unfold Thread.wg; split <;> rfl
@[simp] theorem Thread.wp_st (t : Thread) (r : Nat) (x : Word) : (t.wp r x).st = t.st := by unfold Thread.wp; split <;> rfl
@[simp] theorem Thread.wp_gen (t : Thread) (r : Nat) (x : Word) : (t.wp r x).gen = t.gen := by unfold Thread.wp; split <;> rfl
@[simp] theorem Thread.wp_node (t : Thread) (r : Nat) (x : Word) : (t.wp r x).node = t.node := by unfold Thread.wp; split <;> rfl
@[simp] theorem Thread.wp_rank (t : Thread) (r : Nat) (x : Word) : (t.wp r x).rank = t.rank := by unfold Thread.wp; split <;> rfl
@[simp] theorem Thread.wp_idx (t : Thread) (r : Nat) (x : Word) : (t.wp r x).idx = t.idx := by unfold Thread.wp; split <;> rfl
@[simp] theorem Thread.wp_pc (t : Thread) (r : Nat) (x : Word) : (t.wp r x).pc = t.pc := by unfold Thread.wp; split <;> rfl
@[simp] theorem Thread.wp_slot (t : Thread) (r : Nat) (x : Word) : (t.wp r x).slot = t.slot := by unfold Thread.wp; split <;> rfl
@[simp] theorem Thread.wp_g (t : Thread) (r : Nat) (x : Word) : (t.wp r x).g = t.g := by unfold Thread.wp; split <;> rfl
@[simp] theorem Thread.wp_v (t : Thread) (r : Nat) (x : Word) : (t.wp r x).v = t.v := by unfold Thread.wp; split <;> rfl
@[simp] theorem Thread.wp_h (t : Thread) (r : Nat) (x : Word) : (t.wp r x).h = t.h := by unfold Thread.wp; split <;> rfl
@[simp] theorem Thread.wp_status (t : Thread) (r : Nat) (x : Word) : (t.wp r x).status = t.status := by unfold Thread.wp; split <;> rfl
@[simp] theorem Thread.wp_utvec (t : Thread) (r : Nat) (x : Word) : (t.wp r x).utvec = t.utvec := by unfold Thread.wp; split <;> rfl
@[simp] theorem Thread.wp_umask (t : Thread) (r : Nat) (x : Word) : (t.wp r x).umask = t.umask := by unfold Thread.wp; split <;> rfl
@[simp] theorem Thread.wp_epc (t : Thread) (r : Nat) (x : Word) : (t.wp r x).epc = t.epc := by unfold Thread.wp; split <;> rfl
@[simp] theorem Thread.wp_ebt (t : Thread) (r : Nat) (x : Word) : (t.wp r x).ebt = t.ebt := by unfold Thread.wp; split <;> rfl
@[simp] theorem Thread.wp_ecause (t : Thread) (r : Nat) (x : Word) : (t.wp r x).ecause = t.ecause := by unfold Thread.wp; split <;> rfl
@[simp] theorem Thread.wp_einfo (t : Thread) (r : Nat) (x : Word) : (t.wp r x).einfo = t.einfo := by unfold Thread.wp; split <;> rfl
@[simp] theorem Thread.wp_estat (t : Thread) (r : Nat) (x : Word) : (t.wp r x).estat = t.estat := by unfold Thread.wp; split <;> rfl
@[simp] theorem Thread.wp_dlcount (t : Thread) (r : Nat) (x : Word) : (t.wp r x).dlcount = t.dlcount := by unfold Thread.wp; split <;> rfl
@[simp] theorem Thread.wp_rngkey (t : Thread) (r : Nat) (x : Word) : (t.wp r x).rngkey = t.rngkey := by unfold Thread.wp; split <;> rfl
@[simp] theorem Thread.wp_rngctr (t : Thread) (r : Nat) (x : Word) : (t.wp r x).rngctr = t.rngctr := by unfold Thread.wp; split <;> rfl
@[simp] theorem Thread.wp_rxbase (t : Thread) (r : Nat) (x : Word) : (t.wp r x).rxbase = t.rxbase := by unfold Thread.wp; split <;> rfl
@[simp] theorem Thread.wp_rxsize (t : Thread) (r : Nat) (x : Word) : (t.wp r x).rxsize = t.rxsize := by unfold Thread.wp; split <;> rfl
@[simp] theorem Thread.wp_rxhead (t : Thread) (r : Nat) (x : Word) : (t.wp r x).rxhead = t.rxhead := by unfold Thread.wp; split <;> rfl
@[simp] theorem Thread.wp_rxtail (t : Thread) (r : Nat) (x : Word) : (t.wp r x).rxtail = t.rxtail := by unfold Thread.wp; split <;> rfl
@[simp] theorem Thread.wp_resWait (t : Thread) (r : Nat) (x : Word) : (t.wp r x).resWait = t.resWait := by unfold Thread.wp; split <;> rfl
@[simp] theorem Thread.wp_pkt (t : Thread) (r : Nat) (x : Word) : (t.wp r x).pkt = t.pkt := by unfold Thread.wp; split <;> rfl
@[simp] theorem Thread.wp_nest (t : Thread) (r : Nat) (x : Word) : (t.wp r x).nest = t.nest := by unfold Thread.wp; split <;> rfl
@[simp] theorem Thread.wp_sb (t : Thread) (r : Nat) (x : Word) : (t.wp r x).sb = t.sb := by unfold Thread.wp; split <;> rfl
@[simp] theorem Thread.wp_seqNo (t : Thread) (r : Nat) (x : Word) : (t.wp r x).seqNo = t.seqNo := by unfold Thread.wp; split <;> rfl
@[simp] theorem Thread.wp_relStage (t : Thread) (r : Nat) (x : Word) : (t.wp r x).relStage = t.relStage := by unfold Thread.wp; split <;> rfl
@[simp] theorem Thread.wp_pend (t : Thread) (r : Nat) (x : Word) : (t.wp r x).pend = t.pend := by unfold Thread.wp; split <;> rfl
@[simp] theorem Thread.wp_got (t : Thread) (r : Nat) (x : Word) : (t.wp r x).got = t.got := by unfold Thread.wp; split <;> rfl
@[simp] theorem Thread.wp_gotAt (t : Thread) (r : Nat) (x : Word) : (t.wp r x).gotAt = t.gotAt := by unfold Thread.wp; split <;> rfl
@[simp] theorem Thread.wp_opWait (t : Thread) (r : Nat) (x : Word) : (t.wp r x).opWait = t.opWait := by unfold Thread.wp; split <;> rfl
@[simp] theorem Thread.wp_fbuf (t : Thread) (r : Nat) (x : Word) : (t.wp r x).fbuf = t.fbuf := by unfold Thread.wp; split <;> rfl
@[simp] theorem Thread.wp_barWait (t : Thread) (r : Nat) (x : Word) : (t.wp r x).barWait = t.barWait := by unfold Thread.wp; split <;> rfl
@[simp] theorem Thread.wp_compute (t : Thread) (r : Nat) (x : Word) : (t.wp r x).compute = t.compute := by unfold Thread.wp; split <;> rfl
@[simp] theorem Thread.wp_yieldTo (t : Thread) (r : Nat) (x : Word) : (t.wp r x).yieldTo = t.yieldTo := by unfold Thread.wp; split <;> rfl
@[simp] theorem Thread.wp_regroup (t : Thread) (r : Nat) (x : Word) : (t.wp r x).regroup = t.regroup := by unfold Thread.wp; split <;> rfl
@[simp] theorem Thread.wp_clkWait (t : Thread) (r : Nat) (x : Word) : (t.wp r x).clkWait = t.clkWait := by unfold Thread.wp; split <;> rfl
@[simp] theorem Thread.wp_bar (t : Thread) (r : Nat) (x : Word) : (t.wp r x).bar = t.bar := by unfold Thread.wp; split <;> rfl
@[simp] theorem Thread.wp_wire (t : Thread) (r : Nat) (x : Word) : (t.wp r x).wire = t.wire := by unfold Thread.wp; split <;> rfl
@[simp] theorem Thread.wp_sysWait (t : Thread) (r : Nat) (x : Word) : (t.wp r x).sysWait = t.sysWait := by unfold Thread.wp; split <;> rfl
@[simp] theorem Thread.wp_sub (t : Thread) (r : Nat) (x : Word) : (t.wp r x).sub = t.sub := by unfold Thread.wp; split <;> rfl
@[simp] theorem Thread.wp_waits (t : Thread) (r : Nat) (x : Word) : (t.wp r x).waits = t.waits := by unfold Thread.wp; split <;> rfl
@[simp] theorem Thread.wp_waitOn (t : Thread) (r : Nat) (x : Word) : (t.wp r x).waitOn = t.waitOn := by unfold Thread.wp; split <;> rfl
@[simp] theorem Thread.wp_prog (t : Thread) (r : Nat) (x : Word) : (t.wp r x).prog = t.prog := by unfold Thread.wp; split <;> rfl
@[simp] theorem Thread.wv_st (t : Thread) (r : BitVec 5) (x : Vec) : (t.wv r x).st = t.st := rfl
@[simp] theorem Thread.wv_gen (t : Thread) (r : BitVec 5) (x : Vec) : (t.wv r x).gen = t.gen := rfl
@[simp] theorem Thread.wv_node (t : Thread) (r : BitVec 5) (x : Vec) : (t.wv r x).node = t.node := rfl
@[simp] theorem Thread.wv_rank (t : Thread) (r : BitVec 5) (x : Vec) : (t.wv r x).rank = t.rank := rfl
@[simp] theorem Thread.wv_idx (t : Thread) (r : BitVec 5) (x : Vec) : (t.wv r x).idx = t.idx := rfl
@[simp] theorem Thread.wv_pc (t : Thread) (r : BitVec 5) (x : Vec) : (t.wv r x).pc = t.pc := rfl
@[simp] theorem Thread.wv_slot (t : Thread) (r : BitVec 5) (x : Vec) : (t.wv r x).slot = t.slot := rfl
@[simp] theorem Thread.wv_g (t : Thread) (r : BitVec 5) (x : Vec) : (t.wv r x).g = t.g := rfl
@[simp] theorem Thread.wv_p (t : Thread) (r : BitVec 5) (x : Vec) : (t.wv r x).p = t.p := rfl
@[simp] theorem Thread.wv_h (t : Thread) (r : BitVec 5) (x : Vec) : (t.wv r x).h = t.h := rfl
@[simp] theorem Thread.wv_status (t : Thread) (r : BitVec 5) (x : Vec) : (t.wv r x).status = t.status := rfl
@[simp] theorem Thread.wv_utvec (t : Thread) (r : BitVec 5) (x : Vec) : (t.wv r x).utvec = t.utvec := rfl
@[simp] theorem Thread.wv_umask (t : Thread) (r : BitVec 5) (x : Vec) : (t.wv r x).umask = t.umask := rfl
@[simp] theorem Thread.wv_epc (t : Thread) (r : BitVec 5) (x : Vec) : (t.wv r x).epc = t.epc := rfl
@[simp] theorem Thread.wv_ebt (t : Thread) (r : BitVec 5) (x : Vec) : (t.wv r x).ebt = t.ebt := rfl
@[simp] theorem Thread.wv_ecause (t : Thread) (r : BitVec 5) (x : Vec) : (t.wv r x).ecause = t.ecause := rfl
@[simp] theorem Thread.wv_einfo (t : Thread) (r : BitVec 5) (x : Vec) : (t.wv r x).einfo = t.einfo := rfl
@[simp] theorem Thread.wv_estat (t : Thread) (r : BitVec 5) (x : Vec) : (t.wv r x).estat = t.estat := rfl
@[simp] theorem Thread.wv_dlcount (t : Thread) (r : BitVec 5) (x : Vec) : (t.wv r x).dlcount = t.dlcount := rfl
@[simp] theorem Thread.wv_rngkey (t : Thread) (r : BitVec 5) (x : Vec) : (t.wv r x).rngkey = t.rngkey := rfl
@[simp] theorem Thread.wv_rngctr (t : Thread) (r : BitVec 5) (x : Vec) : (t.wv r x).rngctr = t.rngctr := rfl
@[simp] theorem Thread.wv_rxbase (t : Thread) (r : BitVec 5) (x : Vec) : (t.wv r x).rxbase = t.rxbase := rfl
@[simp] theorem Thread.wv_rxsize (t : Thread) (r : BitVec 5) (x : Vec) : (t.wv r x).rxsize = t.rxsize := rfl
@[simp] theorem Thread.wv_rxhead (t : Thread) (r : BitVec 5) (x : Vec) : (t.wv r x).rxhead = t.rxhead := rfl
@[simp] theorem Thread.wv_rxtail (t : Thread) (r : BitVec 5) (x : Vec) : (t.wv r x).rxtail = t.rxtail := rfl
@[simp] theorem Thread.wv_resWait (t : Thread) (r : BitVec 5) (x : Vec) : (t.wv r x).resWait = t.resWait := rfl
@[simp] theorem Thread.wv_pkt (t : Thread) (r : BitVec 5) (x : Vec) : (t.wv r x).pkt = t.pkt := rfl
@[simp] theorem Thread.wv_nest (t : Thread) (r : BitVec 5) (x : Vec) : (t.wv r x).nest = t.nest := rfl
@[simp] theorem Thread.wv_sb (t : Thread) (r : BitVec 5) (x : Vec) : (t.wv r x).sb = t.sb := rfl
@[simp] theorem Thread.wv_seqNo (t : Thread) (r : BitVec 5) (x : Vec) : (t.wv r x).seqNo = t.seqNo := rfl
@[simp] theorem Thread.wv_relStage (t : Thread) (r : BitVec 5) (x : Vec) : (t.wv r x).relStage = t.relStage := rfl
@[simp] theorem Thread.wv_pend (t : Thread) (r : BitVec 5) (x : Vec) : (t.wv r x).pend = t.pend := rfl
@[simp] theorem Thread.wv_got (t : Thread) (r : BitVec 5) (x : Vec) : (t.wv r x).got = t.got := rfl
@[simp] theorem Thread.wv_gotAt (t : Thread) (r : BitVec 5) (x : Vec) : (t.wv r x).gotAt = t.gotAt := rfl
@[simp] theorem Thread.wv_opWait (t : Thread) (r : BitVec 5) (x : Vec) : (t.wv r x).opWait = t.opWait := rfl
@[simp] theorem Thread.wv_fbuf (t : Thread) (r : BitVec 5) (x : Vec) : (t.wv r x).fbuf = t.fbuf := rfl
@[simp] theorem Thread.wv_barWait (t : Thread) (r : BitVec 5) (x : Vec) : (t.wv r x).barWait = t.barWait := rfl
@[simp] theorem Thread.wv_compute (t : Thread) (r : BitVec 5) (x : Vec) : (t.wv r x).compute = t.compute := rfl
@[simp] theorem Thread.wv_yieldTo (t : Thread) (r : BitVec 5) (x : Vec) : (t.wv r x).yieldTo = t.yieldTo := rfl
@[simp] theorem Thread.wv_regroup (t : Thread) (r : BitVec 5) (x : Vec) : (t.wv r x).regroup = t.regroup := rfl
@[simp] theorem Thread.wv_clkWait (t : Thread) (r : BitVec 5) (x : Vec) : (t.wv r x).clkWait = t.clkWait := rfl
@[simp] theorem Thread.wv_bar (t : Thread) (r : BitVec 5) (x : Vec) : (t.wv r x).bar = t.bar := rfl
@[simp] theorem Thread.wv_wire (t : Thread) (r : BitVec 5) (x : Vec) : (t.wv r x).wire = t.wire := rfl
@[simp] theorem Thread.wv_sysWait (t : Thread) (r : BitVec 5) (x : Vec) : (t.wv r x).sysWait = t.sysWait := rfl
@[simp] theorem Thread.wv_sub (t : Thread) (r : BitVec 5) (x : Vec) : (t.wv r x).sub = t.sub := rfl
@[simp] theorem Thread.wv_waits (t : Thread) (r : BitVec 5) (x : Vec) : (t.wv r x).waits = t.waits := rfl
@[simp] theorem Thread.wv_waitOn (t : Thread) (r : BitVec 5) (x : Vec) : (t.wv r x).waitOn = t.waitOn := rfl
@[simp] theorem Thread.wv_prog (t : Thread) (r : BitVec 5) (x : Vec) : (t.wv r x).prog = t.prog := rfl
@[simp] theorem Thread.wh_st (t : Thread) (r : Nat) (x : Handle) : (t.wh r x).st = t.st := rfl
@[simp] theorem Thread.wh_gen (t : Thread) (r : Nat) (x : Handle) : (t.wh r x).gen = t.gen := rfl
@[simp] theorem Thread.wh_node (t : Thread) (r : Nat) (x : Handle) : (t.wh r x).node = t.node := rfl
@[simp] theorem Thread.wh_rank (t : Thread) (r : Nat) (x : Handle) : (t.wh r x).rank = t.rank := rfl
@[simp] theorem Thread.wh_idx (t : Thread) (r : Nat) (x : Handle) : (t.wh r x).idx = t.idx := rfl
@[simp] theorem Thread.wh_pc (t : Thread) (r : Nat) (x : Handle) : (t.wh r x).pc = t.pc := rfl
@[simp] theorem Thread.wh_slot (t : Thread) (r : Nat) (x : Handle) : (t.wh r x).slot = t.slot := rfl
@[simp] theorem Thread.wh_g (t : Thread) (r : Nat) (x : Handle) : (t.wh r x).g = t.g := rfl
@[simp] theorem Thread.wh_v (t : Thread) (r : Nat) (x : Handle) : (t.wh r x).v = t.v := rfl
@[simp] theorem Thread.wh_p (t : Thread) (r : Nat) (x : Handle) : (t.wh r x).p = t.p := rfl
@[simp] theorem Thread.wh_status (t : Thread) (r : Nat) (x : Handle) : (t.wh r x).status = t.status := rfl
@[simp] theorem Thread.wh_utvec (t : Thread) (r : Nat) (x : Handle) : (t.wh r x).utvec = t.utvec := rfl
@[simp] theorem Thread.wh_umask (t : Thread) (r : Nat) (x : Handle) : (t.wh r x).umask = t.umask := rfl
@[simp] theorem Thread.wh_epc (t : Thread) (r : Nat) (x : Handle) : (t.wh r x).epc = t.epc := rfl
@[simp] theorem Thread.wh_ebt (t : Thread) (r : Nat) (x : Handle) : (t.wh r x).ebt = t.ebt := rfl
@[simp] theorem Thread.wh_ecause (t : Thread) (r : Nat) (x : Handle) : (t.wh r x).ecause = t.ecause := rfl
@[simp] theorem Thread.wh_einfo (t : Thread) (r : Nat) (x : Handle) : (t.wh r x).einfo = t.einfo := rfl
@[simp] theorem Thread.wh_estat (t : Thread) (r : Nat) (x : Handle) : (t.wh r x).estat = t.estat := rfl
@[simp] theorem Thread.wh_dlcount (t : Thread) (r : Nat) (x : Handle) : (t.wh r x).dlcount = t.dlcount := rfl
@[simp] theorem Thread.wh_rngkey (t : Thread) (r : Nat) (x : Handle) : (t.wh r x).rngkey = t.rngkey := rfl
@[simp] theorem Thread.wh_rngctr (t : Thread) (r : Nat) (x : Handle) : (t.wh r x).rngctr = t.rngctr := rfl
@[simp] theorem Thread.wh_rxbase (t : Thread) (r : Nat) (x : Handle) : (t.wh r x).rxbase = t.rxbase := rfl
@[simp] theorem Thread.wh_rxsize (t : Thread) (r : Nat) (x : Handle) : (t.wh r x).rxsize = t.rxsize := rfl
@[simp] theorem Thread.wh_rxhead (t : Thread) (r : Nat) (x : Handle) : (t.wh r x).rxhead = t.rxhead := rfl
@[simp] theorem Thread.wh_rxtail (t : Thread) (r : Nat) (x : Handle) : (t.wh r x).rxtail = t.rxtail := rfl
@[simp] theorem Thread.wh_resWait (t : Thread) (r : Nat) (x : Handle) : (t.wh r x).resWait = t.resWait := rfl
@[simp] theorem Thread.wh_pkt (t : Thread) (r : Nat) (x : Handle) : (t.wh r x).pkt = t.pkt := rfl
@[simp] theorem Thread.wh_nest (t : Thread) (r : Nat) (x : Handle) : (t.wh r x).nest = t.nest := rfl
@[simp] theorem Thread.wh_sb (t : Thread) (r : Nat) (x : Handle) : (t.wh r x).sb = t.sb := rfl
@[simp] theorem Thread.wh_seqNo (t : Thread) (r : Nat) (x : Handle) : (t.wh r x).seqNo = t.seqNo := rfl
@[simp] theorem Thread.wh_relStage (t : Thread) (r : Nat) (x : Handle) : (t.wh r x).relStage = t.relStage := rfl
@[simp] theorem Thread.wh_pend (t : Thread) (r : Nat) (x : Handle) : (t.wh r x).pend = t.pend := rfl
@[simp] theorem Thread.wh_got (t : Thread) (r : Nat) (x : Handle) : (t.wh r x).got = t.got := rfl
@[simp] theorem Thread.wh_gotAt (t : Thread) (r : Nat) (x : Handle) : (t.wh r x).gotAt = t.gotAt := rfl
@[simp] theorem Thread.wh_opWait (t : Thread) (r : Nat) (x : Handle) : (t.wh r x).opWait = t.opWait := rfl
@[simp] theorem Thread.wh_fbuf (t : Thread) (r : Nat) (x : Handle) : (t.wh r x).fbuf = t.fbuf := rfl
@[simp] theorem Thread.wh_barWait (t : Thread) (r : Nat) (x : Handle) : (t.wh r x).barWait = t.barWait := rfl
@[simp] theorem Thread.wh_compute (t : Thread) (r : Nat) (x : Handle) : (t.wh r x).compute = t.compute := rfl
@[simp] theorem Thread.wh_yieldTo (t : Thread) (r : Nat) (x : Handle) : (t.wh r x).yieldTo = t.yieldTo := rfl
@[simp] theorem Thread.wh_regroup (t : Thread) (r : Nat) (x : Handle) : (t.wh r x).regroup = t.regroup := rfl
@[simp] theorem Thread.wh_clkWait (t : Thread) (r : Nat) (x : Handle) : (t.wh r x).clkWait = t.clkWait := rfl
@[simp] theorem Thread.wh_bar (t : Thread) (r : Nat) (x : Handle) : (t.wh r x).bar = t.bar := rfl
@[simp] theorem Thread.wh_wire (t : Thread) (r : Nat) (x : Handle) : (t.wh r x).wire = t.wire := rfl
@[simp] theorem Thread.wh_sysWait (t : Thread) (r : Nat) (x : Handle) : (t.wh r x).sysWait = t.sysWait := rfl
@[simp] theorem Thread.wh_sub (t : Thread) (r : Nat) (x : Handle) : (t.wh r x).sub = t.sub := rfl
@[simp] theorem Thread.wh_waits (t : Thread) (r : Nat) (x : Handle) : (t.wh r x).waits = t.waits := rfl
@[simp] theorem Thread.wh_waitOn (t : Thread) (r : Nat) (x : Handle) : (t.wh r x).waitOn = t.waitOn := rfl
@[simp] theorem Thread.wh_prog (t : Thread) (r : Nat) (x : Handle) : (t.wh r x).prog = t.prog := rfl
@[simp] theorem Thread.raise_st (t : Thread) (fl : Flags) : (t.raise fl).st = t.st := rfl
@[simp] theorem Thread.raise_gen (t : Thread) (fl : Flags) : (t.raise fl).gen = t.gen := rfl
@[simp] theorem Thread.raise_node (t : Thread) (fl : Flags) : (t.raise fl).node = t.node := rfl
@[simp] theorem Thread.raise_rank (t : Thread) (fl : Flags) : (t.raise fl).rank = t.rank := rfl
@[simp] theorem Thread.raise_idx (t : Thread) (fl : Flags) : (t.raise fl).idx = t.idx := rfl
@[simp] theorem Thread.raise_pc (t : Thread) (fl : Flags) : (t.raise fl).pc = t.pc := rfl
@[simp] theorem Thread.raise_slot (t : Thread) (fl : Flags) : (t.raise fl).slot = t.slot := rfl
@[simp] theorem Thread.raise_g (t : Thread) (fl : Flags) : (t.raise fl).g = t.g := rfl
@[simp] theorem Thread.raise_v (t : Thread) (fl : Flags) : (t.raise fl).v = t.v := rfl
@[simp] theorem Thread.raise_p (t : Thread) (fl : Flags) : (t.raise fl).p = t.p := rfl
@[simp] theorem Thread.raise_h (t : Thread) (fl : Flags) : (t.raise fl).h = t.h := rfl
@[simp] theorem Thread.raise_utvec (t : Thread) (fl : Flags) : (t.raise fl).utvec = t.utvec := rfl
@[simp] theorem Thread.raise_umask (t : Thread) (fl : Flags) : (t.raise fl).umask = t.umask := rfl
@[simp] theorem Thread.raise_epc (t : Thread) (fl : Flags) : (t.raise fl).epc = t.epc := rfl
@[simp] theorem Thread.raise_ebt (t : Thread) (fl : Flags) : (t.raise fl).ebt = t.ebt := rfl
@[simp] theorem Thread.raise_ecause (t : Thread) (fl : Flags) : (t.raise fl).ecause = t.ecause := rfl
@[simp] theorem Thread.raise_einfo (t : Thread) (fl : Flags) : (t.raise fl).einfo = t.einfo := rfl
@[simp] theorem Thread.raise_estat (t : Thread) (fl : Flags) : (t.raise fl).estat = t.estat := rfl
@[simp] theorem Thread.raise_dlcount (t : Thread) (fl : Flags) : (t.raise fl).dlcount = t.dlcount := rfl
@[simp] theorem Thread.raise_rngkey (t : Thread) (fl : Flags) : (t.raise fl).rngkey = t.rngkey := rfl
@[simp] theorem Thread.raise_rngctr (t : Thread) (fl : Flags) : (t.raise fl).rngctr = t.rngctr := rfl
@[simp] theorem Thread.raise_rxbase (t : Thread) (fl : Flags) : (t.raise fl).rxbase = t.rxbase := rfl
@[simp] theorem Thread.raise_rxsize (t : Thread) (fl : Flags) : (t.raise fl).rxsize = t.rxsize := rfl
@[simp] theorem Thread.raise_rxhead (t : Thread) (fl : Flags) : (t.raise fl).rxhead = t.rxhead := rfl
@[simp] theorem Thread.raise_rxtail (t : Thread) (fl : Flags) : (t.raise fl).rxtail = t.rxtail := rfl
@[simp] theorem Thread.raise_resWait (t : Thread) (fl : Flags) : (t.raise fl).resWait = t.resWait := rfl
@[simp] theorem Thread.raise_pkt (t : Thread) (fl : Flags) : (t.raise fl).pkt = t.pkt := rfl
@[simp] theorem Thread.raise_nest (t : Thread) (fl : Flags) : (t.raise fl).nest = t.nest := rfl
@[simp] theorem Thread.raise_sb (t : Thread) (fl : Flags) : (t.raise fl).sb = t.sb := rfl
@[simp] theorem Thread.raise_seqNo (t : Thread) (fl : Flags) : (t.raise fl).seqNo = t.seqNo := rfl
@[simp] theorem Thread.raise_relStage (t : Thread) (fl : Flags) : (t.raise fl).relStage = t.relStage := rfl
@[simp] theorem Thread.raise_pend (t : Thread) (fl : Flags) : (t.raise fl).pend = t.pend := rfl
@[simp] theorem Thread.raise_got (t : Thread) (fl : Flags) : (t.raise fl).got = t.got := rfl
@[simp] theorem Thread.raise_gotAt (t : Thread) (fl : Flags) : (t.raise fl).gotAt = t.gotAt := rfl
@[simp] theorem Thread.raise_opWait (t : Thread) (fl : Flags) : (t.raise fl).opWait = t.opWait := rfl
@[simp] theorem Thread.raise_fbuf (t : Thread) (fl : Flags) : (t.raise fl).fbuf = t.fbuf := rfl
@[simp] theorem Thread.raise_barWait (t : Thread) (fl : Flags) : (t.raise fl).barWait = t.barWait := rfl
@[simp] theorem Thread.raise_compute (t : Thread) (fl : Flags) : (t.raise fl).compute = t.compute := rfl
@[simp] theorem Thread.raise_yieldTo (t : Thread) (fl : Flags) : (t.raise fl).yieldTo = t.yieldTo := rfl
@[simp] theorem Thread.raise_regroup (t : Thread) (fl : Flags) : (t.raise fl).regroup = t.regroup := rfl
@[simp] theorem Thread.raise_clkWait (t : Thread) (fl : Flags) : (t.raise fl).clkWait = t.clkWait := rfl
@[simp] theorem Thread.raise_bar (t : Thread) (fl : Flags) : (t.raise fl).bar = t.bar := rfl
@[simp] theorem Thread.raise_wire (t : Thread) (fl : Flags) : (t.raise fl).wire = t.wire := rfl
@[simp] theorem Thread.raise_sysWait (t : Thread) (fl : Flags) : (t.raise fl).sysWait = t.sysWait := rfl
@[simp] theorem Thread.raise_sub (t : Thread) (fl : Flags) : (t.raise fl).sub = t.sub := rfl
@[simp] theorem Thread.raise_waits (t : Thread) (fl : Flags) : (t.raise fl).waits = t.waits := rfl
@[simp] theorem Thread.raise_waitOn (t : Thread) (fl : Flags) : (t.raise fl).waitOn = t.waitOn := rfl
@[simp] theorem Thread.raise_prog (t : Thread) (fl : Flags) : (t.raise fl).prog = t.prog := rfl

/-- g0 reads 0 (R252). -/
@[simp] theorem Thread.rg_zero (t : Thread) : t.rg 0 = 0 := by simp [Thread.rg]
/-- A written general register reads back, g0 as 0 (R253). -/
theorem Thread.rg_wg (t : Thread) (r q : BitVec 5) (x : Word) :
    (t.wg r x).rg q = if q = r ∧ r ≠ 0 then x else t.rg q := by
  unfold Thread.rg Thread.wg
  by_cases hr : r = 0
  · simp [hr]
  · by_cases h : q = r
    · subst h; rw [if_neg hr, if_neg hr, if_pos ⟨rfl, hr⟩]; exact Laws.tget_tset_same _ _ _ _
    · have hn : ¬ q.toNat = r.toNat := fun e => h (BitVec.eq_of_toNat_eq e)
      rw [if_neg hr, if_neg (c := q = r ∧ r ≠ 0) (fun e => h e.1)]
      simp only [Laws.tget_tset, if_neg hn]
@[simp] theorem Thread.rg_wp (t : Thread) (r : Nat) (x : Word) (q : BitVec 5) : (t.wp r x).rg q = t.rg q := by
  unfold Thread.rg; simp
@[simp] theorem Thread.rg_raise (t : Thread) (f : Flags) (q : BitVec 5) : (t.raise f).rg q = t.rg q := rfl
@[simp] theorem Thread.rg_wv (t : Thread) (r : BitVec 5) (x : Vec) (q : BitVec 5) : (t.wv r x).rg q = t.rg q := rfl
@[simp] theorem Thread.rg_wh (t : Thread) (r : Nat) (x : Handle) (q : BitVec 5) : (t.wh r x).rg q = t.rg q := rfl
@[simp] theorem Thread.rg_next (t : Thread) (n : Nat) (q : BitVec 5) : (t.next n).rg q = t.rg q := rfl
@[simp] theorem Thread.rg_branch (t : Thread) (x : Option Word) (q : BitVec 5) : (t.branch x).rg q = t.rg q := rfl
/-- p0 reads all ones (R252). -/
@[simp] theorem Thread.rp_zero (t : Thread) : t.rp 0 = BitVec.allOnes 64 := by simp [Thread.rp]
theorem Thread.rp_wp (t : Thread) (r q : Nat) (x : Word) : (t.wp r x).rp q = if q = r ∧ r ≠ 0 then x else t.rp q := by
  unfold Thread.rp Thread.wp
  by_cases hr : r = 0
  · simp [hr]
  · by_cases h : q = r
    · subst h; rw [if_neg hr, if_neg hr, if_pos ⟨rfl, hr⟩]; exact Laws.tget_tset_same _ _ _ _
    · rw [if_neg hr, if_neg (c := q = r ∧ r ≠ 0) (fun e => h e.1)]
      simp only [Laws.tget_tset, if_neg h]
@[simp] theorem Thread.rp_wg (t : Thread) (r : BitVec 5) (x : Word) (q : Nat) : (t.wg r x).rp q = t.rp q := by
  unfold Thread.rp; simp
theorem Thread.rv_wv (t : Thread) (r q : BitVec 5) (x : Vec) : (t.wv r x).rv q = if q = r then x else t.rv q := by
  unfold Thread.rv Thread.wv
  by_cases h : q = r
  · subst h; simp [Laws.tget_tset_same]
  · have : ¬ q.toNat = r.toNat := fun e => h (BitVec.eq_of_toNat_eq e)
    simp [h, this, Laws.tget_tset]
theorem Thread.rh_wh (t : Thread) (r q : Nat) (x : Handle) : (t.wh r x).rh q = if q = r then x else t.rh q := by
  unfold Thread.rh Thread.wh; simp [Laws.tget_tset]

end Sys2Proof.Machine
end

