-- ==== Sys2Proof/Tests/Slice0.lean ====
section
/-! SUPPORT. Tests: well-formedness, words of the manual, worked examples of the manual as single steps, and witnesses that the hypotheses
of the statements can be met. -/
namespace Sys2Proof.Tests
open Sys2Proof.Machine Sys2Proof.Claims
set_option maxRecDepth 20000

def g : Guard := ⟨0, false⟩
def zr : OpR := { rd := 0, ra := 0, rb := 0, rc := 0, ty := .i8, fn := 0, md := 0, x := none }
def zi : OpI := { rd := 0, ra := 0, fn := 0, imm := 0 }
def zm : OpM := { rd := 0, ra := 0, rb := 0, rq := .own, scope := .thread, ord := .relaxed, ty := .i8, span := 0, off := 0, x := none }
def zb : OpB := { ra := 0, rb := 0, cond := 0, hint := false, off := 0 }
def zj : OpJ := { rd := 0, ra := 0, fn := 0, imm := 0, aux0 := 0, aux1 := 0 }

/-- R240: base forms of the family are well formed, and each with one field out of its rule is not. -/
theorem test_wf_integer : ([Instr.nop g, Instr.wfence g, Instr.nmfence g, Instr.regroup g, Instr.yield g, Instr.exit g, Instr.eret g, Instr.ret g].all (fun i => (i zr).wf)
    && [Instr.add g, Instr.sub g, Instr.mul g].all (fun i => (i { zr with md := 1 }).wf)
    && [Instr.mulh g, Instr.and g, Instr.or g, Instr.xor g, Instr.shl g, Instr.shr g, Instr.sra g, Instr.rot g, Instr.min g, Instr.max g].all (fun i => (i zr).wf)
    && [Instr.clz g, Instr.ctz g, Instr.popc g].all (fun i => (i zr).wf)
    && [Instr.madd g].all (fun i => (i { zr with rc := 1 }).wf)
    && [Instr.div g].all (fun i => (i { zr with fn := 1, md := 1 }).wf)
    && [Instr.rem g].all (fun i => (i { zr with fn := 1 }).wf)
    && [Instr.addi g, Instr.andi g, Instr.ori g, Instr.xori g].all (fun i => (i { zi with imm := 5 }).wf)
    && [Instr.shi g].all (fun i => (i { zi with fn := 3, imm := 63 }).wf)
    && [Instr.cmp g].all (fun i => (i { zr with fn := 5, rd := 7 }).wf)
    && [Instr.cmpi g].all (fun i => (i { zi with fn := 13, rd := 7 }).wf)
    && [Instr.sel g].all (fun i => (i { zr with rc := 7 }).wf)
    && [Instr.movi g, Instr.movk g].all (fun i => (i { zi with fn := 1 }).wf)
    && [Instr.mov g].all (fun i => (i { zr with ra := 9 }).wf)
    && [Instr.ext g].all (fun i => (i { zr with ty := .n64, fn := 64 }).wf)
    && [Instr.ins g].all (fun i => (i { zr with fn := 63, md := 1 }).wf)
    && [Instr.lea g].all (fun i => (i { zm with off := 3 }).wf)
    && [Instr.digit g].all (fun i => (i { zr with rc := 9 }).wf)
    && [Instr.plog g].all (fun i => (i { zr with rd := 7, ra := 7, rb := 7, fn := 7 }).wf)
    && [Instr.pmov g].all (fun i => (i { zr with ra := 7 }).wf)
    && [Instr.nop g, Instr.wfence g, Instr.nmfence g, Instr.regroup g, Instr.yield g, Instr.exit g, Instr.eret g, Instr.ret g].all (fun i => ([{ zr with ty := .i16 }, { zr with fn := 1 }, { zr with md := 1 }, { zr with x := some 0 }, { zr with rd := 1 }, { zr with ra := 1 }, { zr with rb := 1 }, { zr with rc := 1 }] : List OpR).all (fun o => !(i o).wf))
    && [Instr.add g, Instr.sub g, Instr.mul g].all (fun i => ([{ ({ zr with md := 1 }) with ty := .f32 }, { ({ zr with md := 1 }) with rc := 1 }, { ({ zr with md := 1 }) with fn := 1 }, { ({ zr with md := 1 }) with md := 2 }, { ({ zr with md := 1 }) with x := some 0 }] : List OpR).all (fun o => !(i o).wf))
    && [Instr.mulh g, Instr.and g, Instr.or g, Instr.xor g, Instr.shl g, Instr.shr g, Instr.sra g, Instr.rot g, Instr.min g, Instr.max g].all (fun i => ([{ zr with ty := .f32 }, { zr with rc := 1 }, { zr with fn := 1 }, { zr with md := 1 }, { zr with x := some 0 }] : List OpR).all (fun o => !(i o).wf))
    && [Instr.clz g, Instr.ctz g, Instr.popc g].all (fun i => ([{ zr with ty := .f32 }, { zr with rb := 1 }, { zr with rc := 1 }, { zr with fn := 1 }, { zr with md := 1 }, { zr with x := some 0 }] : List OpR).all (fun o => !(i o).wf))
    && [Instr.madd g].all (fun i => ([{ ({ zr with rc := 1 }) with ty := .f32 }, { ({ zr with rc := 1 }) with fn := 1 }, { ({ zr with rc := 1 }) with md := 2 }, { ({ zr with rc := 1 }) with x := some 0 }] : List OpR).all (fun o => !(i o).wf))
    && [Instr.div g].all (fun i => ([{ ({ zr with fn := 1, md := 1 }) with ty := .f32 }, { ({ zr with fn := 1, md := 1 }) with rc := 1 }, { ({ zr with fn := 1, md := 1 }) with fn := 2 }, { ({ zr with fn := 1, md := 1 }) with md := 2 }, { ({ zr with fn := 1, md := 1 }) with x := some 0 }] : List OpR).all (fun o => !(i o).wf))
    && [Instr.rem g].all (fun i => ([{ ({ zr with fn := 1 }) with ty := .f32 }, { ({ zr with fn := 1 }) with rc := 1 }, { ({ zr with fn := 1 }) with fn := 2 }, { ({ zr with fn := 1 }) with md := 1 }, { ({ zr with fn := 1 }) with x := some 0 }] : List OpR).all (fun o => !(i o).wf))
    && [Instr.addi g, Instr.andi g, Instr.ori g, Instr.xori g].all (fun i => ([{ ({ zi with imm := 5 }) with fn := 1 }] : List OpI).all (fun o => !(i o).wf))
    && [Instr.shi g].all (fun i => ([{ ({ zi with fn := 3, imm := 63 }) with fn := 4 }, { ({ zi with fn := 3, imm := 63 }) with imm := 64 }] : List OpI).all (fun o => !(i o).wf))
    && [Instr.cmp g].all (fun i => ([{ ({ zr with fn := 5, rd := 7 }) with ty := .f32 }, { ({ zr with fn := 5, rd := 7 }) with rc := 1 }, { ({ zr with fn := 5, rd := 7 }) with fn := 6 }, { ({ zr with fn := 5, rd := 7 }) with md := 2 }, { ({ zr with fn := 5, rd := 7 }) with rd := 8 }, { ({ zr with fn := 5, rd := 7 }) with x := some 0 }] : List OpR).all (fun o => !(i o).wf))
    && [Instr.cmpi g].all (fun i => ([{ ({ zi with fn := 13, rd := 7 }) with fn := 6 }, { ({ zi with fn := 13, rd := 7 }) with fn := 32 }, { ({ zi with fn := 13, rd := 7 }) with rd := 8 }] : List OpI).all (fun o => !(i o).wf))
    && [Instr.sel g].all (fun i => ([{ ({ zr with rc := 7 }) with rc := 8 }, { ({ zr with rc := 7 }) with ty := .i16 }, { ({ zr with rc := 7 }) with fn := 1 }, { ({ zr with rc := 7 }) with md := 1 }, { ({ zr with rc := 7 }) with x := some 0 }] : List OpR).all (fun o => !(i o).wf))
    && [Instr.movi g, Instr.movk g].all (fun i => ([{ ({ zi with fn := 1 }) with ra := 1 }, { ({ zi with fn := 1 }) with fn := 2 }] : List OpI).all (fun o => !(i o).wf))
    && [Instr.mov g].all (fun i => ([{ ({ zr with ra := 9 }) with rb := 1 }, { ({ zr with ra := 9 }) with rc := 1 }, { ({ zr with ra := 9 }) with ty := .i16 }, { ({ zr with ra := 9 }) with fn := 1 }, { ({ zr with ra := 9 }) with md := 1 }, { ({ zr with ra := 9 }) with x := some 0 }] : List OpR).all (fun o => !(i o).wf))
    && [Instr.ext g].all (fun i => ([{ ({ zr with ty := .n64, fn := 64 }) with ty := .i32 }, { ({ zr with ty := .n64, fn := 64 }) with fn := 0 }, { ({ zr with ty := .n64, fn := 64 }) with fn := 65 }, { ({ zr with ty := .n64, fn := 64 }) with fn := 128 }, { ({ zr with ty := .n64, fn := 64 }) with md := 1 }, { ({ zr with ty := .n64, fn := 64 }) with md := 64 }, { ({ zr with ty := .n64, fn := 64 }) with rb := 1 }, { ({ zr with ty := .n64, fn := 64 }) with rc := 1 }, { ({ zr with ty := .n64, fn := 64 }) with x := some 0 }] : List OpR).all (fun o => !(i o).wf))
    && [Instr.ins g].all (fun i => ([{ ({ zr with fn := 63, md := 1 }) with ty := .n64 }, { ({ zr with fn := 63, md := 1 }) with fn := 0 }, { ({ zr with fn := 63, md := 1 }) with fn := 64 }, { ({ zr with fn := 63, md := 1 }) with fn := 128 }, { ({ zr with fn := 63, md := 1 }) with md := 2 }, { ({ zr with fn := 63, md := 1 }) with md := 64 }, { ({ zr with fn := 63, md := 1 }) with rb := 1 }, { ({ zr with fn := 63, md := 1 }) with rc := 1 }, { ({ zr with fn := 63, md := 1 }) with x := some 0 }] : List OpR).all (fun o => !(i o).wf))
    && [Instr.lea g].all (fun i => ([{ ({ zm with off := 3 }) with rq := .si }, { ({ zm with off := 3 }) with scope := .die }, { ({ zm with off := 3 }) with ord := .acquire }, { ({ zm with off := 3 }) with span := 1 }] : List OpM).all (fun o => !(i o).wf))
    && [Instr.digit g].all (fun i => ([{ ({ zr with rc := 9 }) with ty := .i16 }, { ({ zr with rc := 9 }) with fn := 1 }, { ({ zr with rc := 9 }) with md := 1 }, { ({ zr with rc := 9 }) with x := some 0 }] : List OpR).all (fun o => !(i o).wf))
    && [Instr.plog g].all (fun i => ([{ ({ zr with rd := 7, ra := 7, rb := 7, fn := 7 }) with rd := 8 }, { ({ zr with rd := 7, ra := 7, rb := 7, fn := 7 }) with ra := 8 }, { ({ zr with rd := 7, ra := 7, rb := 7, fn := 7 }) with rb := 8 }, { ({ zr with rd := 7, ra := 7, rb := 7, fn := 7 }) with rc := 1 }, { ({ zr with rd := 7, ra := 7, rb := 7, fn := 7 }) with md := 1 }, { ({ zr with rd := 7, ra := 7, rb := 7, fn := 7 }) with ty := .i16 }, { ({ zr with rd := 7, ra := 7, rb := 7, fn := 7 }) with fn := 8 }, { ({ zr with rd := 7, ra := 7, rb := 7, fn := 7 }) with x := some 0 }] : List OpR).all (fun o => !(i o).wf))
    && [Instr.pmov g].all (fun i => ([{ ({ zr with ra := 7 }) with ra := 8 }, { ({ zr with ra := 7 }) with rb := 1 }, { ({ zr with ra := 7 }) with rc := 1 }, { ({ zr with ra := 7 }) with ty := .i16 }, { ({ zr with ra := 7 }) with md := 1 }, { ({ zr with ra := 7 }) with fn := 3 }, { ({ zr with ra := 7 }) with fn := 1, rd := 8 }, { ({ zr with ra := 7 }) with x := some 0 }] : List OpR).all (fun o => !(i o).wf))) = true := by decide

/-- R240: base forms of the family are well formed, and each with one field out of its rule is not. -/
theorem test_wf_float_and_control : ([Instr.fadd g].all (fun i => (i { zr with ty := .f32, fn := 1, md := 13 }).wf)
    && [Instr.fmul g, Instr.fdiv g].all (fun i => (i { zr with ty := .f32 }).wf)
    && [Instr.ffma g].all (fun i => (i { zr with ty := .bf16, fn := 3, rc := 4 }).wf)
    && [Instr.fsqrt g].all (fun i => (i { zr with ty := .f32 }).wf)
    && [Instr.fminmax g].all (fun i => (i { zr with ty := .f16, fn := 1 }).wf)
    && [Instr.fcmp g].all (fun i => (i { zr with ty := .f32, fn := 7, rd := 7 }).wf)
    && [Instr.fcvt g].all (fun i => (i { zr with ty := .f32, fn := 3 }).wf)
    && [Instr.br g, Instr.bri g].all (fun i => (i { zb with cond := 7 }).wf)
    && [Instr.brp g].all (fun i => (i { zb with ra := 7, cond := 5 }).wf)
    && [Instr.jmp g, Instr.call g].all (fun i => (i { zb with off := 1 }).wf)
    && [Instr.loop g].all (fun i => (i { zb with ra := 1 }).wf)
    && [Instr.lnext g].all (fun i => (i { zb with rb := 1 }).wf)
    && [Instr.jr g].all (fun i => (i { zr with fn := 1, rd := 3 }).wf)
    && [Instr.lnest g].all (fun i => (i zi).wf)
    && [Instr.trap g, Instr.brk g, Instr.scall g].all (fun i => (i { zi with imm := 9 }).wf)
    && [Instr.fadd g].all (fun i => ([{ ({ zr with ty := .f32, fn := 1, md := 13 }) with ty := .i32 }, { ({ zr with ty := .f32, fn := 1, md := 13 }) with fn := 2 }, { ({ zr with ty := .f32, fn := 1, md := 13 }) with md := 16 }, { ({ zr with ty := .f32, fn := 1, md := 13 }) with md := 14 }, { ({ zr with ty := .f32, fn := 1, md := 13 }) with md := 1 }, { ({ zr with ty := .f32, fn := 1, md := 13 }) with rc := 1 }, { ({ zr with ty := .f32, fn := 1, md := 13 }) with x := some 0 }] : List OpR).all (fun o => !(i o).wf))
    && [Instr.fmul g, Instr.fdiv g].all (fun i => ([{ ({ zr with ty := .f32 }) with ty := .i32 }, { ({ zr with ty := .f32 }) with fn := 1 }, { ({ zr with ty := .f32 }) with md := 1 }, { ({ zr with ty := .f32 }) with rc := 1 }, { ({ zr with ty := .f32 }) with x := some 0 }] : List OpR).all (fun o => !(i o).wf))
    && [Instr.ffma g].all (fun i => ([{ ({ zr with ty := .bf16, fn := 3, rc := 4 }) with ty := .i32 }, { ({ zr with ty := .bf16, fn := 3, rc := 4 }) with fn := 4 }, { ({ zr with ty := .bf16, fn := 3, rc := 4 }) with md := 15 }, { ({ zr with ty := .bf16, fn := 3, rc := 4 }) with x := some 0 }] : List OpR).all (fun o => !(i o).wf))
    && [Instr.fsqrt g].all (fun i => ([{ ({ zr with ty := .f32 }) with rb := 1 }, { ({ zr with ty := .f32 }) with rc := 1 }, { ({ zr with ty := .f32 }) with fn := 1 }] : List OpR).all (fun o => !(i o).wf))
    && [Instr.fminmax g].all (fun i => ([{ ({ zr with ty := .f16, fn := 1 }) with ty := .i8 }, { ({ zr with ty := .f16, fn := 1 }) with md := 1 }, { ({ zr with ty := .f16, fn := 1 }) with fn := 2 }, { ({ zr with ty := .f16, fn := 1 }) with rc := 1 }, { ({ zr with ty := .f16, fn := 1 }) with x := some 0 }] : List OpR).all (fun o => !(i o).wf))
    && [Instr.fcmp g].all (fun i => ([{ ({ zr with ty := .f32, fn := 7, rd := 7 }) with ty := .i8 }, { ({ zr with ty := .f32, fn := 7, rd := 7 }) with fn := 8 }, { ({ zr with ty := .f32, fn := 7, rd := 7 }) with md := 2 }, { ({ zr with ty := .f32, fn := 7, rd := 7 }) with rc := 1 }, { ({ zr with ty := .f32, fn := 7, rd := 7 }) with rd := 8 }, { ({ zr with ty := .f32, fn := 7, rd := 7 }) with x := some 0 }] : List OpR).all (fun o => !(i o).wf))
    && [Instr.fcvt g].all (fun i => ([{ ({ zr with ty := .f32, fn := 3 }) with fn := 64 }, { ({ zr with ty := .f32, fn := 3 }) with ty := .f36 }, { ({ zr with ty := .f32, fn := 3 }) with ty := .i32 }, { ({ zr with ty := .f32, fn := 3 }) with rb := 1 }, { ({ zr with ty := .f32, fn := 3 }) with rc := 1 }, { ({ zr with ty := .f32, fn := 3 }) with md := 16 }, { ({ zr with ty := .f32, fn := 3 }) with md := 14 }, { ({ zr with ty := .f32, fn := 3 }) with fn := 20 }, { ({ zr with ty := .f32, fn := 3 }) with x := some 0 }] : List OpR).all (fun o => !(i o).wf))
    && [Instr.br g, Instr.bri g].all (fun i => ([{ ({ zb with cond := 7 }) with cond := 8 }] : List OpB).all (fun o => !(i o).wf))
    && [Instr.brp g].all (fun i => ([{ ({ zb with ra := 7, cond := 5 }) with ra := 8 }, { ({ zb with ra := 7, cond := 5 }) with cond := 6 }, { ({ zb with ra := 7, cond := 5 }) with rb := 1 }] : List OpB).all (fun o => !(i o).wf))
    && [Instr.jmp g, Instr.call g].all (fun i => ([{ ({ zb with off := 1 }) with ra := 1 }, { ({ zb with off := 1 }) with rb := 1 }, { ({ zb with off := 1 }) with cond := 1 }] : List OpB).all (fun o => !(i o).wf))
    && [Instr.loop g].all (fun i => ([{ ({ zb with ra := 1 }) with rb := 1 }, { ({ zb with ra := 1 }) with cond := 1 }] : List OpB).all (fun o => !(i o).wf))
    && [Instr.lnext g].all (fun i => ([{ ({ zb with rb := 1 }) with cond := 1 }] : List OpB).all (fun o => !(i o).wf))
    && [Instr.jr g].all (fun i => ([{ ({ zr with fn := 1, rd := 3 }) with rb := 1 }, { ({ zr with fn := 1, rd := 3 }) with rc := 1 }, { ({ zr with fn := 1, rd := 3 }) with md := 1 }, { ({ zr with fn := 1, rd := 3 }) with ty := .i16 }, { ({ zr with fn := 1, rd := 3 }) with fn := 2 }, { ({ zr with fn := 1, rd := 3 }) with fn := 0 }, { ({ zr with fn := 1, rd := 3 }) with x := some 0 }] : List OpR).all (fun o => !(i o).wf))
    && [Instr.lnest g].all (fun i => ([{ zi with fn := 1 }] : List OpI).all (fun o => !(i o).wf))
    && [Instr.trap g, Instr.brk g, Instr.scall g].all (fun i => ([{ ({ zi with imm := 9 }) with rd := 1 }, { ({ zi with imm := 9 }) with ra := 1 }, { ({ zi with imm := 9 }) with fn := 1 }] : List OpI).all (fun o => !(i o).wf))) = true := by decide

/-- R240: base forms of the family are well formed, and each with one field out of its rule is not. -/
theorem test_wf_memory : ([Instr.ld g].all (fun i => (i { zm with ty := .f32, span := 16, ord := .acquire, scope := .die }).wf)
    && [Instr.st g].all (fun i => (i { zm with ty := .f32, span := 16, ord := .release, scope := .die }).wf)
    && [Instr.vld g].all (fun i => (i { zm with ty := .e2m1 }).wf)
    && [Instr.vst g].all (fun i => (i { zm with ty := .e2m1 }).wf)
    && [Instr.vldx g].all (fun i => (i { zm with ty := .f32 }).wf)
    && [Instr.vstx g].all (fun i => (i { zm with ty := .bf16 }).wf)
    && [Instr.lsld g, Instr.lsst g].all (fun i => (i { zm with ty := .f32 }).wf)
    && [Instr.get g].all (fun i => (i { zj with aux0 := 64 }).wf)
    && [Instr.put g].all (fun i => (i { zj with aux0 := 0x10000040, aux1 := 0x40001 }).wf)
    && [Instr.ccopRd g].all (fun i => (i { zr with md := 63 }).wf)
    && [Instr.ccopSet g].all (fun i => (i { zr with md := 63, fn := 1 }).wf)
    && [Instr.ccopAdd g].all (fun i => (i { zr with md := 63, fn := 2 }).wf)
    && [Instr.ccopClr g].all (fun i => (i { zr with md := 63, fn := 3 }).wf)
    && [Instr.tiledef g].all (fun i => (i { zr with md := 7 }).wf)
    && [Instr.tilest g].all (fun i => (i { zr with ra := 7 }).wf)
    && [Instr.pref g].all (fun i => (i { zm with rq := .si }).wf)
    && [Instr.flushrFlush g].all (fun i => (i { zr with rd := 15 }).wf)
    && [Instr.flushrInv g].all (fun i => (i { zr with rd := 15, fn := 1 }).wf)
    && [Instr.amo g].all (fun i => (i { zm with rq := .nc, ty := .i64 }).wf)
    && [Instr.amon g].all (fun i => (i { zm with rq := .loc, ty := .f32, span := 9 }).wf)
    && [Instr.cas g].all (fun i => (i { zm with rq := .nc, ty := .i64, span := 1, rd := 2, rb := 4 }).wf)
    && [Instr.fence g].all (fun i => (i { zm with ord := .acquire, scope := .die }).wf)
    && [Instr.ld g].all (fun i => ([{ ({ zm with ty := .f32, span := 16, ord := .acquire, scope := .die }) with ty := .e2m1 }, { ({ zm with ty := .f32, span := 16, ord := .acquire, scope := .die }) with span := 17 }, { ({ zm with ty := .f32, span := 16, ord := .acquire, scope := .die }) with ord := .release }, { ({ zm with ty := .f32, span := 16, ord := .acquire, scope := .die }) with ord := .relaxed }] : List OpM).all (fun o => !(i o).wf))
    && [Instr.st g].all (fun i => ([{ ({ zm with ty := .f32, span := 16, ord := .release, scope := .die }) with ty := .e2m1 }, { ({ zm with ty := .f32, span := 16, ord := .release, scope := .die }) with span := 17 }, { ({ zm with ty := .f32, span := 16, ord := .release, scope := .die }) with rq := .si }, { ({ zm with ty := .f32, span := 16, ord := .release, scope := .die }) with ord := .acquire }, { ({ zm with ty := .f32, span := 16, ord := .release, scope := .die }) with ord := .relaxed }] : List OpM).all (fun o => !(i o).wf))
    && [Instr.vld g].all (fun i => ([{ ({ zm with ty := .e2m1 }) with ty := .f36 }, { ({ zm with ty := .e2m1 }) with ty := .i36 }, { ({ zm with ty := .e2m1 }) with span := 17 }, { ({ zm with ty := .e2m1 }) with ord := .acquire }, { ({ zm with ty := .e2m1 }) with scope := .die }] : List OpM).all (fun o => !(i o).wf))
    && [Instr.vst g].all (fun i => ([{ ({ zm with ty := .e2m1 }) with ty := .f36 }, { ({ zm with ty := .e2m1 }) with span := 17 }, { ({ zm with ty := .e2m1 }) with rq := .si }, { ({ zm with ty := .e2m1 }) with ord := .release }, { ({ zm with ty := .e2m1 }) with scope := .die }] : List OpM).all (fun o => !(i o).wf))
    && [Instr.vldx g].all (fun i => ([{ ({ zm with ty := .f32 }) with ty := .i8 }, { ({ zm with ty := .f32 }) with span := 17 }, { ({ zm with ty := .f32 }) with ord := .acquire }, { ({ zm with ty := .f32 }) with scope := .die }] : List OpM).all (fun o => !(i o).wf))
    && [Instr.vstx g].all (fun i => ([{ ({ zm with ty := .bf16 }) with ty := .i8 }, { ({ zm with ty := .bf16 }) with span := 17 }, { ({ zm with ty := .bf16 }) with rq := .si }, { ({ zm with ty := .bf16 }) with ord := .release }, { ({ zm with ty := .bf16 }) with scope := .die }] : List OpM).all (fun o => !(i o).wf))
    && [Instr.lsld g, Instr.lsst g].all (fun i => ([{ ({ zm with ty := .f32 }) with ty := .i16 }, { ({ zm with ty := .f32 }) with span := 1 }, { ({ zm with ty := .f32 }) with ra := 1 }, { ({ zm with ty := .f32 }) with rq := .loc }, { ({ zm with ty := .f32 }) with scope := .die }, { ({ zm with ty := .f32 }) with ord := .acquire }] : List OpM).all (fun o => !(i o).wf))
    && [Instr.get g].all (fun i => ([{ ({ zj with aux0 := 64 }) with rd := 1 }, { ({ zj with aux0 := 64 }) with fn := 1 }, { ({ zj with aux0 := 64 }) with aux0 := 0x20000040 }, { ({ zj with aux0 := 64 }) with aux0 := 0 }, { ({ zj with aux0 := 64 }) with aux1 := 0xC0000 }, { ({ zj with aux0 := 64 }) with aux1 := 1 }, { ({ zj with aux0 := 64 }) with aux0 := 0x400040 }, { ({ zj with aux0 := 64 }) with aux1 := 0x100000 }, { ({ zj with aux0 := 64 }) with aux0 := 0x10000040, aux1 := 1 }, { ({ zj with aux0 := 64 }) with aux1 := 0x200000 }] : List OpJ).all (fun o => !(i o).wf))
    && [Instr.put g].all (fun i => ([{ ({ zj with aux0 := 0x10000040, aux1 := 0x40001 }) with aux1 := 0x40000 }, { ({ zj with aux0 := 0x10000040, aux1 := 0x40001 }) with aux1 := 1 }, { ({ zj with aux0 := 0x10000040, aux1 := 0x40001 }) with aux1 := 0x140001 }] : List OpJ).all (fun o => !(i o).wf))
    && [Instr.ccopRd g].all (fun i => ([{ ({ zr with md := 63 }) with md := 64 }, { ({ zr with md := 63 }) with ra := 1 }, { ({ zr with md := 63 }) with rb := 1 }, { ({ zr with md := 63 }) with rc := 1 }, { ({ zr with md := 63 }) with ty := .i16 }, { ({ zr with md := 63 }) with fn := 1 }, { ({ zr with md := 63 }) with x := some 0 }] : List OpR).all (fun o => !(i o).wf))
    && [Instr.ccopSet g].all (fun i => ([{ ({ zr with md := 63, fn := 1 }) with md := 64 }, { ({ zr with md := 63, fn := 1 }) with rd := 1 }, { ({ zr with md := 63, fn := 1 }) with rb := 1 }, { ({ zr with md := 63, fn := 1 }) with rc := 1 }, { ({ zr with md := 63, fn := 1 }) with ty := .i16 }, { ({ zr with md := 63, fn := 1 }) with fn := 0 }, { ({ zr with md := 63, fn := 1 }) with x := some 0 }] : List OpR).all (fun o => !(i o).wf))
    && [Instr.ccopAdd g].all (fun i => ([{ ({ zr with md := 63, fn := 2 }) with md := 64 }, { ({ zr with md := 63, fn := 2 }) with rd := 1 }, { ({ zr with md := 63, fn := 2 }) with rb := 1 }, { ({ zr with md := 63, fn := 2 }) with rc := 1 }, { ({ zr with md := 63, fn := 2 }) with ty := .i16 }, { ({ zr with md := 63, fn := 2 }) with x := some 0 }] : List OpR).all (fun o => !(i o).wf))
    && [Instr.ccopClr g].all (fun i => ([{ ({ zr with md := 63, fn := 3 }) with md := 64 }, { ({ zr with md := 63, fn := 3 }) with rd := 1 }, { ({ zr with md := 63, fn := 3 }) with ra := 1 }, { ({ zr with md := 63, fn := 3 }) with rb := 1 }, { ({ zr with md := 63, fn := 3 }) with rc := 1 }, { ({ zr with md := 63, fn := 3 }) with ty := .i16 }, { ({ zr with md := 63, fn := 3 }) with x := some 0 }] : List OpR).all (fun o => !(i o).wf))
    && [Instr.tiledef g].all (fun i => ([{ ({ zr with md := 7 }) with rd := 1 }, { ({ zr with md := 7 }) with rc := 1 }, { ({ zr with md := 7 }) with fn := 1 }, { ({ zr with md := 7 }) with ty := .i16 }, { ({ zr with md := 7 }) with x := some 0 }] : List OpR).all (fun o => !(i o).wf))
    && [Instr.tilest g].all (fun i => ([{ ({ zr with ra := 7 }) with rb := 1 }, { ({ zr with ra := 7 }) with rc := 1 }, { ({ zr with ra := 7 }) with ty := .i16 }, { ({ zr with ra := 7 }) with fn := 1 }, { ({ zr with ra := 7 }) with md := 1 }, { ({ zr with ra := 7 }) with x := some 0 }] : List OpR).all (fun o => !(i o).wf))
    && [Instr.pref g].all (fun i => ([{ ({ zm with rq := .si }) with rd := 1 }, { ({ zm with rq := .si }) with rq := .nc }, { ({ zm with rq := .si }) with ord := .acquire }, { ({ zm with rq := .si }) with scope := .die }, { ({ zm with rq := .si }) with span := 17 }, { ({ zm with rq := .si }) with ty := .f36 }] : List OpM).all (fun o => !(i o).wf))
    && [Instr.flushrFlush g].all (fun i => ([{ ({ zr with rd := 15 }) with rd := 16 }, { ({ zr with rd := 15 }) with rc := 1 }, { ({ zr with rd := 15 }) with ty := .i16 }, { ({ zr with rd := 15 }) with md := 1 }, { ({ zr with rd := 15 }) with fn := 1 }, { ({ zr with rd := 15 }) with x := some 0 }] : List OpR).all (fun o => !(i o).wf))
    && [Instr.flushrInv g].all (fun i => ([{ ({ zr with rd := 15, fn := 1 }) with rd := 16 }, { ({ zr with rd := 15, fn := 1 }) with rc := 1 }, { ({ zr with rd := 15, fn := 1 }) with ty := .i16 }, { ({ zr with rd := 15, fn := 1 }) with md := 1 }, { ({ zr with rd := 15, fn := 1 }) with fn := 0 }, { ({ zr with rd := 15, fn := 1 }) with x := some 0 }] : List OpR).all (fun o => !(i o).wf))
    && [Instr.amo g].all (fun i => ([{ ({ zm with rq := .nc, ty := .i64 }) with rq := .own }, { ({ zm with rq := .nc, ty := .i64 }) with ty := .i8 }, { ({ zm with rq := .nc, ty := .i64 }) with span := 7 }, { ({ zm with rq := .nc, ty := .i64 }) with span := 11 }] : List OpM).all (fun o => !(i o).wf))
    && [Instr.amon g].all (fun i => ([{ ({ zm with rq := .loc, ty := .f32, span := 9 }) with rq := .own }, { ({ zm with rq := .loc, ty := .f32, span := 9 }) with ty := .i64 }, { ({ zm with rq := .loc, ty := .f32, span := 9 }) with span := 10 }, { ({ zm with rq := .loc, ty := .f32, span := 9 }) with ord := .acquire }] : List OpM).all (fun o => !(i o).wf))
    && [Instr.cas g].all (fun i => ([{ ({ zm with rq := .nc, ty := .i64, span := 1, rd := 2, rb := 4 }) with rq := .own }, { ({ zm with rq := .nc, ty := .i64, span := 1, rd := 2, rb := 4 }) with ty := .i32 }, { ({ zm with rq := .nc, ty := .i64, span := 1, rd := 2, rb := 4 }) with span := 2 }, { ({ zm with rq := .nc, ty := .i64, span := 1, rd := 2, rb := 4 }) with rd := 3 }, { ({ zm with rq := .nc, ty := .i64, span := 1, rd := 2, rb := 4 }) with rb := 3 }] : List OpM).all (fun o => !(i o).wf))
    && [Instr.fence g].all (fun i => ([{ ({ zm with ord := .acquire, scope := .die }) with rd := 1 }, { ({ zm with ord := .acquire, scope := .die }) with ra := 1 }, { ({ zm with ord := .acquire, scope := .die }) with rb := 1 }, { ({ zm with ord := .acquire, scope := .die }) with rq := .nc }, { ({ zm with ord := .acquire, scope := .die }) with ty := .i16 }, { ({ zm with ord := .acquire, scope := .die }) with span := 1 }, { ({ zm with ord := .acquire, scope := .die }) with off := 1 }, { ({ zm with ord := .acquire, scope := .die }) with x := some 0 }] : List OpM).all (fun o => !(i o).wf))) = true := by decide

/-- R240: base forms of the family are well formed, and each with one field out of its rule is not. -/
theorem test_wf_groups : ([Instr.phase g].all (fun i => (i { zi with fn := 15 }).wf)
    && [Instr.sendOpen g].all (fun i => (i { zr with md := 13, rc := 3 }).wf)
    && [Instr.sendOne g].all (fun i => (i { zr with fn := 3, md := 5 }).wf)
    && [Instr.sendMore g].all (fun i => (i { zr with fn := 1, rb := 3 }).wf)
    && [Instr.sendClose g].all (fun i => (i { zr with fn := 2, rb := 3 }).wf)
    && [Instr.recv g, Instr.rpoll g].all (fun i => (i { zr with rd := 3, md := 5 }).wf)
    && [Instr.barcfg g].all (fun i => (i zm).wf)
    && [Instr.bararr g].all (fun i => (i { zm with ord := .release, scope := .die }).wf)
    && [Instr.barwait g].all (fun i => (i { zm with ord := .acquire }).wf)
    && [Instr.barsync g].all (fun i => (i { zm with ord := .acqRel }).wf)
    && [Instr.wirebar g, Instr.rdclk g].all (fun i => (i { zr with rd := 3 }).wf)
    && [Instr.waitclk g].all (fun i => (i { zr with ra := 3 }).wf)
    && [Instr.phase g].all (fun i => ([{ ({ zi with fn := 15 }) with ra := 1 }, { ({ zi with fn := 15 }) with imm := 1 }, { ({ zi with fn := 15 }) with fn := 16 }] : List OpI).all (fun o => !(i o).wf))
    && [Instr.sendOpen g].all (fun i => ([{ ({ zr with md := 13, rc := 3 }) with fn := 1 }, { ({ zr with md := 13, rc := 3 }) with rd := 1 }, { ({ zr with md := 13, rc := 3 }) with ty := .i16 }, { ({ zr with md := 13, rc := 3 }) with md := 16 }, { ({ zr with md := 13, rc := 3 }) with md := 14 }, { ({ zr with md := 13, rc := 3 }) with md := 5 }, { ({ zr with md := 13, rc := 3 }) with x := some 0 }] : List OpR).all (fun o => !(i o).wf))
    && [Instr.sendOne g].all (fun i => ([{ ({ zr with fn := 3, md := 5 }) with fn := 0 }, { ({ zr with fn := 3, md := 5 }) with rd := 1 }, { ({ zr with fn := 3, md := 5 }) with ty := .i16 }, { ({ zr with fn := 3, md := 5 }) with md := 16 }, { ({ zr with fn := 3, md := 5 }) with md := 6 }, { ({ zr with fn := 3, md := 5 }) with rc := 1 }, { ({ zr with fn := 3, md := 5 }) with x := some 0 }] : List OpR).all (fun o => !(i o).wf))
    && [Instr.sendMore g].all (fun i => ([{ ({ zr with fn := 1, rb := 3 }) with fn := 0 }, { ({ zr with fn := 1, rb := 3 }) with rd := 1 }, { ({ zr with fn := 1, rb := 3 }) with ra := 1 }, { ({ zr with fn := 1, rb := 3 }) with rc := 1 }, { ({ zr with fn := 1, rb := 3 }) with ty := .i16 }, { ({ zr with fn := 1, rb := 3 }) with md := 1 }, { ({ zr with fn := 1, rb := 3 }) with x := some 0 }] : List OpR).all (fun o => !(i o).wf))
    && [Instr.sendClose g].all (fun i => ([{ ({ zr with fn := 2, rb := 3 }) with fn := 0 }, { ({ zr with fn := 2, rb := 3 }) with rd := 1 }, { ({ zr with fn := 2, rb := 3 }) with ra := 1 }, { ({ zr with fn := 2, rb := 3 }) with rc := 1 }, { ({ zr with fn := 2, rb := 3 }) with ty := .i16 }, { ({ zr with fn := 2, rb := 3 }) with md := 1 }, { ({ zr with fn := 2, rb := 3 }) with x := some 0 }] : List OpR).all (fun o => !(i o).wf))
    && [Instr.recv g, Instr.rpoll g].all (fun i => ([{ ({ zr with rd := 3, md := 5 }) with ra := 1 }, { ({ zr with rd := 3, md := 5 }) with rb := 1 }, { ({ zr with rd := 3, md := 5 }) with rc := 1 }, { ({ zr with rd := 3, md := 5 }) with fn := 1 }, { ({ zr with rd := 3, md := 5 }) with ty := .i16 }, { ({ zr with rd := 3, md := 5 }) with md := 6 }, { ({ zr with rd := 3, md := 5 }) with x := some 0 }] : List OpR).all (fun o => !(i o).wf))
    && [Instr.barcfg g].all (fun i => ([{ zm with rq := .nc }, { zm with ord := .acquire }, { zm with scope := .die }, { zm with ty := .i16 }, { zm with span := 1 }, { zm with x := some 0 }] : List OpM).all (fun o => !(i o).wf))
    && [Instr.bararr g].all (fun i => ([{ ({ zm with ord := .release, scope := .die }) with rq := .nc }, { ({ zm with ord := .release, scope := .die }) with ord := .acquire }, { ({ zm with ord := .release, scope := .die }) with ty := .i16 }, { ({ zm with ord := .release, scope := .die }) with span := 1 }, { ({ zm with ord := .release, scope := .die }) with x := some 0 }] : List OpM).all (fun o => !(i o).wf))
    && [Instr.barwait g].all (fun i => ([{ ({ zm with ord := .acquire }) with rq := .nc }, { ({ zm with ord := .acquire }) with ord := .release }, { ({ zm with ord := .acquire }) with ty := .i16 }, { ({ zm with ord := .acquire }) with span := 1 }, { ({ zm with ord := .acquire }) with x := some 0 }] : List OpM).all (fun o => !(i o).wf))
    && [Instr.barsync g].all (fun i => ([{ ({ zm with ord := .acqRel }) with rq := .nc }, { ({ zm with ord := .acqRel }) with ord := .release }, { ({ zm with ord := .acqRel }) with ty := .i16 }, { ({ zm with ord := .acqRel }) with span := 1 }, { ({ zm with ord := .acqRel }) with x := some 0 }] : List OpM).all (fun o => !(i o).wf))
    && [Instr.wirebar g, Instr.rdclk g].all (fun i => ([{ ({ zr with rd := 3 }) with ra := 1 }, { ({ zr with rd := 3 }) with rb := 1 }, { ({ zr with rd := 3 }) with rc := 1 }, { ({ zr with rd := 3 }) with ty := .i16 }, { ({ zr with rd := 3 }) with fn := 1 }, { ({ zr with rd := 3 }) with md := 1 }, { ({ zr with rd := 3 }) with x := some 0 }] : List OpR).all (fun o => !(i o).wf))
    && [Instr.waitclk g].all (fun i => ([{ ({ zr with ra := 3 }) with rd := 1 }, { ({ zr with ra := 3 }) with rb := 1 }, { ({ zr with ra := 3 }) with rc := 1 }, { ({ zr with ra := 3 }) with ty := .i16 }, { ({ zr with ra := 3 }) with fn := 1 }, { ({ zr with ra := 3 }) with md := 1 }, { ({ zr with ra := 3 }) with x := some 0 }] : List OpR).all (fun o => !(i o).wf))) = true := by decide

/-- R240: base forms of the family are well formed, and each with one field out of its rule is not. -/
theorem test_wf_vector : ([Instr.vadd g, Instr.vsub g].all (fun i => (i { zr with ty := .i16, md := 0x70 }).wf)
    && [Instr.vmul g].all (fun i => (i { zr with ty := .i16, fn := 1 }).wf)
    && [Instr.vfma g].all (fun i => (i { zr with ty := .f32, fn := 3, md := 13 }).wf)
    && [Instr.vmin g, Instr.vmax g].all (fun i => (i { zr with ty := .f32 }).wf)
    && [Instr.vun g].all (fun i => (i { zr with ty := .i4, fn := 2 }).wf)
    && [Instr.vand g, Instr.vor g, Instr.vxor g].all (fun i => (i { zr with ty := .n4 }).wf)
    && [Instr.vsh g].all (fun i => (i { zr with ty := .i32, fn := 3 }).wf)
    && [Instr.vcmp g].all (fun i => (i { zr with ty := .i32, fn := 5, rd := 7 }).wf)
    && [Instr.vsel g].all (fun i => (i { zr with ty := .e2m1 }).wf)
    && [Instr.vbcast g].all (fun i => (i { zr with ty := .e4m3, fn := 1, rb := 3 }).wf)
    && [Instr.vext g].all (fun i => (i { zr with ty := .i8, fn := 1 }).wf)
    && [Instr.vcvt g].all (fun i => (i { zr with ty := .f32, fn := 0x11, rc := 1, md := 0x20 }).wf)
    && [Instr.vdot g].all (fun i => (i { zr with ty := .i4, fn := 1 }).wf)
    && [Instr.vred g].all (fun i => (i { zr with ty := .i32, fn := 5 }).wf)
    && [Instr.vscan g].all (fun i => (i { zr with ty := .i32, fn := 6, rc := 7 }).wf)
    && [Instr.vperm g].all (fun i => (i { zr with ty := .i8, fn := 1, rc := 3 }).wf)
    && [Instr.vshuf g].all (fun i => (i { zr with ty := .i8, fn := 5, rb := 3 }).wf)
    && [Instr.vsort g].all (fun i => (i { zr with ty := .f32, rd := 2, fn := 1 }).wf)
    && [Instr.vquant g].all (fun i => (i { zr with ty := .e4m3, fn := 0x12, ra := 2, md := 0x10 }).wf)
    && [Instr.vdeq g].all (fun i => (i { zr with ty := .f32, fn := 0x18, rd := 2 }).wf)
    && [Instr.xop g].all (fun i => (i { zj with aux0 := 0x70 }).wf)
    && [Instr.xred g].all (fun i => (i { zj with fn := 5, rd := 3 }).wf)
    && [Instr.xscan g].all (fun i => (i { zj with fn := 6 }).wf)
    && [Instr.sfu g].all (fun i => (i { zr with ty := .bf16, fn := 9 }).wf)
    && [Instr.rng g].all (fun i => (i { zr with ty := .n32 }).wf)
    && [Instr.sample g].all (fun i => (i { zr with ty := .f32, fn := 7 }).wf)
    && [Instr.maskld g].all (fun i => (i { zm with ty := .n64, rq := .si }).wf)
    && [Instr.pdstep g].all (fun i => (i { zr with fn := 7, md := 4 }).wf)
    && [Instr.vadd g, Instr.vsub g].all (fun i => ([{ ({ zr with ty := .i16, md := 0x70 }) with ty := .i64 }, { ({ zr with ty := .i16, md := 0x70 }) with fn := 1 }, { ({ zr with ty := .i16, md := 0x70 }) with rc := 1 }, { ({ zr with ty := .i16, md := 0x70 }) with md := 0x80 }, { ({ zr with ty := .i16, md := 0x70 }) with md := 1 }, { ({ zr with ty := .i16, md := 0x70 }) with x := some 0 }, { ({ zr with ty := .i16, md := 0x70 }) with ty := .f32 }] : List OpR).all (fun o => !(i o).wf))
    && [Instr.vmul g].all (fun i => ([{ ({ zr with ty := .i16, fn := 1 }) with ty := .f32 }, { ({ zr with ty := .i16, fn := 1 }) with fn := 2 }, { ({ zr with ty := .i16, fn := 1 }) with rc := 1 }, { ({ zr with ty := .i16, fn := 1 }) with md := 0x80 }] : List OpR).all (fun o => !(i o).wf))
    && [Instr.vfma g].all (fun i => ([{ ({ zr with ty := .f32, fn := 3, md := 13 }) with ty := .i4 }, { ({ zr with ty := .f32, fn := 3, md := 13 }) with fn := 4 }, { ({ zr with ty := .f32, fn := 3, md := 13 }) with md := 0x10 }, { ({ zr with ty := .f32, fn := 3, md := 13 }) with md := 14 }] : List OpR).all (fun o => !(i o).wf))
    && [Instr.vmin g, Instr.vmax g].all (fun i => ([{ ({ zr with ty := .f32 }) with ty := .i4 }, { ({ zr with ty := .f32 }) with fn := 1 }, { ({ zr with ty := .f32 }) with rc := 1 }, { ({ zr with ty := .f32 }) with md := 0x80 }] : List OpR).all (fun o => !(i o).wf))
    && [Instr.vun g].all (fun i => ([{ ({ zr with ty := .i4, fn := 2 }) with rb := 1 }, { ({ zr with ty := .i4, fn := 2 }) with rc := 1 }, { ({ zr with ty := .i4, fn := 2 }) with fn := 1 }, { ({ zr with ty := .i4, fn := 2 }) with fn := 5 }, { ({ zr with ty := .i4, fn := 2 }) with md := 0x40 }, { ({ zr with ty := .i4, fn := 2 }) with x := some 0 }] : List OpR).all (fun o => !(i o).wf))
    && [Instr.vand g, Instr.vor g, Instr.vxor g].all (fun i => ([{ ({ zr with ty := .n4 }) with ty := .f32 }, { ({ zr with ty := .n4 }) with fn := 1 }, { ({ zr with ty := .n4 }) with rc := 1 }, { ({ zr with ty := .n4 }) with md := 1 }] : List OpR).all (fun o => !(i o).wf))
    && [Instr.vsh g].all (fun i => ([{ ({ zr with ty := .i32, fn := 3 }) with ty := .i4 }, { ({ zr with ty := .i32, fn := 3 }) with fn := 4 }, { ({ zr with ty := .i32, fn := 3 }) with rc := 1 }, { ({ zr with ty := .i32, fn := 3 }) with md := 1 }] : List OpR).all (fun o => !(i o).wf))
    && [Instr.vcmp g].all (fun i => ([{ ({ zr with ty := .i32, fn := 5, rd := 7 }) with rd := 8 }, { ({ zr with ty := .i32, fn := 5, rd := 7 }) with rc := 1 }, { ({ zr with ty := .i32, fn := 5, rd := 7 }) with md := 0x20 }, { ({ zr with ty := .i32, fn := 5, rd := 7 }) with fn := 6 }, { ({ zr with ty := .i32, fn := 5, rd := 7 }) with ty := .i4 }, { ({ zr with ty := .i32, fn := 5, rd := 7 }) with ty := .f32, fn := 8 }] : List OpR).all (fun o => !(i o).wf))
    && [Instr.vsel g].all (fun i => ([{ ({ zr with ty := .e2m1 }) with ty := .i64 }, { ({ zr with ty := .e2m1 }) with fn := 1 }, { ({ zr with ty := .e2m1 }) with rc := 1 }, { ({ zr with ty := .e2m1 }) with md := 0x20 }, { ({ zr with ty := .e2m1 }) with md := 0x80 }] : List OpR).all (fun o => !(i o).wf))
    && [Instr.vbcast g].all (fun i => ([{ ({ zr with ty := .e4m3, fn := 1, rb := 3 }) with ty := .i4 }, { ({ zr with ty := .e4m3, fn := 1, rb := 3 }) with rc := 1 }, { ({ zr with ty := .e4m3, fn := 1, rb := 3 }) with md := 0x40 }, { ({ zr with ty := .e4m3, fn := 1, rb := 3 }) with fn := 2 }, { ({ zr with ty := .e4m3, fn := 1, rb := 3 }) with fn := 0 }, { ({ zr with ty := .e4m3, fn := 1, rb := 3 }) with x := some 0 }] : List OpR).all (fun o => !(i o).wf))
    && [Instr.vext g].all (fun i => ([{ ({ zr with ty := .i8, fn := 1 }) with ty := .i4 }, { ({ zr with ty := .i8, fn := 1 }) with rc := 1 }, { ({ zr with ty := .i8, fn := 1 }) with md := 0x10 }, { ({ zr with ty := .i8, fn := 1 }) with fn := 2 }, { ({ zr with ty := .i8, fn := 1 }) with x := some 0 }] : List OpR).all (fun o => !(i o).wf))
    && [Instr.vcvt g].all (fun i => ([{ ({ zr with ty := .f32, fn := 0x11, rc := 1, md := 0x20 }) with fn := 0x51 }, { ({ zr with ty := .f32, fn := 0x11, rc := 1, md := 0x20 }) with rb := 1 }, { ({ zr with ty := .f32, fn := 0x11, rc := 1, md := 0x20 }) with ty := .f36 }, { ({ zr with ty := .f32, fn := 0x11, rc := 1, md := 0x20 }) with md := 0x40 }, { ({ zr with ty := .f32, fn := 0x11, rc := 1, md := 0x20 }) with rc := 2 }, { ({ zr with ty := .f32, fn := 0x11, rc := 1, md := 0x20 }) with fn := 0x14 }, { ({ zr with ty := .f32, fn := 0x11, rc := 1, md := 0x20 }) with md := 6 }, { ({ zr with ty := .f32, fn := 0x11, rc := 1, md := 0x20 }) with md := 0x10 }, { ({ zr with ty := .f32, fn := 0x11, rc := 1, md := 0x20 }) with x := some 0 }] : List OpR).all (fun o => !(i o).wf))
    && [Instr.vdot g].all (fun i => ([{ ({ zr with ty := .i4, fn := 1 }) with ty := .i16 }, { ({ zr with ty := .i4, fn := 1 }) with ty := .f16 }, { ({ zr with ty := .i4, fn := 1 }) with fn := 2 }, { ({ zr with ty := .i4, fn := 1 }) with rc := 1 }, { ({ zr with ty := .i4, fn := 1 }) with md := 1 }] : List OpR).all (fun o => !(i o).wf))
    && [Instr.vred g].all (fun i => ([{ ({ zr with ty := .i32, fn := 5 }) with ty := .f32 }, { ({ zr with ty := .i32, fn := 5 }) with fn := 6 }, { ({ zr with ty := .i32, fn := 5 }) with rb := 1 }, { ({ zr with ty := .i32, fn := 5 }) with rc := 1 }, { ({ zr with ty := .i32, fn := 5 }) with md := 0x20 }, { ({ zr with ty := .i32, fn := 5 }) with md := 0x40 }, { ({ zr with ty := .i32, fn := 5 }) with fn := 0, md := 0x10 }] : List OpR).all (fun o => !(i o).wf))
    && [Instr.vscan g].all (fun i => ([{ ({ zr with ty := .i32, fn := 6, rc := 7 }) with ty := .i4 }, { ({ zr with ty := .i32, fn := 6, rc := 7 }) with fn := 8 }, { ({ zr with ty := .i32, fn := 6, rc := 7 }) with fn := 3 }, { ({ zr with ty := .i32, fn := 6, rc := 7 }) with rc := 8 }, { ({ zr with ty := .i32, fn := 6, rc := 7 }) with rb := 1 }, { ({ zr with ty := .i32, fn := 6, rc := 7 }) with md := 0x40 }] : List OpR).all (fun o => !(i o).wf))
    && [Instr.vperm g].all (fun i => ([{ ({ zr with ty := .i8, fn := 1, rc := 3 }) with ty := .i4 }, { ({ zr with ty := .i8, fn := 1, rc := 3 }) with md := 1 }, { ({ zr with ty := .i8, fn := 1, rc := 3 }) with fn := 0 }, { ({ zr with ty := .i8, fn := 1, rc := 3 }) with fn := 2 }] : List OpR).all (fun o => !(i o).wf))
    && [Instr.vshuf g].all (fun i => ([{ ({ zr with ty := .i8, fn := 5, rb := 3 }) with ty := .i4 }, { ({ zr with ty := .i8, fn := 5, rb := 3 }) with md := 1 }, { ({ zr with ty := .i8, fn := 5, rb := 3 }) with fn := 6 }, { ({ zr with ty := .i8, fn := 5, rb := 3 }) with rc := 1 }, { ({ zr with ty := .i8, fn := 5, rb := 3 }) with fn := 4 }] : List OpR).all (fun o => !(i o).wf))
    && [Instr.vsort g].all (fun i => ([{ ({ zr with ty := .f32, rd := 2, fn := 1 }) with rd := 3 }, { ({ zr with ty := .f32, rd := 2, fn := 1 }) with ra := 1 }, { ({ zr with ty := .f32, rd := 2, fn := 1 }) with rb := 1 }, { ({ zr with ty := .f32, rd := 2, fn := 1 }) with rc := 1 }, { ({ zr with ty := .f32, rd := 2, fn := 1 }) with md := 1 }, { ({ zr with ty := .f32, rd := 2, fn := 1 }) with fn := 2 }, { ({ zr with ty := .f32, rd := 2, fn := 1 }) with x := some 0 }, { ({ zr with ty := .f32, rd := 2, fn := 1 }) with ty := .i8 }] : List OpR).all (fun o => !(i o).wf))
    && [Instr.vquant g].all (fun i => ([{ ({ zr with ty := .e4m3, fn := 0x12, ra := 2, md := 0x10 }) with rb := 1 }, { ({ zr with ty := .e4m3, fn := 0x12, ra := 2, md := 0x10 }) with x := some 0 }, { ({ zr with ty := .e4m3, fn := 0x12, ra := 2, md := 0x10 }) with md := 0x40 }, { ({ zr with ty := .e4m3, fn := 0x12, ra := 2, md := 0x10 }) with md := 6 }, { ({ zr with ty := .e4m3, fn := 0x12, ra := 2, md := 0x10 }) with fn := 0x52 }, { ({ zr with ty := .e4m3, fn := 0x12, ra := 2, md := 0x10 }) with md := 0x20 }, { ({ zr with ty := .e4m3, fn := 0x12, ra := 2, md := 0x10 }) with ty := .i8 }, { ({ zr with ty := .e4m3, fn := 0x12, ra := 2, md := 0x10 }) with ra := 3 }, { ({ zr with ty := .e4m3, fn := 0x12, ra := 2, md := 0x10 }) with fn := 3 }] : List OpR).all (fun o => !(i o).wf))
    && [Instr.vdeq g].all (fun i => ([{ ({ zr with ty := .f32, fn := 0x18, rd := 2 }) with rc := 1 }, { ({ zr with ty := .f32, fn := 0x18, rd := 2 }) with x := some 0 }, { ({ zr with ty := .f32, fn := 0x18, rd := 2 }) with md := 0x40 }, { ({ zr with ty := .f32, fn := 0x18, rd := 2 }) with md := 6 }, { ({ zr with ty := .f32, fn := 0x18, rd := 2 }) with fn := 0x58 }, { ({ zr with ty := .f32, fn := 0x18, rd := 2 }) with ty := .i8 }, { ({ zr with ty := .f32, fn := 0x18, rd := 2 }) with rd := 3 }, { ({ zr with ty := .f32, fn := 0x18, rd := 2 }) with md := 0x20 }, { ({ zr with ty := .f32, fn := 0x18, rd := 2 }) with fn := 3 }] : List OpR).all (fun o => !(i o).wf))
    && [Instr.xop g].all (fun i => ([{ ({ zj with aux0 := 0x70 }) with rd := 1 }, { ({ zj with aux0 := 0x70 }) with fn := 2 }, { ({ zj with aux0 := 0x70 }) with aux0 := 0x1000070 }, { ({ zj with aux0 := 0x70 }) with aux0 := 0x200070 }, { ({ zj with aux0 := 0x70 }) with aux0 := 0x171 }, { ({ zj with aux0 := 0x70 }) with aux0 := 0x60070 }, { ({ zj with aux0 := 0x70 }) with aux0 := 0x80277 }, { ({ zj with aux0 := 0x70 }) with aux0 := 0x80077 }, { ({ zj with aux0 := 0x70 }) with aux0 := 0x100576 }, { ({ zj with aux0 := 0x70 }) with fn := 1, aux0 := 0x76 }, { ({ zj with aux0 := 0x70 }) with aux1 := 1 }] : List OpJ).all (fun o => !(i o).wf))
    && [Instr.xred g].all (fun i => ([{ ({ zj with fn := 5, rd := 3 }) with fn := 16 }, { ({ zj with fn := 5, rd := 3 }) with fn := 6 }, { ({ zj with fn := 5, rd := 3 }) with aux0 := 32 }, { ({ zj with fn := 5, rd := 3 }) with aux0 := 6 }, { ({ zj with fn := 5, rd := 3 }) with aux1 := 1 }, { ({ zj with fn := 5, rd := 3 }) with fn := 8 }] : List OpJ).all (fun o => !(i o).wf))
    && [Instr.xscan g].all (fun i => ([{ ({ zj with fn := 6 }) with fn := 8 }, { ({ zj with fn := 6 }) with fn := 3 }, { ({ zj with fn := 6 }) with aux0 := 32 }, { ({ zj with fn := 6 }) with aux0 := 6 }, { ({ zj with fn := 6 }) with aux1 := 1 }, { ({ zj with fn := 6 }) with rd := 1 }] : List OpJ).all (fun o => !(i o).wf))
    && [Instr.sfu g].all (fun i => ([{ ({ zr with ty := .bf16, fn := 9 }) with ty := .f16 }, { ({ zr with ty := .bf16, fn := 9 }) with md := 1 }, { ({ zr with ty := .bf16, fn := 9 }) with rb := 1 }, { ({ zr with ty := .bf16, fn := 9 }) with rc := 1 }, { ({ zr with ty := .bf16, fn := 9 }) with fn := 10 }, { ({ zr with ty := .bf16, fn := 9 }) with x := some 0 }] : List OpR).all (fun o => !(i o).wf))
    && [Instr.rng g].all (fun i => ([{ ({ zr with ty := .n32 }) with md := 1 }, { ({ zr with ty := .n32 }) with ra := 1 }, { ({ zr with ty := .n32 }) with rb := 1 }, { ({ zr with ty := .n32 }) with rc := 1 }, { ({ zr with ty := .n32 }) with fn := 1 }, { ({ zr with ty := .n32 }) with ty := .f32 }, { ({ zr with ty := .n32 }) with x := some 0 }] : List OpR).all (fun o => !(i o).wf))
    && [Instr.sample g].all (fun i => ([{ ({ zr with ty := .f32, fn := 7 }) with ty := .i32 }, { ({ zr with ty := .f32, fn := 7 }) with fn := 8 }, { ({ zr with ty := .f32, fn := 7 }) with md := 1 }, { ({ zr with ty := .f32, fn := 7 }) with x := some 0 }] : List OpR).all (fun o => !(i o).wf))
    && [Instr.maskld g].all (fun i => ([{ ({ zm with ty := .n64, rq := .si }) with ty := .i64 }, { ({ zm with ty := .n64, rq := .si }) with rq := .own }, { ({ zm with ty := .n64, rq := .si }) with ord := .acquire }, { ({ zm with ty := .n64, rq := .si }) with scope := .die }, { ({ zm with ty := .n64, rq := .si }) with span := 17 }, { ({ zm with ty := .n64, rq := .si }) with x := some 0 }] : List OpM).all (fun o => !(i o).wf))
    && [Instr.pdstep g].all (fun i => ([{ ({ zr with fn := 7, md := 4 }) with ty := .i16 }, { ({ zr with fn := 7, md := 4 }) with fn := 8 }, { ({ zr with fn := 7, md := 4 }) with md := 1 }, { ({ zr with fn := 7, md := 4 }) with md := 5 }, { ({ zr with fn := 7, md := 4 }) with x := some 0 }] : List OpR).all (fun o => !(i o).wf))) = true := by decide

/-- R240: base forms of the family are well formed, and each with one field out of its rule is not. -/
theorem test_wf_engines_and_system : ([Instr.mxclaim g].all (fun i => (i { zi with fn := 3 }).wf)
    && [Instr.mxrel g].all (fun i => (i { zi with fn := 1 }).wf)
    && [Instr.mxzero g].all (fun i => (i { zi with imm := 3 }).wf)
    && [Instr.mxjob g, Instr.mxdrain g, Instr.cpjob g, Instr.chld g, Instr.chstAcc g, Instr.gpool g, Instr.optjob g, Instr.spawn g, Instr.keyopLoad g].all (fun i => (i { zj with rd := 15 }).wf)
    && [Instr.chstApply g].all (fun i => (i { zj with rd := 15, fn := 1 }).wf)
    && [Instr.mxcurve g].all (fun i => (i { zj with aux0 := 15 }).wf)
    && [Instr.tblswap g].all (fun i => (i { zr with fn := 1 }).wf)
    && [Instr.hwait g].all (fun i => (i { zr with fn := 1, ra := 15 }).wf)
    && [Instr.htest g].all (fun i => (i { zr with rd := 7, ra := 15 }).wf)
    && [Instr.hcancel g, Instr.hstat g, Instr.hmovTok g].all (fun i => (i { zr with ra := 15 }).wf)
    && [Instr.hmovH g].all (fun i => (i { zr with fn := 1, rd := 15 }).wf)
    && [Instr.hmovClr g].all (fun i => (i { zr with fn := 2, rd := 15 }).wf)
    && [Instr.prio g].all (fun i => (i { zr with fn := 1, rb := 15 }).wf)
    && [Instr.rdsr g].all (fun i => (i { zi with imm := 0x86 }).wf)
    && [Instr.wrsr g].all (fun i => (i { zi with imm := 0x26 }).wf)
    && [Instr.statusWrite g].all (fun i => (i zi).wf)
    && [Instr.rxRingRegWrite g].all (fun i => (i { zi with imm := 0x10 }).wf)
    && [Instr.rxheadWrite g].all (fun i => (i { zi with imm := 0x12 }).wf)
    && [Instr.loftsplitWrite g].all (fun i => (i { zi with imm := 0x40 }).wf)
    && [Instr.wireRegWrite g].all (fun i => (i { zi with imm := 0x44 }).wf)
    && [Instr.wallowWrite g].all (fun i => (i { zi with imm := 0x46 }).wf)
    && [Instr.vicgroupWrite g].all (fun i => (i { zi with imm := 0x60 }).wf)
    && [Instr.fqcfgWrite g].all (fun i => (i { zi with imm := 0x84 }).wf)
    && [Instr.tlbinvCtx g].all (fun i => (i { zr with ra := 3 }).wf)
    && [Instr.tlbinvPage g].all (fun i => (i { zr with fn := 1, ra := 3, rb := 4 }).wf)
    && [Instr.tlbinvAll g].all (fun i => (i { zr with fn := 2 }).wf)
    && [Instr.keyopKill g].all (fun i => (i { zj with rd := 15, fn := 1, aux0 := 1023 }).wf)
    && [Instr.tdescRd g].all (fun i => (i { zj with aux0 := 65535 }).wf)
    && [Instr.tdescWr g].all (fun i => (i { zj with fn := 1, aux0 := 65535 }).wf)
    && [Instr.tdescWr2 g].all (fun i => (i { zj with fn := 2, aux0 := 65535 }).wf)
    && [Instr.scaleset g].all (fun i => (i { zr with fn := 1 }).wf)
    && [Instr.mscpinPin g].all (fun i => (i { zj with aux0 := 0x7FFFFFF, aux1 := 0xFFFFF }).wf)
    && [Instr.mscpinRel g].all (fun i => (i { zj with fn := 1, aux0 := 0x7FFFFFF }).wf)
    && [Instr.mscpinRd g].all (fun i => (i { zj with fn := 2, aux0 := 0x7FFFFFF }).wf)
    && [Instr.capr g].all (fun i => (i { zi with imm := 3 }).wf)
    && [Instr.mxclaim g].all (fun i => ([{ ({ zi with fn := 3 }) with fn := 4 }] : List OpI).all (fun o => !(i o).wf))
    && [Instr.mxrel g].all (fun i => ([{ ({ zi with fn := 1 }) with fn := 2 }, { ({ zi with fn := 1 }) with rd := 1 }] : List OpI).all (fun o => !(i o).wf))
    && [Instr.mxzero g].all (fun i => ([{ ({ zi with imm := 3 }) with fn := 1 }, { ({ zi with imm := 3 }) with rd := 1 }] : List OpI).all (fun o => !(i o).wf))
    && [Instr.mxjob g, Instr.mxdrain g, Instr.cpjob g, Instr.chld g, Instr.chstAcc g, Instr.gpool g, Instr.optjob g, Instr.spawn g, Instr.keyopLoad g].all (fun i => ([{ ({ zj with rd := 15 }) with rd := 16 }, { ({ zj with rd := 15 }) with fn := 1 }, { ({ zj with rd := 15 }) with aux0 := 1 }, { ({ zj with rd := 15 }) with aux1 := 1 }] : List OpJ).all (fun o => !(i o).wf))
    && [Instr.chstApply g].all (fun i => ([{ ({ zj with rd := 15, fn := 1 }) with rd := 16 }, { ({ zj with rd := 15, fn := 1 }) with fn := 0 }, { ({ zj with rd := 15, fn := 1 }) with aux0 := 1 }, { ({ zj with rd := 15, fn := 1 }) with aux1 := 1 }] : List OpJ).all (fun o => !(i o).wf))
    && [Instr.mxcurve g].all (fun i => ([{ ({ zj with aux0 := 15 }) with rd := 1 }, { ({ zj with aux0 := 15 }) with fn := 1 }, { ({ zj with aux0 := 15 }) with aux0 := 16 }, { ({ zj with aux0 := 15 }) with aux1 := 1 }] : List OpJ).all (fun o => !(i o).wf))
    && [Instr.tblswap g].all (fun i => ([{ ({ zr with fn := 1 }) with fn := 2 }, { ({ zr with fn := 1 }) with ty := .i16 }, { ({ zr with fn := 1 }) with md := 1 }, { ({ zr with fn := 1 }) with x := some 0 }] : List OpR).all (fun o => !(i o).wf))
    && [Instr.hwait g].all (fun i => ([{ ({ zr with fn := 1, ra := 15 }) with fn := 2 }, { ({ zr with fn := 1, ra := 15 }) with ra := 16 }, { ({ zr with fn := 1, ra := 15 }) with rb := 1 }, { ({ zr with fn := 1, ra := 15 }) with rc := 1 }, { ({ zr with fn := 1, ra := 15 }) with ty := .i16 }, { ({ zr with fn := 1, ra := 15 }) with md := 1 }, { ({ zr with fn := 1, ra := 15 }) with x := some 0 }] : List OpR).all (fun o => !(i o).wf))
    && [Instr.htest g].all (fun i => ([{ ({ zr with rd := 7, ra := 15 }) with rd := 8 }, { ({ zr with rd := 7, ra := 15 }) with ra := 16 }, { ({ zr with rd := 7, ra := 15 }) with rb := 1 }, { ({ zr with rd := 7, ra := 15 }) with rc := 1 }, { ({ zr with rd := 7, ra := 15 }) with ty := .i16 }, { ({ zr with rd := 7, ra := 15 }) with fn := 1 }, { ({ zr with rd := 7, ra := 15 }) with md := 1 }, { ({ zr with rd := 7, ra := 15 }) with x := some 0 }] : List OpR).all (fun o => !(i o).wf))
    && [Instr.hcancel g, Instr.hstat g, Instr.hmovTok g].all (fun i => ([{ ({ zr with ra := 15 }) with ra := 16 }, { ({ zr with ra := 15 }) with rb := 1 }, { ({ zr with ra := 15 }) with rc := 1 }, { ({ zr with ra := 15 }) with ty := .i16 }, { ({ zr with ra := 15 }) with fn := 1 }, { ({ zr with ra := 15 }) with md := 1 }, { ({ zr with ra := 15 }) with x := some 0 }] : List OpR).all (fun o => !(i o).wf))
    && [Instr.hmovH g].all (fun i => ([{ ({ zr with fn := 1, rd := 15 }) with fn := 0 }, { ({ zr with fn := 1, rd := 15 }) with rd := 16 }, { ({ zr with fn := 1, rd := 15 }) with rb := 1 }, { ({ zr with fn := 1, rd := 15 }) with rc := 1 }, { ({ zr with fn := 1, rd := 15 }) with ty := .i16 }, { ({ zr with fn := 1, rd := 15 }) with md := 1 }, { ({ zr with fn := 1, rd := 15 }) with x := some 0 }] : List OpR).all (fun o => !(i o).wf))
    && [Instr.hmovClr g].all (fun i => ([{ ({ zr with fn := 2, rd := 15 }) with fn := 0 }, { ({ zr with fn := 2, rd := 15 }) with rd := 16 }, { ({ zr with fn := 2, rd := 15 }) with ra := 1 }, { ({ zr with fn := 2, rd := 15 }) with rb := 1 }, { ({ zr with fn := 2, rd := 15 }) with rc := 1 }, { ({ zr with fn := 2, rd := 15 }) with ty := .i16 }, { ({ zr with fn := 2, rd := 15 }) with md := 1 }, { ({ zr with fn := 2, rd := 15 }) with x := some 0 }] : List OpR).all (fun o => !(i o).wf))
    && [Instr.prio g].all (fun i => ([{ ({ zr with fn := 1, rb := 15 }) with fn := 2 }, { ({ zr with fn := 1, rb := 15 }) with fn := 0 }, { ({ zr with fn := 1, rb := 15 }) with rb := 16 }, { ({ zr with fn := 1, rb := 15 }) with rc := 1 }, { ({ zr with fn := 1, rb := 15 }) with ty := .i16 }, { ({ zr with fn := 1, rb := 15 }) with md := 1 }, { ({ zr with fn := 1, rb := 15 }) with x := some 0 }] : List OpR).all (fun o => !(i o).wf))
    && [Instr.rdsr g].all (fun i => ([{ ({ zi with imm := 0x86 }) with ra := 1 }, { ({ zi with imm := 0x86 }) with fn := 1 }, { ({ zi with imm := 0x86 }) with imm := 0x87 }, { ({ zi with imm := 0x86 }) with imm := 0x00C }] : List OpI).all (fun o => !(i o).wf))
    && [Instr.wrsr g].all (fun i => ([{ ({ zi with imm := 0x26 }) with rd := 1 }, { ({ zi with imm := 0x26 }) with fn := 1 }, { ({ zi with imm := 0x26 }) with imm := 1 }, { ({ zi with imm := 0x26 }) with imm := 0x10 }] : List OpI).all (fun o => !(i o).wf))
    && [Instr.statusWrite g].all (fun i => ([{ zi with rd := 1 }, { zi with fn := 1 }, { zi with imm := 1 }] : List OpI).all (fun o => !(i o).wf))
    && [Instr.rxRingRegWrite g].all (fun i => ([{ ({ zi with imm := 0x10 }) with rd := 1 }, { ({ zi with imm := 0x10 }) with fn := 1 }, { ({ zi with imm := 0x10 }) with imm := 0x12 }] : List OpI).all (fun o => !(i o).wf))
    && [Instr.rxheadWrite g].all (fun i => ([{ ({ zi with imm := 0x12 }) with rd := 1 }, { ({ zi with imm := 0x12 }) with fn := 1 }, { ({ zi with imm := 0x12 }) with imm := 0x13 }] : List OpI).all (fun o => !(i o).wf))
    && [Instr.loftsplitWrite g].all (fun i => ([{ ({ zi with imm := 0x40 }) with rd := 1 }, { ({ zi with imm := 0x40 }) with fn := 1 }, { ({ zi with imm := 0x40 }) with imm := 0x41 }] : List OpI).all (fun o => !(i o).wf))
    && [Instr.wireRegWrite g].all (fun i => ([{ ({ zi with imm := 0x44 }) with rd := 1 }, { ({ zi with imm := 0x44 }) with fn := 1 }, { ({ zi with imm := 0x44 }) with imm := 0x45 }] : List OpI).all (fun o => !(i o).wf))
    && [Instr.wallowWrite g].all (fun i => ([{ ({ zi with imm := 0x46 }) with rd := 1 }, { ({ zi with imm := 0x46 }) with fn := 1 }, { ({ zi with imm := 0x46 }) with imm := 0x45 }] : List OpI).all (fun o => !(i o).wf))
    && [Instr.vicgroupWrite g].all (fun i => ([{ ({ zi with imm := 0x60 }) with rd := 1 }, { ({ zi with imm := 0x60 }) with fn := 1 }, { ({ zi with imm := 0x60 }) with imm := 0x61 }] : List OpI).all (fun o => !(i o).wf))
    && [Instr.fqcfgWrite g].all (fun i => ([{ ({ zi with imm := 0x84 }) with rd := 1 }, { ({ zi with imm := 0x84 }) with fn := 1 }, { ({ zi with imm := 0x84 }) with imm := 0x85 }] : List OpI).all (fun o => !(i o).wf))
    && [Instr.tlbinvCtx g].all (fun i => ([{ ({ zr with ra := 3 }) with rd := 1 }, { ({ zr with ra := 3 }) with rb := 1 }, { ({ zr with ra := 3 }) with rc := 1 }, { ({ zr with ra := 3 }) with ty := .i16 }, { ({ zr with ra := 3 }) with fn := 1 }, { ({ zr with ra := 3 }) with md := 1 }, { ({ zr with ra := 3 }) with x := some 0 }] : List OpR).all (fun o => !(i o).wf))
    && [Instr.tlbinvPage g].all (fun i => ([{ ({ zr with fn := 1, ra := 3, rb := 4 }) with fn := 0 }, { ({ zr with fn := 1, ra := 3, rb := 4 }) with rd := 1 }, { ({ zr with fn := 1, ra := 3, rb := 4 }) with rc := 1 }, { ({ zr with fn := 1, ra := 3, rb := 4 }) with ty := .i16 }, { ({ zr with fn := 1, ra := 3, rb := 4 }) with md := 1 }, { ({ zr with fn := 1, ra := 3, rb := 4 }) with x := some 0 }] : List OpR).all (fun o => !(i o).wf))
    && [Instr.tlbinvAll g].all (fun i => ([{ ({ zr with fn := 2 }) with fn := 0 }, { ({ zr with fn := 2 }) with rd := 1 }, { ({ zr with fn := 2 }) with ra := 1 }, { ({ zr with fn := 2 }) with rb := 1 }, { ({ zr with fn := 2 }) with rc := 1 }, { ({ zr with fn := 2 }) with ty := .i16 }, { ({ zr with fn := 2 }) with md := 1 }, { ({ zr with fn := 2 }) with x := some 0 }] : List OpR).all (fun o => !(i o).wf))
    && [Instr.keyopKill g].all (fun i => ([{ ({ zj with rd := 15, fn := 1, aux0 := 1023 }) with rd := 16 }, { ({ zj with rd := 15, fn := 1, aux0 := 1023 }) with fn := 0 }, { ({ zj with rd := 15, fn := 1, aux0 := 1023 }) with ra := 1 }, { ({ zj with rd := 15, fn := 1, aux0 := 1023 }) with imm := 1 }, { ({ zj with rd := 15, fn := 1, aux0 := 1023 }) with aux0 := 1024 }, { ({ zj with rd := 15, fn := 1, aux0 := 1023 }) with aux1 := 1 }] : List OpJ).all (fun o => !(i o).wf))
    && [Instr.tdescRd g].all (fun i => ([{ ({ zj with aux0 := 65535 }) with fn := 1 }, { ({ zj with aux0 := 65535 }) with aux0 := 65536 }, { ({ zj with aux0 := 65535 }) with aux1 := 1 }] : List OpJ).all (fun o => !(i o).wf))
    && [Instr.tdescWr g].all (fun i => ([{ ({ zj with fn := 1, aux0 := 65535 }) with fn := 0 }, { ({ zj with fn := 1, aux0 := 65535 }) with aux0 := 65536 }, { ({ zj with fn := 1, aux0 := 65535 }) with aux1 := 1 }] : List OpJ).all (fun o => !(i o).wf))
    && [Instr.tdescWr2 g].all (fun i => ([{ ({ zj with fn := 2, aux0 := 65535 }) with fn := 0 }, { ({ zj with fn := 2, aux0 := 65535 }) with aux0 := 65536 }, { ({ zj with fn := 2, aux0 := 65535 }) with aux1 := 1 }] : List OpJ).all (fun o => !(i o).wf))
    && [Instr.scaleset g].all (fun i => ([{ ({ zr with fn := 1 }) with fn := 2 }, { ({ zr with fn := 1 }) with ty := .i16 }, { ({ zr with fn := 1 }) with md := 1 }, { ({ zr with fn := 1 }) with x := some 0 }] : List OpR).all (fun o => !(i o).wf))
    && [Instr.mscpinPin g].all (fun i => ([{ ({ zj with aux0 := 0x7FFFFFF, aux1 := 0xFFFFF }) with fn := 1 }, { ({ zj with aux0 := 0x7FFFFFF, aux1 := 0xFFFFF }) with ra := 1 }, { ({ zj with aux0 := 0x7FFFFFF, aux1 := 0xFFFFF }) with imm := 1 }, { ({ zj with aux0 := 0x7FFFFFF, aux1 := 0xFFFFF }) with aux0 := 0x8000000 }, { ({ zj with aux0 := 0x7FFFFFF, aux1 := 0xFFFFF }) with aux1 := 0x100000 }] : List OpJ).all (fun o => !(i o).wf))
    && [Instr.mscpinRel g].all (fun i => ([{ ({ zj with fn := 1, aux0 := 0x7FFFFFF }) with fn := 0 }, { ({ zj with fn := 1, aux0 := 0x7FFFFFF }) with ra := 1 }, { ({ zj with fn := 1, aux0 := 0x7FFFFFF }) with imm := 1 }, { ({ zj with fn := 1, aux0 := 0x7FFFFFF }) with aux0 := 0x8000000 }, { ({ zj with fn := 1, aux0 := 0x7FFFFFF }) with aux1 := 1 }] : List OpJ).all (fun o => !(i o).wf))
    && [Instr.mscpinRd g].all (fun i => ([{ ({ zj with fn := 2, aux0 := 0x7FFFFFF }) with fn := 0 }, { ({ zj with fn := 2, aux0 := 0x7FFFFFF }) with ra := 1 }, { ({ zj with fn := 2, aux0 := 0x7FFFFFF }) with imm := 1 }, { ({ zj with fn := 2, aux0 := 0x7FFFFFF }) with aux0 := 0x8000000 }, { ({ zj with fn := 2, aux0 := 0x7FFFFFF }) with aux1 := 1 }] : List OpJ).all (fun o => !(i o).wf))
    && [Instr.capr g].all (fun i => ([{ ({ zi with imm := 3 }) with fn := 1 }] : List OpI).all (fun o => !(i o).wf))) = true := by decide


/-- The manual's integer and control words, R245, R246, R248. -/
theorem test_decode_integer :
    decodeTableWord 64 0xC06294008 = some (.add ⟨0, false⟩ { rd := 5, ra := 5, rb := 6, rc := 0, ty := .i64, fn := 0, md := 0, x := none })
    ∧ decodeTableWord 64 0x900024070 = some (.movi ⟨0, false⟩ { rd := 9, ra := 0, fn := 0, imm := 9 })
    ∧ decodeTableWord 64 0xC922808C = some (.digit ⟨0, false⟩ { rd := 10, ra := 4, rb := 9, rc := 6, ty := .i8, fn := 0, md := 0, x := none })
    ∧ decodeTableWord 64 0xB004806290098 = some (.fadd ⟨0, false⟩ { rd := 4, ra := 5, rb := 6, rc := 0, ty := .f32, fn := 0, md := 11, x := none })
    ∧ decodeTableWord 64 0xFFFFFFFF813940C0 = some (.br ⟨0, false⟩ { ra := 5, rb := 7, cond := 1, hint := false, off := 0x7FFFFFFFC })
    ∧ decodeTableWord 64 0xC00000D0 = some (.call ⟨0, false⟩ { ra := 0, rb := 0, cond := 0, hint := false, off := 0x6 })
    ∧ decodeTableWord 64 0xD8 = some (.ret ⟨0, false⟩ { rd := 0, ra := 0, rb := 0, rc := 0, ty := .i8, fn := 0, md := 0, x := none })
    ∧ decodeTableWord 64 0x4 = some (.nop ⟨0, false⟩ { rd := 0, ra := 0, rb := 0, rc := 0, ty := .i8, fn := 0, md := 0, x := none }) := by decide

/-- The manual's memory words, R247. -/
theorem test_decode_memory :
    decodeTableWord 64 0x7FE2120046293500 = some (.ld ⟨5, true⟩ { rd := 4, ra := 5, rb := 6, rq := .si, scope := .thread, ord := .relaxed, ty := .f32, span := 8, off := 0xFFC, x := none })
    ∧ decodeTableWord 64 0x20120040290D00 = some (.ld ⟨3, false⟩ { rd := 4, ra := 5, rb := 0, rq := .si, scope := .thread, ord := .relaxed, ty := .f32, span := 0, off := 0x4, x := none })
    ∧ decodeTableWord 64 0x10021466290140 = some (.amo ⟨0, false⟩ { rd := 4, ra := 5, rb := 6, rq := .nc, scope := .device, ord := .release, ty := .i32, span := 0, off := 0x2, x := none })
    ∧ decodeTableWord 128 0x80001100000480000004000A80126 = some (.put ⟨0, false⟩ { rd := 0, ra := 21, fn := 0, imm := 0x40, aux0 := 0x10000048, aux1 := 0x80001 })
    ∧ decodeTableWord 128 0x8000111C000430000000000380126 = some (.put ⟨0, false⟩ { rd := 0, ra := 7, fn := 0, imm := 0x0, aux0 := 0x11C00043, aux1 := 0x80001 }) := by decide

/-- The manual's group, vector and system words, R245, R246, R249, R250. -/
theorem test_decode_groups :
    decodeTableWord 64 0x1000080208C9C0 = some (.vadd ⟨2, false⟩ { rd := 3, ra := 1, rb := 2, rc := 0, ty := .i32, fn := 0, md := 16, x := none })
    ∧ decodeTableWord 96 0x3FC0000000000048004201C9 = some (.vmul ⟨0, false⟩ { rd := 8, ra := 8, rb := 0, rc := 0, ty := .f32, fn := 0, md := 0, x := some 0x3FC00000 })
    ∧ decodeTableWord 64 0xF00010280 = some (.mxclaim ⟨0, false⟩ { rd := 4, ra := 0, fn := 0, imm := 15 })
    ∧ decodeTableWord 128 0x30C28A = some (.mxjob ⟨0, false⟩ { rd := 3, ra := 6, fn := 0, imm := 0x0, aux0 := 0x0, aux1 := 0x0 })
    ∧ decodeTableWord 128 0x3082C2 = some (.chld ⟨0, false⟩ { rd := 2, ra := 6, fn := 0, imm := 0x0, aux0 := 0x0, aux1 := 0x0 })
    ∧ decodeTableWord 128 0x80013102C6 = some (.chstApply ⟨0, false⟩ { rd := 4, ra := 6, fn := 1, imm := 0x80, aux0 := 0x0, aux1 := 0x0 })
    ∧ decodeTableWord 64 0xE62902CC = some (.tblswap ⟨0, false⟩ { rd := 4, ra := 5, rb := 6, rc := 7, ty := .i8, fn := 0, md := 0, x := none })
    ∧ decodeTableWord 128 0x308316 = some (.spawn ⟨0, false⟩ { rd := 2, ra := 6, fn := 0, imm := 0x0, aux0 := 0x0, aux1 := 0x0 })
    ∧ decodeTableWord 64 0x10000194300 = some (.hwait ⟨0, false⟩ { rd := 5, ra := 3, rb := 0, rc := 0, ty := .i8, fn := 1, md := 0, x := none })
    ∧ decodeTableWord 64 0x700010380 = some (.rdsr ⟨0, false⟩ { rd := 4, ra := 0, fn := 0, imm := 7 })
    ∧ decodeTableWord 64 0x1580528 = some (.ccwait ⟨1, false⟩ { rd := 0, ra := 11, fn := 1, imm := 0 })
    ∧ decodeTableWord 64 0x2419C = some (.wirebar ⟨0, false⟩ { rd := 9, ra := 0, rb := 0, rc := 0, ty := .i8, fn := 0, md := 0, x := none }) := by decide

/-- One step over an instruction's word, with slot 0 of core 0 set up by `f`, has a property. -/
def runs (f : Thread → Thread) (nbits w : Nat) (p : Thread → Bool) : Bool :=
  match step ((State.reset.modTh 0 f).withFetchWord nbits w) with
  | .next t => p t.me
  | _ => false

/-- R277's worked example: fadd.f32.rup of 1.0 and 2^-24 writes 0x3F800001 and sets inexact (STATUS[16]). -/
theorem test_fadd_rup : runs (fun t => (t.wg 5 0x3F800000).wg 6 0x33800000) 64 0x000B004806290098
    (fun t => t.rg 4 == 0x3F800001 && t.status.getLsbD 16) = true := by decide

/-- R273: digit divides and takes the remainder; row 14 has the digit 14 / 3 mod 3 = 1. -/
theorem test_digit : runs (fun t => ((t.wg 4 14).wg 9 3).wg 6 3) 64 0x00000000C922808C (fun t => t.rg 10 == 1) = true := by decide

/-- R282: call writes the address of the instruction behind its slot. -/
theorem test_call : runs id 64 0x00000000C00000D0 (fun t => t.rg 30 == 16 && t.slot == .taken 24 && t.pc == 8) = true := by decide

/-- R240: a zero word traps; with no handler enabled the thread has ended (R204). -/
theorem test_zero_word : runs id 64 0 (fun t => t.st == .exited) = true := by decide

/-- R204: with its own handler enabled a thread enters it. -/
theorem test_zero_word_handled : runs (fun t => { t with utvec := 0x4001, umask := 2 }) 64 0
    (fun t => t.pc == 0x4000 && t.ecause == 0x8000000000000001 && t.einfo == 0 && t.epc == 0) = true := by decide

/-- R320's clamp: vadd.i32.sat of 2^31 - 1 and 1 keeps the greatest number and sets SAT. -/
theorem test_vadd_sat : runs (fun t => (((t.wp 2 1).wv 1 0x7FFFFFFF).wv 2 1)) 64 0x001000080208C9C0
    (fun t => t.rv 3 == 0x7FFFFFFF && t.status.getLsbD 21) = true := by decide

/-- R326's worked example: an inclusive segmented sum of 1 to 16 with heads at 0, 5 and 12 (vscan.i32.add v5, v4, p3). -/
def oneTo16 : Vec := (List.range 16).foldl (fun a i => a + BitVec.ofNat 512 ((i + 1) * 2 ^ (32 * i))) 0
theorem test_vscan : (match exec (.vscan ⟨0, false⟩ { zr with rd := 5, ra := 4, rc := 3, ty := .i32 })
      (State.reset.modMe (fun t => (t.wv 4 oneTo16).wp 3 0x1021)) with
    | .next t => (List.range 16).map (el (t.me.rv 5) 32) == [1, 3, 6, 10, 15, 6, 13, 21, 30, 40, 51, 63, 13, 27, 42, 58]
    | _ => false) = true := by decide

/-- R204's worked example: a fault in the slot of a taken branch saves EPC, DS and EBT. -/
theorem test_trap_in_slot :
    let s := State.reset.modMe (fun t => { t with pc := 0x4008, slot := .taken 0x3E00, utvec := 0x9001, umask := 0x80 })
    let t := (trap s 0x07 0 8 false false).me
    t.epc = 0x4008 ∧ t.estat.getLsbD 2 = true ∧ t.ebt = 0x3E00 ∧ t.pc = 0x9000 := by decide

/-- R205: eret in that state goes back to the slot with its branch target. -/
theorem test_eret : (match exec (.eret ⟨0, false⟩ zr) (State.reset.modMe (fun t => { t with epc := 0x4008, estat := 4, ebt := 0x3E00 })) with
    | .next t => t.me.pc == 0x4008 && t.me.slot == .taken 0x3E00
    | _ => false) = true := by decide

/-- R226's worked example: 1 + 2^-9 rounded to bf16 under SR goes up for rand 0xC123 and down for 0xA000. -/
theorem test_stochastic : (rndF ⟨false, false, false⟩ .bf16 5 0xC123 (.fin false 513 (-9))).1 = 0x3F81
    ∧ (rndF ⟨false, false, false⟩ .bf16 5 0xA000 (.fin false 513 (-9))).1 = 0x3F80 := by decide

/-- R105's worked example: the Barn address of core 5's offset 0x12340, and the first offsets beyond what a user may use. -/
theorem test_barn :
    let at5 := fun (sup : Bool) (off : Nat) => match localCheck (State.reset.modCore 5 (fun c => { c with loftCur := 2 })) 0 0 sup
        (0xFF10000000000000 + 5 * 0x80000 + off) 4 with
      | .ok k => (0, k)
      | .error e => (e.cause, e.info)
    at5 true 0x12340 = (0, 5 * 0x80000 + 0x12340) ∧ at5 false 0x5C100 = (0x07, 0)
      ∧ at5 false 0x60000 = (0x05, 0xFF10000000000000 + 5 * 0x80000 + 0x60000) := by decide

/-- R102, R104: a Barn range runs on into the next core where a core's Loft is the whole 512 KiB, and its own Loft window does not. -/
theorem test_barn_crosses :
    let s := State.reset.modCore 5 (fun c => { c with loftCur := 0 })
    let at_ := fun (va : Nat) => match localCheck s 5 0 true va 64 with | .ok k => k | .error _ => 0
    at_ (0xFF10000000000000 + 6 * 0x80000 - 32) = 6 * 0x80000 - 32 ∧ at_ (0xFF00000000080000 - 32) = 0 := by decide

/-! Witnesses: the hypotheses of each statement hold together of these states and operands. -/

/-- The state after reset with the acting thread changed. -/
def sm (f : Thread → Thread) : State := State.reset.modMe f
/-- With every register of the acting thread's general file that a witness names at `x`. -/
def sg (x : Word) : State := sm (fun t => ((t.wg 4 x).wg 5 x).wg 6 x)
/-- In supervisor mode. -/
def sv : State := sm (fun t => { t with status := 1 })

theorem wit_ready : Ready State.reset g ∧ Ready (sg 8) g ∧ Ready sv g ∧ BranchReady (sg 8) g :=
  ⟨⟨by decide, by decide⟩, ⟨by decide, by decide⟩, ⟨by decide, by decide⟩, ⟨⟨by decide, by decide⟩, by decide⟩⟩

theorem wit_IntegerAndBitResults : ({ zr with ty := .i8 } : OpR).ty.isInt = true ∧ ({ zr with ty := .n64 } : OpR).ty.isInt = true
    ∧ Ready (sg 0xFF) g := ⟨by decide, by decide, by decide, by decide⟩

theorem wit_ImmediateAndMoveResults : Ready (sg 8) g ∧ ({ zi with fn := 3 } : OpI).fn.toNat ≤ 3 ∧ ({ zi with fn := 1 } : OpI).fn = 1
    ∧ (let o : OpR := { zr with ty := .n64, fn := 64 }; 1 ≤ o.fn.toNat % 128 ∧ o.md.toNat % 64 + o.fn.toNat % 128 ≤ 64)
    ∧ (let o : OpR := { zr with ty := .i64, fn := 1, md := 63 }; 1 ≤ o.fn.toNat % 128 ∧ o.md.toNat % 64 + o.fn.toNat % 128 ≤ 64)
    ∧ (sg 8).me.rg 5 ≠ 0 := ⟨⟨by decide, by decide⟩, by decide, by decide, by decide, by decide, by decide⟩

theorem wit_DivisionResults : (sg 0xFF).me.rg 5 ≠ 0 ∧ val .i8 ((sg 0xFF).me.rg 5) = -1 ∧ Ready State.reset g
    ∧ val .i8 (State.reset.me.rg 5) = 0 ∧ val .i8 ((sg 0x100).me.rg 5) = 0 :=
  ⟨by decide, by decide, ⟨by decide, by decide⟩, by decide, by decide⟩

theorem wit_CompareResults : Ready (sg 8) g ∧ (let o : OpR := { zr with fn := 5 }; o.ty.isInt = true ∧ o.fn.toNat ≤ 5)
    ∧ ({ zi with fn := 13 } : OpI).fn.toNat % 8 ≤ 5 ∧ ({ zr with fn := 7 } : OpR).fn.toNat ≤ 7
    ∧ ({ zr with fn := 2 } : OpR).fn = 2 := ⟨⟨by decide, by decide⟩, by decide, by decide, by decide, by decide⟩

/-- 1.0, a quiet NaN and −0 as f32 operands. -/
theorem wit_FloatingPointResults :
    let s := sm (fun t => ((t.wg 4 0x3F800000).wg 5 0x7FC00000).wg 6 0x80000000)
    let o : OpR := { zr with ra := 4, rb := 5, rc := 6, ty := .f32, fn := 7 }
    Ready s g ∧ (fop s o 4).isNan = false ∧ (fop s o 5).isNan = true ∧ (fop s o 6).isNan = false
      ∧ fltOrd (fop s o 6) (fop s o 4) = true ∧ o.fn.toNat ≤ 7 ∧ fcmpv (fop s o 4) (fop s o 6) = some .gt :=
  ⟨⟨by decide, by decide⟩, by decide, by decide, by decide, by decide, by decide, by decide⟩

theorem wit_BranchResults : BranchReady (sg 8) g ∧ ({ zb with cond := 7 } : OpB).cond.toNat ≤ 7 ∧ ((sg 8).me.rg 5).toNat % 4 = 0
    ∧ ((sg 8).me.rg 30).toNat % 4 = 0 ∧ (sg 8).me.nest.active = false
    ∧ (let n := (sm (fun t => { t with nest := { active := true, n := [1, 1, 2, 3], i := [0, 0, 1, 2], s := [0, 0, 1] } })).me.nest
       n.active = true ∧ n.n.length = 4 ∧ n.i.length = 4) :=
  ⟨⟨⟨by decide, by decide⟩, by decide⟩, by decide, by decide, by decide, by decide, by decide⟩

theorem wit_BranchTraps : (sm (fun t => { t with slot := .taken 0x3E00 })).me.slot ≠ .plain
    ∧ (sm (fun t => { t with slot := .untaken })).me.slot ≠ .plain ∧ BranchReady (sg 2) g ∧ ((sg 2).me.rg 5).toNat % 4 ≠ 0
    ∧ ((sm (fun t => t.wg 30 3)).me.rg 30).toNat % 4 ≠ 0 :=
  ⟨by decide, by decide, ⟨⟨by decide, by decide⟩, by decide⟩, by decide, by decide⟩

theorem wit_GuardsAndGoingOn : (State.reset.me.rp (⟨1, false⟩ : Guard).pg.toNat).getLsbD 0 = false
    ∧ (State.reset.me.rp (⟨0, true⟩ : Guard).pg.toNat).getLsbD 0 = true
    ∧ plainForm (.add ⟨1, false⟩ zr) = some (⟨1, false⟩, 8) ∧ plainForm (.ld ⟨1, false⟩ { zm with x := some 8 }) = some (⟨1, false⟩, 12)
    ∧ plainForm (.mxjob ⟨1, false⟩ zj) = some (⟨1, false⟩, 16) ∧ State.reset.me.slot = .plain := by decide

/-- An open packet of `n` instructions. -/
def openPkt (n : Nat) : OpenPkt := { dst := 0, beats := 1, count := n, scope := .thread }
theorem wit_InstructionLimits :
    (let i : Instr := .rdsr g { zi with imm := 0x83 }
     i.wf = true ∧ supOnly i = some (g, 0x83E0) ∧ Ready State.reset g ∧ State.reset.me.status.getLsbD 0 = false)
    ∧ (let i : Instr := .wrsr g { zi with imm := 0x80 }
       i.wf = true ∧ supOnly i = some (g, 0x80E1))
    ∧ (let s := sm (fun t => { t with pkt := some (openPkt 65) })
       (s.me.rp 0).getLsbD 0 = true ∧ s.me.pkt = some (openPkt 65) ∧ (Instr.add g zr).wf = true ∧ supOnly (.add g zr) = none)
    ∧ (sm (fun t => { t with pkt := some (openPkt 64) })).me.pkt = some (openPkt 64) :=
  ⟨⟨by decide, by decide, ⟨by decide, by decide⟩, by decide⟩, by decide, by decide, by decide⟩

/-- A user handler and the die's handler; a slot of a taken branch; a trap instruction's cause. -/
theorem wit_TrapsEnterOrFaultTheCrew :
    let s := sm (fun t => { t with utvec := 0x4001, umask := 0x40080, slot := .taken 0x3E00 })
    let d := State.reset.modDie 0 (fun d => { d with tvec := 0x8001 })
    let b := sm (fun t => { t with ecause := 0x8000000000000000 })
    userTrap s.me 0x07 false = true ∧ userTrap s.me 0x12 false = true ∧ s.me.ecause.getLsbD 63 = false ∧ tvecOn d = true
      ∧ userTrap d.me 0x07 false = false ∧ b.me.ecause.getLsbD 63 = true ∧ userTrap State.reset.me 1 false = false
      ∧ tvecOn State.reset = false := by decide

theorem wit_TrapAndReturn : Ready State.reset g ∧ State.reset.me.slot = .plain
    ∧ (let u := (sm (fun t => { t with estat := 1 })).me; u.status.getLsbD 0 = false ∧ u.estat.getLsbD 0 = true)
    ∧ sv.me.status.getLsbD 0 = true ∧ State.reset.me.estat.getLsbD 0 = false :=
  ⟨⟨by decide, by decide⟩, by decide, by decide, by decide, by decide⟩

theorem wit_RegisterFrame : (Instr.add g { zr with rd := 3, md := 1 }).wf = true
    ∧ gForm (.add g { zr with rd := 3, md := 1 }) = some (g, [3]) ∧ Ready State.reset g
    ∧ (match exec (.add g { zr with rd := 3, md := 1 }) State.reset with | .next _ => true | _ => false) = true :=
  ⟨by decide, by decide, ⟨by decide, by decide⟩, by decide⟩

theorem wit_VectorArithmetic : (Instr.vadd g { zr with ty := .f36 }).wf = false ∧ (Instr.vadd g { zr with ty := .bf16, md := 13 }).wf = true
    ∧ (Instr.vmul g { zr with ty := .f32, x := some 0x3FC00000 }).wf = true ∧ (Instr.vun g { zr with ty := .f32, fn := 5 }).wf = true
    ∧ overLimit State.reset.me = false := by decide

theorem wit_VectorMovesAndCompares : Ty.isMove4 .i4 = true ∧ Ty.isMove8 .i8 = true ∧ overLimit State.reset.me = false
    ∧ (Instr.vcmp g { zr with ty := .i8, fn := 5 }).wf = true ∧ (Instr.vcmp g { zr with ty := .f32, fn := 7 }).wf = true := by decide

theorem wit_VectorDot : (Instr.vdot g { zr with ty := .i4, fn := 1 }).wf = true ∧ Ty.isFloat .i4 = false
    ∧ (Instr.vdot g { zr with ty := .bf16, md := 13 }).wf = true ∧ Ty.isFloat .bf16 = true ∧ overLimit State.reset.me = false := by decide

/-- All elements governed, and none (p1 reads 0 at reset). -/
theorem wit_VectorReductions : (Instr.vred g { zr with ty := .i8, fn := 5 }).wf = true ∧ (Instr.vred g { zr with ty := .f32 }).wf = true
    ∧ (Instr.vred g { zr with ty := .f32, fn := 2 }).wf = true ∧ governed State.reset ⟨1, false⟩ { zr with ty := .f32 } = []
    ∧ (governed State.reset g { zr with ty := .f32 }).length = 16
    ∧ (Instr.vscan g { zr with ty := .i32, fn := 6, rc := 3 }).wf = true ∧ overLimit State.reset.me = false := by decide

theorem wit_VectorSort : (Instr.vsort g { zr with ty := .f32, fn := 1 }).wf = true ∧ overLimit State.reset.me = false := by decide

theorem wit_VectorConversions : (Instr.vcvt g { zr with ty := .i8, fn := 2, rc := 3 }).wf = true ∧ Ty.ofCode 2 = some .i32
    ∧ (Instr.vquant g { zr with ty := .e4m3, fn := 0x12, rc := 4 }).wf = true ∧ Ty.ofCode 0x12 = some .f32
    ∧ (Instr.vdeq g { zr with ty := .f32, fn := 0x18 }).wf = true ∧ Ty.ofCode 0x18 = some .e4m3 := by decide

theorem wit_RandomAndSpecial : (Instr.rng g { zr with ty := .f32, fn := 1 }).wf = true ∧ (Instr.sfu g { zr with ty := .f32 }).wf = true
    ∧ (State.reset.clus 0).sfu.length < 32
    ∧ (let l := (State.reset.modClus 0 (fun c => { c with sfu := [(0, 1, 0), (0, 2, 0), (0, 3, 0), (0, 4, 0)] })).clus 0
       4 ≤ (l.sfu.filter (fun e => e.1 == 0)).length) := by decide

/-- A machine whose next step reads `w`, with registers that it waits for. -/
def fe (w : Nat) (pend : List Nat) : State := (State.reset.withFetchWord 64 w).modMe (fun t => { t with pend := pend })
/-- The state behind its fetch. -/
def feU (w : Nat) (pend : List Nat) : State :=
  deliver (translate { fe w pend with clock := 1 } 0 0 false 0 .fetch).1 0 0 0 (leBytes 32 w)
/-- The fetch of `fe` ends in `feU`, from the instruction cache, and from the thread's buffer. -/
theorem fe_fetches (w : Nat) (pend : List Nat) (h : (match (translate { fe w pend with clock := 1 } 0 0 false 0 .fetch).2 with
      | .ok _ => true | .error _ => false) = true ∧ (fe w pend).me.pc = 0 ∧ (fe w pend).me.ctx = 0 ∧ (fe w pend).me.sup = false
      ∧ (fe w pend).cur = 0)
    (hb : bytesToNat ((leBytes 32 w).take 4) ≠ 3)
    (hc : let v := (translate { fe w pend with clock := 1 } 0 0 false 0 .fetch).1
      v.me.fbuf.find? (fun e => e.1 == 0) = none ∧ (v.clus 0).icache.find? (fun e => e.ctx == 0 && e.blk == 0) = some ⟨0, 0, 0, leBytes 32 w⟩) :
    Fetches (fe w pend) (leBytes 32 w) (feU w pend) := by
  obtain ⟨h1, hp, hx, hs, hq⟩ := h
  unfold Fetches
  simp only [hp, hx, hs, hq]
  cases r : translate { fe w pend with clock := 1 } 0 0 false 0 .fetch with
  | mk v x =>
    cases x with
    | error _ => rw [r] at h1; simp at h1
    | ok y =>
      rw [r] at hc
      exact ⟨y, v, leBytes 32 w, r, rfl, hb, .inr ⟨hc.1, by simp [feU, r], _, hc.2, rfl⟩⟩
def addW : Nat := 0x0000000C06294008
theorem wit_StepRunsDecoded :
    let i : Instr := .add g { zr with rd := 5, ra := 5, rb := 6, ty := .i64 }
    Turns (fe addW []) ∧ Fetches (fe addW []) (leBytes 32 addW) (feU addW []) ∧ decodeTableWord 64 addW = some i
      ∧ Arrived ((feU addW []).modMe id) (waitsFor ((feU addW []).modMe id) i)
      ∧ waitsFor ((feU addW []).modMe id) (.add ⟨1, false⟩ zr) = []
      ∧ Turns (fe addW [5]) ∧ Fetches (fe addW [5]) (leBytes 32 addW) (feU addW [5])
      ∧ regsReady (regsCome ((feU addW [5]).modMe id) [5, 6]) [5, 6] = false
      ∧ (match decode (leBytes 32 0) with | .error _ => true | .ok _ => false) = true := by
  refine ⟨by unfold Turns; decide, fe_fetches _ _ (by decide) (by decide) (by decide), by decide, ⟨by decide, by decide, by decide, ?_⟩, by decide,
    by unfold Turns; decide, fe_fetches _ _ (by decide) (by decide) (by decide), by decide, by decide⟩
  intro e h
  have a : ((feU addW []).modMe id).me.sb = [] := by decide
  have b : (((feU addW []).modMe id).core (((feU addW []).modMe id).cur / 4)).sent = [] := by decide
  rw [a, b] at h
  rcases h with h | h <;> cases h

theorem wit_DecodeEncode : (Instr.mxjob g { zj with rd := 3, ra := 6, imm := 0xFFFFFFFF }).wf = true
    ∧ (encode (.mxjob g { zj with rd := 3, ra := 6, imm := 0xFFFFFFFF })).isSome = true
    ∧ (Instr.br g { zb with cond := 7, off := 0x7FFFFFFFF }).wf = true ∧ (encode (.br g { zb with cond := 7, off := 0x7FFFFFFFF })).isSome = true := by
  decide

theorem wit_StepKeepsMemory : State.reset.memOk = true ∧ (match step State.reset with | .next _ => true | _ => false) = true
    ∧ State.reset.powered = true ∧ ({ State.reset with powered := false } : State).powered = false := by decide

/-- LocalAt, decided. -/
def localB (s : State) (va n k : Nat) : Bool :=
  isLocal va && (match localCheck s (s.cur / 4) s.me.ctx s.me.sup va n with | .ok x => x == k | .error _ => false)
    && !(s.me.status.getLsbD 9 && s.me.compute && barnOther (s.cur / 4) va)
theorem localAt_of {s : State} {va n k : Nat} (h : localB s va n k = true) : LocalAt s va n k := by
  simp only [localB, Bool.and_eq_true, Bool.not_eq_true'] at h
  refine ⟨h.1.1, ?_, h.2⟩
  have h2 := h.1.2
  split at h2
  · rename_i x e; rw [e]; simpa using h2
  · simp at h2

/-- The work runs to its end with an answer and a state that satisfy `p`. -/
def ends {α : Type} (m : M α) (s : State) (p : α → State → Bool) : Bool :=
  match m.run s with | (.ok a, t) => p a t | (.error _, _) => false
theorem fin_of {α : Type} [DecidableEq α] {m : M α} {s t : State} {a : α} (h : ends m s (fun b u => decide (b = a) && decide (u = t)) = true) :
    EndsIn m s a t := by
  unfold ends at h
  unfold EndsIn
  split at h
  · rename_i b u e; rw [e]; simp at h; rw [h.1, h.2]
  · simp at h

/-- Still and Quiet, decided. -/
def stillB (s : State) : Bool :=
  let c := s.core (s.cur / 4)
  c.reads.isEmpty && c.sent.isEmpty && s.choices.isEmpty && s.me.sb.all (fun e => decide (e.op = none ∧ e.seq < s.me.seqNo))
theorem still_of {s : State} (h : stillB s = true) : Still s := by
  simp only [stillB, Bool.and_eq_true, List.isEmpty_iff, List.all_eq_true, decide_eq_true_eq] at h
  exact ⟨h.1.1.1, h.1.1.2, h.1.2, h.2⟩
theorem quiet_of {s : State} (h : (stillB s && decide (s.me.sb = [] ∧ s.me.relStage = 0)) = true) : Quiet s := by
  simp only [Bool.and_eq_true, decide_eq_true_eq] at h
  exact ⟨still_of h.1, h.2⟩
theorem noReturns_of {s : State} (h : s.hbms = [] ∧ s.cores.all (fun c => c.2.chute.isEmpty) = true) : NoReturns s := by
  refine ⟨fun st => by simp [State.stack, h.1, tget], fun c => ?_⟩
  have k : ∀ l : Table Core, l.all (fun c => c.2.chute.isEmpty) = true → (tget ({} : Core) l c).chute = [] := by
    intro l
    induction l with
    | nil => intro _; rfl
    | cons e l ih =>
      intro a
      simp only [List.all_cons, Bool.and_eq_true, List.isEmpty_iff] at a
      obtain ⟨n, x⟩ := e
      simp only [tget]
      split
      · exact a.1
      · exact ih a.2
  have := k s.cores h.2
  intro x hx
  rw [State.core, this] at hx
  simp at hx

/-- Supervisor mode with the base of the own Loft, and the last word of it, in g5 and g6. -/
def sl : State := sm (fun t => (({ t with status := 1 }).wg 5 0xFF00000000000000).wg 6 0xFF0000000007FFFC)
/-- A memory operand at g5 and one at g6. -/
def m5 : OpM := { zm with rd := 4, ra := 5, ty := .i32 }
def m6 : OpM := { zm with rd := 4, ra := 6, ty := .i32 }

/-- A store of the word 7 at the first word of the Loft stands in the store buffer of `sl`; the same place, to be atomically added to. -/
def sbE : SbEntry := { loc := true, bytes := (natToBytes 4 7).map some ++ List.replicate 28 none }
def amoE : SbEntry := { loc := true, op := some (.amo 0 .i32 7), at_ := 4, size := 4 }
def slB (e : SbEntry) : State := sl.modMe (fun t => { t with sb := [e], seqNo := 1 })

/-- ld and st at the first and the last word of the Loft; a drain of a store. -/
theorem wit_LocalAccess_scalar : Ready sl g ∧ (Instr.ld g m5).wf = true ∧ (Instr.st g m6).wf = true
    ∧ (Instr.ld g { m5 with ord := .acquire, scope := .device }).wf = true
    ∧ (OpM.ea sl.me m5).toNat % 4 = 0 ∧ LocalAt sl (OpM.ea sl.me m5).toNat 4 0 ∧ LocalAt sl (OpM.ea sl.me m6).toNat 4 0x7FFFC
    ∧ Still sl ∧ Still (slB sbE) ∧ (slB sbE).me.sb = [sbE] ∧ sbE.loc = true ∧ sbE.fence = false ∧ sbE.ord = .relaxed ∧ sbE.bytes.length ≤ 32 :=
  ⟨⟨by decide, by decide⟩, by decide, by decide, by decide, by decide, localAt_of (by decide), localAt_of (by decide), still_of (by decide),
    still_of (by decide), by decide⟩

/-- vld, vst, vldx and vstx with every element governed; v4 holds zeros. -/
theorem wit_LocalAccess_vector : (Instr.vld g m5).wf = true ∧ (Instr.vst g m5).wf = true ∧ overLimit sl.me = false
    ∧ VecLocal sl g m5 (OpM.ea sl.me m5).toNat 0 ∧ (Instr.vldx g { m5 with rb := 4 }).wf = true ∧ (Instr.vstx g { m5 with rb := 4 }).wf = true
    ∧ (∀ j, j < 512 / m5.ty.width → governs sl g m5.ty.width j = true →
        gatherAt sl { m5 with rb := 4 } j % 4 = 0 ∧ LocalAt sl (gatherAt sl { m5 with rb := 4 } j) 4 0) :=
  ⟨by decide, by decide, by decide,
    ⟨by decide, by decide, fun i h a b => localAt_of ((by decide : ∀ i, i < 64 → i % eb m5.ty = 0 → byteOn sl g m5.ty i = true →
      localB sl ((OpM.ea sl.me m5).toNat + i) (eb m5.ty) (0 + i) = true) i h a b)⟩,
    by decide, by decide, fun j h a =>
      have x := (by decide : ∀ j, j < 512 / m5.ty.width → governs sl g m5.ty.width j = true →
        gatherAt sl { m5 with rb := 4 } j % 4 = 0 ∧ localB sl (gatherAt sl { m5 with rb := 4 } j) 4 0 = true) j h a
      ⟨x.1, localAt_of x.2⟩⟩

theorem wit_LanesAndAtomics : (Instr.lsld g { m5 with ra := 0, rb := 4 }).wf = true ∧ (Instr.lsst g { m5 with ra := 0, rb := 4 }).wf = true
    ∧ (∀ j, j < 16 → governs sl g 32 j = true → laneAt sl { m5 with ra := 0, rb := 4 } j % 4 = 0 ∧ laneAt sl { m5 with ra := 0, rb := 4 } j < 4096)
    ∧ (Instr.amo g { m5 with rq := .loc, scope := .core, span := 6 }).wf = true
    ∧ (Instr.amon g { m5 with rq := .loc, scope := .core, span := 6 }).wf = true
    ∧ (Instr.cas g { m5 with rq := .loc, scope := .core, ty := .n64, span := 1, rb := 6 }).wf = true
    ∧ (OpM.base sl.me m5).toNat % 16 = 0 ∧ LocalAt sl (OpM.base sl.me m5).toNat 4 0 ∧ LocalAt sl (OpM.base sl.me m5).toNat 16 0
    ∧ sl.me.prog = 0 ∧ overLimit sl.me = false
    ∧ (let s := sl.modMe (fun t => { t with st := .running }); Quiet s ∧ s.me.live = true ∧ NoReturns s ∧ NoPeers s .system) :=
  ⟨by decide, by decide, by decide, by decide, by decide, by decide, by decide, localAt_of (by decide), localAt_of (by decide), by decide,
    by decide, quiet_of (by decide), by decide, noReturns_of (by decide), fun _ => by decide⟩

/-- An atomic add in the store buffer, and amon's operand. -/
theorem wit_LanesAndAtomics_amon : (let s := slB amoE; (s.core (s.cur / 4)).reads = [] ∧ (s.core (s.cur / 4)).sent = [] ∧ s.choices = [] ∧ s.me.sb = [amoE])
    ∧ amoE.loc = true ∧ amoE.pa % 32 = 0 ∧ amoE.fence = false ∧ amoE.ord = .relaxed ∧ aopOk 0 .i32 = true ∧ amoE.op = some (.amo 0 .i32 7)
    ∧ amoE.ret = none ∧ amoE.size = aopSize 0 .i32 ∧ m5.rb = 0 ∧ (OpM.ea sl.me m5).toNat % 4 = 0 := by decide

/-- A page of device memory at virtual address 0x30000 in the core's TLB, under a loaded key slot; g5 points into it. -/
def sd : State :=
  let s := { State.reset with mgmt := { State.reset.mgmt with slots := [(0, { st := .loaded })] } }
  let s := s.modCore 0 (fun c => { c with utlb := [{ ctx := 0, vpn := 3, big := false, pte := BitVec.ofNat 64 (1 + 2 ^ 47 + 2 ^ 16 * 5) }] })
  s.modMe (fun t => (t.wg 5 0x30200).wg 6 0)

/-- A load meets `sd`, with choices `l` open: it is translated, and read with a value, or none on a POISON frame. -/
def loads (s : State) (acq : Option Scope) (some_ : Bool) : Bool :=
  match translate s 0 s.me.ctx s.me.sup (OpM.ea s.me m5).toNat .read with
  | (s1, .ok (pa, pg)) =>
    let w := pa / 32 % 16
    let gl := gleaner s1 0 s.me.pc.toNat (OpM.ea s.me m5).toNat w w
    let s3 := if acq.isSome then gl.1 else gl.1.modMe (fun t => { t with seqNo := t.seqNo + 1, pend := [4] })
    let r := readWord s3 0 (pa / 32) { pg := pg, lo := w, hi := w, gl := gl.2 } .own acq (phaseTag s3 s.cur)
    decide (s1.cur = s.cur ∧ s1.me = s.me ∧ (s1.core 0).reads = [] ∧ (s1.core 0).sent = [] ∧ s1.choices = s.choices ∧ l1Hit (s1.core 0) (pa / 32) .own = none
      ∧ framePoison s1 pa = (!some_) ∧ r.1.cur = s.cur ∧ r.2.isSome = some_)
  | _ => false
/-- The page's frame is POISON. -/
def sdP : State := sd.modStack (stackOf (5 * 65536 + 512)) (fun k => { k with frames := [(offOf (5 * 65536 + 512) / 512, { poison := true })] })

theorem wit_DeviceAccess : Ready sd g ∧ (Instr.ld g m5).wf = true ∧ (Instr.st g m5).wf = true ∧ (Instr.pref g { m5 with rd := 0 }).wf = true
    ∧ (OpM.ea sd.me m5).toNat % 4 = 0 ∧ isLocal (OpM.ea sd.me m5).toNat = false ∧ sd.me.sb = []
    ∧ loads sd none true = true ∧ loads sd (some .device) true = true ∧ loads sdP none false = true ∧ loads { sd with choices := [1] } none true = true
    ∧ (match translate sd 0 sd.me.ctx sd.me.sup (OpM.ea sd.me m5).toNat .write with
      | (s1, .ok (_, pg)) => decide (s1.cur = sd.cur ∧ s1.me = sd.me ∧ pg.ms = false ∧ pg.fnc = false)
      | _ => false) = true := by
  refine ⟨⟨by decide, by decide⟩, ?_⟩
  decide

theorem wit_Releases : Ready State.reset g ∧ State.reset.me.prog = 0 ∧ Quiet State.reset ∧ NoPeers State.reset .system
    ∧ (∀ sc ∈ [Scope.thread, .core, .device, .system], ends (releaseSteps sc) State.reset (fun _ t => decide (t.cur = 0
        ∧ t.devId = State.reset.devId ∧ t.me.ctx = 0)) = true)
    ∧ State.reset.me.rh 0 = .empty ∧ State.reset.me.pkt = none :=
  ⟨⟨by decide, by decide⟩, by decide, quiet_of (by decide), fun _ => by decide, by decide⟩

/-- Ranges of flushr: empty, the last byte of the device address space, and one byte past it. -/
theorem wit_Releases_ranges :
    (let s := sm (fun t => (t.wg 5 (2 ^ 55 - 1)).wg 6 1); (s.me.rg 6).toNat ≠ 0 ∧ (s.me.rg 5).toNat + (s.me.rg 6).toNat ≤ 2 ^ 55)
    ∧ (let s := sm (fun t => (t.wg 5 (2 ^ 55 - 1)).wg 6 2); (s.me.rg 6).toNat ≠ 0 ∧ 2 ^ 55 < (s.me.rg 5).toNat + (s.me.rg 6).toNat)
    ∧ (State.reset.me.rg 6).toNat = 0 := by decide

/-- A shape record of two i32 elements at the start of the Loft, its elements at 0x100. -/
def shapeBytes : List Byte := natToBytes 8 0xFF00000000000100 ++ natToBytes 4 2 ++ natToBytes 4 1 ++ natToBytes 4 1 ++ natToBytes 4 1
  ++ natToBytes 4 4 ++ natToBytes 4 8 ++ natToBytes 4 8 ++ natToBytes 4 Ty.i32.code ++ natToBytes 24 0
def theShape : Shape := { base := 0xFF00000000000100, tile := none, ty := .i32, n := [2, 1, 1, 1], st := [1, 4, 8, 8] }
/-- Three such records stand at the start of the Loft. -/
def ss : State := locWrite sl 0 ((shapeBytes ++ shapeBytes ++ shapeBytes).map some)

theorem shape_at (r : Word) (h : ends (recordBytes r 64 64) ss (fun b u => decide (b = shapeBytes) && decide (u = ss)) = true) :
    ∃ bs, EndsIn (recordBytes r 64 64) ss bs ss ∧ parseShape bs = some theShape := ⟨shapeBytes, fin_of h, by decide⟩

theorem wit_shapes : Shapes ss 0xFF00000000000000 [theShape, theShape, theShape] := by
  refine ⟨quiet_of (by decide), ?_⟩
  intro i x h
  have hx : x = theShape := by
    match i, h with
    | 0, h => simpa using h.symm
    | 1, h => simpa using h.symm
    | 2, h => simpa using h.symm
  subst hx
  refine ⟨?_, by decide, by decide, fun _ => ⟨0x100, localAt_of (by decide)⟩, fun n h => by simp [theShape] at h⟩
  match i, h with
  | 0, _ => exact shape_at _ (by decide)
  | 1, _ => exact shape_at _ (by decide)
  | 2, _ => exact shape_at _ (by decide)

/-- With a row length of 1, as the destination of a reduction along i0. -/
theorem wit_StreamedOperations : Ready ss g ∧ ss.me.rg 5 + (0#32).setWidth 64 = 0xFF00000000000000
    ∧ (Instr.xop g { zj with ra := 5, aux0 := 0x70 }).wf = true ∧ xopTyOk 0x70 0 .i32 = true
    ∧ (Instr.xop g { zj with ra := 5, aux0 := 0x7F + 0x12 * 256 }).wf = true ∧ xopTyOk 0x7F 0x12 .i32 = true
    ∧ (Instr.xop g { zj with ra := 5, fn := 1, aux0 := 0x70, aux1 := 3 }).wf = true
    ∧ (Instr.xred g { zj with rd := 4, ra := 5, fn := 5 }).wf = true ∧ (Instr.xred g { zj with ra := 5, fn := 8 }).wf = true
    ∧ (Instr.xscan g { zj with ra := 5, fn := 6 }).wf = true ∧ Ty.isArith .i32 = true ∧ Ty.isVInt .i32 = true
    ∧ ({ theShape with n := [1, 1, 1, 1] } : Shape).n.drop 1 = theShape.n.drop 1 :=
  ⟨⟨by decide, by decide⟩, by decide⟩

/-- Two weights, 1.0 and −0, with every token legal, and a count of none. -/
theorem wit_SampleAndGrammar_sample :
    let s := locWrite (sm (fun t => (({ t with status := 1 }).wg 5 0xFF00000000000000).wg 6 2)) 0 ((natToBytes 4 0x3F800000 ++ natToBytes 4 0x80000000).map some)
    let o : OpR := { zr with rd := 4, ra := 5, rb := 0, rc := 6, ty := .f32, fn := 1 }
    Ready s g ∧ Quiet s ∧ s.me.got = [] ∧ (Instr.sample g o).wf = true ∧ LocalAt s 0xFF00000000000000 (4 * 2) 0
      ∧ (quanta ((List.range 2).map (fun i => (true, f32v (bytesToNat (locRead s (4 * i) 4)))))).sum ≠ 0
      ∧ (quanta ((List.range 2).map (fun i => (false, f32v (bytesToNat (locRead s (4 * i) 4)))))).sum = 0 :=
  ⟨⟨by decide, by decide⟩, quiet_of (by decide), by decide, by decide, localAt_of (by decide), by decide, by decide⟩

/-- A mask table at 0x40: entries at 0x1000, masks at 0x2000, 512 tokens, 16 entries; entry 0 holds key 0. -/
def sg1 : State :=
  let s := sm (fun t => ((({ t with status := 1 }).wg 5 0xFF00000000000040).wg 4 0xFF00000000003000).wg 6 0)
  let s := locWrite s 0x40 ((natToBytes 8 0xFF00000000001000 ++ natToBytes 8 0xFF00000000002000 ++ natToBytes 4 512 ++ natToBytes 4 4).map some)
  locWrite s 0x1000 ((natToBytes 8 (2 ^ 63)).map some)
theorem wit_SampleAndGrammar_maskld :
    let m : OpM := { zm with rd := 4, ra := 5, rb := 6, ty := .n64, rq := .loc }
    Ready sg1 g ∧ Quiet sg1 ∧ sg1.me.got = [] ∧ (Instr.maskld g m).wf = true ∧ (OpM.base sg1.me m).toNat % 64 = 0 ∧ LocalAt sg1 (OpM.base sg1.me m).toNat 64 0x40
      ∧ locNum sg1 (0x40 + 16) 4 = 512 ∧ locNum sg1 (0x40 + 20) 4 = 4 ∧ locNum sg1 (0x40 + 24) 40 = 0
      ∧ LocalAt sg1 (sg1.me.rg 4).toNat 64 0x3000 ∧ Probes sg1 (locNum sg1 0x40 8) 0 4 8 0 32 (fun i => 0x1000 + 8 * i) 0 true
      ∧ Probes sg1 (locNum sg1 0x40 8) 1 4 8 0 32 (fun i => 0x1008 + 8 * i) 0 false
      ∧ LocalAt sg1 (locNum sg1 0x48 8 + locNum sg1 0x1000 8 / 2 ^ 32 % 2 ^ 24 * 64) 64 0x2000 :=
  ⟨⟨by decide, by decide⟩, quiet_of (by decide), by decide, by decide, by decide, localAt_of (by decide), by decide, by decide, by decide, localAt_of (by decide),
    ⟨by decide, fun i h => by obtain rfl : i = 0 := by omega
                              exact localAt_of (by decide), fun i h => by omega, by decide⟩,
    ⟨by decide, fun i h => by obtain rfl : i = 0 := by omega
                              exact localAt_of (by decide), fun i h => by omega, by decide⟩, localAt_of (by decide)⟩

/-- A push-down table at 0x40 with entries at 0x1000; a stack record at 0x400 whose depth is `dp`; the entry's action is `act`. -/
def sg2 (dp act : Nat) : State :=
  let s := sm (fun t => ((({ t with status := 1 }).wg 5 0xFF00000000000400).wg 6 0xFF00000000000040).wg 4 0)
  let s := locWrite s 0x40 ((natToBytes 8 0xFF00000000001000 ++ natToBytes 8 4).map some)
  let s := locWrite s 0x400 ((natToBytes 8 dp).map some)
  locWrite s 0x1000 ((natToBytes 8 (2 ^ 63) ++ natToBytes 8 act).map some)
/-- A push onto an empty stack, a pop of one, a pop of none and a push onto a full one. -/
theorem wit_SampleAndGrammar_pdstep :
    let o : OpR := { zr with rd := 4, ra := 5, rb := 6, rc := 7, fn := 1, md := 4 }
    Ready (sg2 0 (2 ^ 62)) g ∧ Quiet (sg2 0 (2 ^ 62)) ∧ (Instr.pdstep g o).wf = true
      ∧ (∀ dp ∈ [0, 1, 256], ∀ act ∈ [2 ^ 62, 2 ^ 63], let s := sg2 dp act
          localB s (s.me.rg 5).toNat 520 0x400 = true ∧ localB s (s.me.rg 6).toNat 64 0x40 = true ∧ locNum s 0x400 8 % 512 = dp
            ∧ locNum s 0x48 8 = 4 ∧ locNum s (0x40 + 16) 48 = 0 ∧ localB s (locNum s 0x40 8) 16 0x1000 = true
            ∧ locNum s 0x1000 8 / 2 ^ 63 = 1 ∧ locNum s 0x1000 8 % 2 ^ 48 = 0 ∧ locNum s (0x1000 + 8) 8 / 2 ^ 62 = act / 2 ^ 62) :=
  ⟨⟨by decide, by decide⟩, quiet_of (by decide), by decide, by decide⟩

/-- Bytes of a record from pairs of size and value. -/
def rec (l : List (Nat × Nat)) : List Byte := (l.map (fun e => natToBytes e.1 e.2)).flatten
/-- Supervisor mode; g5 points to a record with these bytes at the start of the Loft, with the core's tiles at `ti`. -/
def withRec (l : List (Nat × Nat)) : State := locWrite sl 0 ((rec l).map some)
/-- The record is read and nothing has changed. -/
def recOk (s : State) (n al : Nat) (d : List Byte) : Bool := ends (recordBytes 0xFF00000000000000 n al) s (fun b u => decide (b = d) && decide (u = s))
/-- The operand at which a J-format instruction names that record. -/
def j5 : OpJ := { zj with ra := 5 }

/-- A counter that is ahead, one that is behind, one that is faulted; an EMPTY and a FILLING tile; the last bytes that tiledef may name. -/
theorem wit_CountersAndTiles :
    let q := (sm (fun t => t.wg 5 0x100)).modCore 0 (fun c => { c with cc := [(1, { value := 5 }), (2, { flt := true, cause := 7 })], tiles := [(9, { st := 1, pend := 1 })] })
    Ready q g ∧ q.me.pkt = none ∧ ((tget {} (q.core 0).cc 1).value - (5#32 + 0)).getLsbD 31 = false
      ∧ ((tget {} (q.core 0).cc 1).value - (6#32 + 0)).getLsbD 31 = true ∧ (tget {} (q.core 0).cc 2).flt = true
      ∧ (tget {} (q.core 0).tiles 9).st = 1 ∧ (tget {} (q.core 0).tiles 8).st = 0
      ∧ 0x40 + (0x7C000 - 0x40) ≤ ctxBase sl 0 ∧ (0x7C000 - 0x40) % 64 = 0 ∧ loftAllowed sl 0 0 true 0x40 (0x7C000 - 0x40) = true :=
  ⟨⟨by decide, by decide⟩, by decide⟩

/-- A put descriptor for another core (kind 2), and one for a tile (bit 17) that is READY. -/
def putRec : List (Nat × Nat) := [(8, 0xFF00000000002000), (8, 0x05180100), (4, 0), (4, 0x100), (8, 0)]
def tileRec : List (Nat × Nat) := [(8, 9), (8, 0x10000), (4, 0), (4, 64), (8, 0)]
theorem wit_Transfers :
    let o : OpJ := { j5 with aux0 := 0x10000048, aux1 := 0x80001 }
    let p : OpJ := { j5 with aux0 := 64, aux1 := 0x20000 }
    let s := withRec putRec
    let t := (withRec tileRec).modCore 0 (fun c => { c with tiles := [(9, { st := 2, base := 4 })] })
    Ready s g ∧ Ready t g ∧ Quiet s ∧ Quiet t ∧ (Instr.put g o).wf = true ∧ (Instr.put g p).wf = true ∧ (Instr.get g p).wf = true
      ∧ (o.aux1.extractLsb' 18 2).toNat = 2 ∧ p.aux1.getLsbD 17 = true
      ∧ recOk s 32 32 (rec putRec) = true ∧ recOk t 32 32 (rec tileRec) = true
      ∧ field (rec putRec) 8 8 < 2 ^ 27 ∧ field (rec putRec) 20 4 = 0x100 ∧ localB s 0xFF00000000002000 0x100 0x2000 = true
      ∧ localB t (0xFF00000000000000 + 4 * 64) 64 (4 * 64) = true ∧ isLocal (field (rec tileRec) 8 8) = false
      ∧ (s.core 0).gp.length < 64 ∧ (tget {} (t.core 0).tiles 9).st = 2 ∧ (tget {} (t.core 0).tiles 9).ctx = t.me.ctx :=
  ⟨⟨by decide, by decide⟩, ⟨by decide, by decide⟩, quiet_of (by decide), quiet_of (by decide), by decide⟩
/-- A put to a peer: its module has a route through a port that is UP. -/
def peerRec : List (Nat × Nat) := [(8, 0xFF00000000002000), (8, 0x4000), (4, 5), (4, 0x100), (8, 0)]
theorem wit_Transfers_peer :
    let s := { withRec peerRec with ports := [(0, { st := 2 })], mgmt := { State.reset.mgmt with routes := [(0, 2 ^ 41 + 2 ^ 34)] } }
    recOk s 32 32 (rec peerRec) = true ∧ (Instr.put g { j5 with aux0 := 64, aux1 := 0x40000 }).wf = true ∧ field (rec peerRec) 16 4 = 5
      ∧ BitVec.ofNat 21 5 ≠ s.devId ∧ (routeTo s (BitVec.ofNat 21 5)).isSome = true ∧ localB s 0xFF00000000002000 0x100 0x2000 = true := by decide

/-- To thread 4 of this module; open packets of 14 and 15 beats; an empty ring, one with a message, no ring. -/
theorem wit_Messages :
    let ring := fun (tail : Word) => sm (fun t => { t with rxsize := 1024, rxtail := tail })
    let opened := fun (n : Nat) => sm (fun t => { t with pkt := some { openPkt 1 with beats := n } })
    Ready State.reset g ∧ Ready (ring 0) g ∧ Ready (ring 128) g ∧ Ready (opened 15) g ∧ Quiet (opened 14) ∧ Quiet State.reset
      ∧ (Instr.sendOpen g zr).wf = true ∧ (Instr.sendOne g { zr with fn := 3 }).wf = true ∧ (Instr.rpoll g { zr with md := 0 }).wf = true
      ∧ SendReady State.reset zr ∧ (opened 14).me.pkt = some { openPkt 1 with beats := 14 }
      ∧ devOf (openPkt 1).dst = State.reset.devId ∧ heldBack (opened 14) 0 = false
      ∧ ends (releaseSteps .thread) (opened 14) (fun _ t => t.devId == (opened 14).devId) = true
      ∧ reservedByte (ring 128) 9 = false ∧ (ring 128).me.rxtail ≠ (ring 128).me.rxhead ∧ (ring 0).me.rxtail = (ring 0).me.rxhead
      ∧ (tget locDefault (ring 128).loc 9).getLsbD 0 = (ring 128).me.status.getLsbD 2
      ∧ (tget locDefault (ring 128).loc 9).getLsbD 0 ≠ ((ring 128).modMe (fun t => { t with status := 4 })).me.status.getLsbD 2
      ∧ State.reset.me.rxsize.toNat % 2 ^ 20 = 0 :=
  ⟨⟨by decide, by decide⟩, ⟨by decide, by decide⟩, ⟨by decide, by decide⟩, ⟨by decide, by decide⟩,
    quiet_of (by decide), quiet_of (by decide), by decide, by decide, by decide, by unfold SendReady; decide, by decide⟩

/-- A die's clock copy reads at most 2 at clock 0. -/
theorem clk_reset (s : State) (h : s.clock = 0) : (s.dieClock 0).toNat < 3 := by
  have := (Config.clockSkew 0).isLt
  unfold State.dieClock
  rw [h, BitVec.toNat_ofNat]
  omega

/-- Barrier 3 of two threads, one arrived; barrier numbers at the bound; a wire group of one thread; a clock value ahead. -/
theorem wit_BarriersAndClock :
    let s := (sm (fun t => (t.wg 5 3).wg 4 1)).modCore 0 (fun c => { c with bars := [(3, { count := 2, arr := 1 })] })
    Ready s g ∧ Quiet s ∧ s.me.barWait = none ∧ s.me.prog ≠ 7 ∧ (s.me.rg 4).getLsbD 63 = false ∧ (s.me.rg 5).toNat < 2 ^ 18 ∧ 2 ^ 18 ≤ ((sm (fun t => t.wg 5 0x40000)).me.rg 5).toNat ∧ s.me.bar = none
      ∧ s.choices = [] ∧ (barAt s 4).arr = 0 ∧ (barAt s 3).count ≠ 0 ∧ (barAt s 3).ctx = s.me.ctx ∧ (barAt s 3).arr + 1 = (barAt s 3).count
      ∧ (barAt s 4).count = 0 ∧ (barAt s 3).gen ≠ (s.me.rg 4).getLsbD 0 ∧ (barAt s 3).gen = (s.me.rg 6).getLsbD 0
      ∧ ends (releaseSteps .core) s (fun _ t => t.cur == s.cur && t.me.bar.isNone && t.choices.isEmpty && t.me.ctx == s.me.ctx) = true
      ∧ s.me.wire = none ∧ wireOk 0 0 (s.core 0).wiregrp = false ∧ (s.dieClock 0).toNat < 3 ∧ (s.me.rg 5).toNat = 3 ∧ (s.me.rg 6).toNat = 0 := by
  refine ⟨⟨by decide, by decide⟩, quiet_of (by decide), ?_⟩
  repeat' apply And.intro
  all_goals first | decide | exact clk_reset _ (by decide)

/-- A waiter of barrier 3 whose generation has turned; wire groups of slot 0 alone and of slots 0 and 1; a wait that has its result. -/
theorem wit_BarriersAndClock_waits :
    let w := (sm (fun t => ((t.wg 5 3).wg 4 (2 ^ 63)).wp 0 1)).modMe (fun t => { t with barWait := some { q := 0, id := 3, tok := false, done := true } })
    let c := fun (slots : Nat) => State.reset.modCore 0 (fun c => { c with wiregrp := BitVec.ofNat 64 (slots * 2 ^ 16) })
    let c1 := fun (slots : Nat) => (c slots).modMe (fun t => { t with wire := some { since := 0 } })
    (w.me.rg 4).getLsbD 63 = true ∧ w.me.barWait = some { q := 0, id := 3, tok := false, done := true } ∧ (w.me.rg 4).getLsbD 0 = false
      ∧ wireOk 0 0 ((c 1).core 0).wiregrp = true ∧ wireOk 0 0 ((c 3).core 0).wiregrp = true ∧ (c 1).me.wire = none ∧ (c 1).choices = []
      ∧ wireComplete (c1 1) (wireCorner (c1 1) 0) = true ∧ sameRect (c1 1) 0 (wireCorner (c1 1) 0) = true
      ∧ wireComplete (c1 3) (wireCorner (c1 3) 0) = false
      ∧ (sm (fun t => { t with wire := some { since := 0, result := some 0 } })).me.wire = some { since := 0, result := some 0 } := by decide

/-- A node of two levels whose thread is the only one of its group at level 1. -/
def sn : State :=
  let s := { sl with nodes := [(0, { st := .running, crew := [0], lrec := { levels := [{ count := 1, spill := false, scope := 1, domain := 1 }] } })] }
  locWrite s 0 (shapeBytes.map some)
theorem wit_NestsAndPhases :
    Ready sn g ∧ Quiet sn ∧ ends (recordBytes 0xFF00000000000000 64 64) sn (fun b u => decide (b = shapeBytes) && decide (u = sn)) = true
      ∧ (parseShape shapeBytes).isSome = true
      ∧ (let m : Nest := { n := [1, 2, 3, 4], i := [0, 1, 2, 2], s := [1, 1, 1] }; m.n.length = 4 ∧ m.i.length = 4 ∧ ∀ a ∈ m.n.zip m.i, a.2 < a.1)
      ∧ sn.me.pkt = none ∧ sn.me.regroup = none ∧ (sn.node sn.me.node).lrec.levels.length ≤ 1 ∧ 0 < (sn.node sn.me.node).lrec.levels.length
      ∧ ends (releaseSteps (groupScope (sn.node 0) 0 (members (sn.node 0) 0 0))) sn (fun _ t => t.cur == sn.cur && decide (t.phases = sn.phases)
          && groupReady { t with phases := tmod {} sn.phases (phaseKey 0 0 0) (fun p => { p with arrived := p.arrived ++ [0] }) } 0 0 0) = true
      ∧ 0 ∉ (tget ({} : Phase) sn.phases (phaseKey 0 0 0)).due :=
  ⟨⟨by decide, by decide⟩, quiet_of (by decide), by decide⟩
/-- A crew of two: the second has arrived at its phase, or has not; it stands at a regroup, or does not. -/
def sn2 (arrived : List Nat) (f : Thread → Thread) : State :=
  let s := { sn with nodes := [(0, { st := .running, crew := [0, 1], lrec := { levels := [{ count := 1, spill := false, scope := 1, domain := 1 }, { count := 2, spill := false, scope := 1, domain := 1 }] } })],
                     phases := [(phaseKey 0 0 0, { arrived := arrived })] }
  (s.modTh 1 f).modMe (fun t => { t with regroup := some 0 })
theorem wit_NestsAndPhases_crew :
    let at_ := fun (s : State) => takeSig { s with phases := tmod {} s.phases (phaseKey 0 0 0) (fun p => { p with arrived := p.arrived ++ [0] }) } 0 0 0 0
    Quiet (sn2 [1] id) ∧ groupReady (at_ (sn2 [1] id)) 0 0 0 = true ∧ groupReady (at_ (sn2 [] id)) 0 0 0 = false
      ∧ 0 ∉ (tget ({} : Phase) (sn2 [1] id).phases (phaseKey 0 0 0)).arrived
      ∧ (let s := sn2 [] (fun t => { t with st := .running, regroup := some 0 })
         s.me.regroup = some 0 ∧ (clusterMates s).all (fun th => regroupSettled s.me.pc (s.th th)) = true)
      ∧ (let s := sn2 [] (fun t => { t with st := .running })
         s.me.prog ≠ 1 ∧ s.clock < 0 + 512 ∧ (clusterMates s).all (fun th => regroupSettled s.me.pc (s.th th)) = false) :=
  ⟨quiet_of (by decide), by decide⟩

/-- Operand slots 0 and 1 and tiles 0 and 1 are the crew's, slot 2 another's. -/
def sc (l : List (Nat × Nat)) : State :=
  (withRec l).modClus 0 (fun c => { c with slotOwn := [(0, 1), (1, 1), (2, 9)], accOwn := [(0, 1), (1, 1)] })
theorem wit_Claims :
    let s := sc []
    Ready s g ∧ mask32 s { zi with imm := 3 } = 3 ∧ owner s false 0 = s.me.node + 1 ∧ owner s false 3 = 0 ∧ owner s false 2 ≠ 0 ∧ owner s false 2 ≠ s.me.node + 1
      ∧ 256 ≤ (mask32 s { zi with fn := 1, imm := 256 }).toNat ∧ (mask32 s { zi with fn := 1, imm := 255 }).toNat < 256
      ∧ (s.clus 0).claims = [] ∧ (s.clus 0).jobs = []
      ∧ (∃ i < 32, i ∈ ({ seq := 0, unit := 0, kind := .zero, th := 0, ctx := 0, node := 0, status := 0, card := [], arg := 1 } : Job).uses.2) :=
  ⟨⟨by decide, by decide⟩, by decide⟩

/-- Cards that pass every check: a job of one chunk of e4m3, a curve, a drain, copies of 8 bytes, chain cards and an optimiser card. -/
def mxCard : List (Nat × Nat) := [(8, Ty.e4m3.code * 256 + Ty.e4m3.code * 2 ^ 16), (16, 0), (16, 1), (88, 0)]
def curveCard : List (Nat × Nat) := [(4, 0x3F800000), (4, 2), (8, 0), (128, 0x3F800000 + 0x40000000 * 2 ^ 32), (128, 0x3F800000), (128, 0)]
def drainCard : List (Nat × Nat) := [(8, 0x1000), (4, 512), (4, 256 * Ty.bf16.code), (48, 0)]
def copyCard (skind dkind src dst : Nat) : List (Nat × Nat) :=
  [(8, src), (8, dst), (4, 1), (4, 8), (4, 64), (4, 64), (4, Ty.i8.code * 257 + 2 ^ 20 * skind + 2 ^ 22 * dkind), (28, 0)]
def chainRec (lr gbl offs : Nat) : List (Nat × Nat) :=
  [(4, 2), (2, 3), (1, Ty.f32.code), (1, 0), (8, 0x4000), (8, 0x8000), (4, 64), (4, lr), (8, 0), (8, offs), (8, gbl), (72, 0)]
def optCard : List (Nat × Nat) := [(4, 16), (4, 1), (8, 4096), (8, 8192), (8, 16384), (8, 32768), (24, 0), (12, 1 + 2 ^ 33), (52, 0)]

theorem wit_Submissions_ready : Ready (sc mxCard) g ∧ CanSubmit (sc mxCard) 0 ∧ CanSubmit (sc mxCard) 1 ∧ CanSubmit (sc mxCard) 2
    ∧ ((sc mxCard).me.rh 0).pending = false ∧ (sm (fun t => { t with sub := true })).me.sub = true :=
  ⟨⟨by decide, by decide⟩, ⟨quiet_of (by decide), by decide⟩, ⟨quiet_of (by decide), by decide⟩, ⟨quiet_of (by decide), by decide⟩, by decide, by decide⟩
theorem wit_Submissions_matrix :
    (recOk (sc mxCard) 128 64 (rec mxCard) && recOk (sc curveCard) 400 64 (rec curveCard) && recOk (sc drainCard) 64 64 (rec drainCard)
      && (match readMxCard (rec mxCard) with
        | some c => mxCardOk (rec mxCard) c && !c.tap && (c.alist.take c.nch).all (fun x => owner (sc mxCard) false (x / 8) == 1)
            && (c.blist.take c.nch).all (fun x => owner (sc mxCard) false x == 1) && c.tiles.all (fun x => owner (sc mxCard) true x == 1)
        | none => false)
      && (readCurve (rec curveCard)).isSome && (readCurve (rec [(400, 0)])).isNone
      && (match readDrain (rec drainCard) with
        | some c => !c.tile && !isLocal c.dst && c.dst + c.span ≤ 2 ^ 55 && owner (sc drainCard) true c.acc == 1
        | none => false)) = true := by decide
theorem wit_Submissions_copy :
    ([(0, 0, 0x4000, 0x8000), (1, 0, 8, 0x8000), (0, 1, 0x4000, 8), (2, 2, 9, 10)].all (fun (k, d, a, b) =>
      let l := copyCard k d a b
      let s := (sc l).modCore 0 (fun c => { c with tiles := [(9, { st := 2, base := 64 }), (10, { base := 65 })] })
      let at_ := fun kind v => if kind = 0 then v else if kind = 1 then v / 8 * 32768 + v % 8 * 4096 else 0xFF00000000000000 + (tget {} (s.core 0).tiles v).base * 64
      recOk s 64 64 (rec l) && (match readCopy (rec l) with
        | some c => c.transOk (at_ k a) (at_ d b) && c.sspan == 8 && c.dspan == 8
        | none => false)
        && (k != 2 || localB s (at_ k a) 8 0x1000) && (d != 2 || localB s (at_ d b) 8 0x1040))) = true := by decide
theorem wit_Submissions_chain :
    ([(JobKind.chld, 0, 0, 0), (.chst false, 0, 0xFF00000000001000, 0), (.chst true, 5, 0, 0), (.gpool, 0, 0, 0x2000)].all (fun (k, lr, gbl, offs) =>
      let l := chainRec lr gbl offs
      recOk (sc l) 128 64 (rec l) && (readChain k (rec l)).isSome
        && (gbl == 0 || ends (recordBytes 0xFF00000000001000 64 64) (sc l) (fun b u => decide (u = sc l) && (List.range 8).all (fun i => field b (8 * i) 8 % 64 == 0))))
      && recOk (sc optCard) 128 64 (rec optCard) && (readOpt (rec optCard)).isSome) = true := by decide

/-- A job, a node and end states in handle registers 1 to 5; the job is accepted, the node waits. -/
def aJob : Job := { seq := 7, unit := 2, kind := .chld, th := 0, ctx := 0, node := 0, status := 0, card := [], st := .accepted }
def aRef : JobRef := { ctx := 0, unit := 2, cl := 0, core := 0, seq := 7 }
def hs : State :=
  let s := { sl with nodes := [(0, { st := .running }), (5, { st := .waiting })], ctxs := [(0, { count := 9 })], units := [(2, { next := 8 })] }
  let s := s.modClus 0 (fun c => { c with jobs := [aJob] })
  s.modMe (fun t => ((((((t.wh 1 (.job aRef)).wh 2 (.node 5)).wh 3 (.settled {})).wh 4 (.settled { state := 2, cause := 0x0F, info := 3 })).wh 5
    (.settled { state := 3 })).wg 6 (tokenWord (.job aRef))).wg 7 (tokenWord (.node 5)))
theorem wit_Handles_waits : Ready hs g ∧ hs.me.rh 0 = .empty ∧ hs.me.rh 1 = .job aRef ∧ hs.me.rh 2 = .node 5 ∧ hs.me.rh 3 = .settled {}
    ∧ hs.me.rh 4 = .settled { state := 2, cause := 0x0F, info := 3 } ∧ hs.me.resWait = false ∧ hs.me.pkt = none
    ∧ (hs.modMe (fun t => { t with pkt := some (openPkt 1) })).me.pkt.isSome = true ∧ overLimit (hs.modMe (fun t => { t with pkt := some (openPkt 1) })).me = false :=
  ⟨⟨by decide, by decide⟩, by decide⟩
theorem wit_Handles_tokens : Takeable hs .empty ∧ Takeable hs (.job aRef) ∧ Takeable hs (.node 5) ∧ Takeable hs (.settled { state := 3 })
    ∧ hs.me.rg 6 = tokenWord (.job aRef) ∧ (hs.me.rh 0).pending = false ∧ (BitVec.toNat (2 ^ 63 : Word)) / 2 ^ 61 ≥ 4
    ∧ (BitVec.toNat (1 : Word)) / 2 ^ 61 = 0 ∧ (1 : Word) ≠ 0 ∧ (2 ^ 61 + 2 ^ 53) / 2 ^ 61 = 1 ∧ (2 ^ 61 + 2 ^ 53) / 2 ^ 53 % 256 ≠ hs.me.ctx :=
  ⟨trivial, by unfold Takeable; decide, by unfold Takeable; decide, by unfold Takeable; decide, by decide⟩
theorem wit_Handles_cancel : (hs.me.rh 3).pending = false ∧ aRef.unit < 3 ∧ jobAt hs aRef.cl aRef.unit aRef.seq = some aJob ∧ aJob.st = .accepted
    ∧ aJob.ref = aRef ∧ nodeKept hs 5 = true ∧ (hs.node 5).preempted = false ∧ (hs.node 5).lrec.done = 0 ∧ (hs.node 5).crew = []
    ∧ (hs.node 5).st = .waiting ∧ jobAt (hs.modClus 0 (fun c => { c with jobs := [{ aJob with st := .running }] })) 0 2 7 = some { aJob with st := .running } := by
  decide

/-- A launch record of one thread, entry 0x1000, stands in the Loft; the context is enabled. -/
def launchRec : List (Nat × Nat) := [(8, 0x1000), (96, 0), (8, 1 * 256 + 8 * 4 + 2), (56, 0), (8, 2 ^ 12), (72, 0), (8, 0x5EA1 * 2 ^ 48)]
def sp (l : List (Nat × Nat)) : State :=
  { withRec l with ctxs := [(0, { ctl := 0x6400003F01 })], nodes := [(0, { st := .running })], mgmt := { (withRec l).mgmt with stage := 4 } }
theorem wit_SpawnAndPriority :
    Ready (sp launchRec) g ∧ recOk (sp launchRec) 256 64 (rec launchRec) = true ∧ ((sp launchRec).me.rh 0).pending = false
      ∧ ends (releaseSteps .device) (sp launchRec) (fun _ t => t.cur == 0 && poolCode t 0 (rec launchRec) true true == 0) = true
      ∧ (readLaunch (rec launchRec)).pred = [] ∧ recOk (sp [(256, 0)]) 256 64 (rec [(256, 0)]) = true
      ∧ ends (releaseSteps .device) (sp [(256, 0)]) (fun _ t => poolCode t 0 (rec [(256, 0)]) true true != 0) = true
      ∧ hs.me.rh 1 = .job aRef ∧ nodeKept hs 0 = true ∧ (hs.node 0).st.ended = false ∧ (hs.node 0).st = .running ∧ nodeKept hs 5 = true
      ∧ nodeKept State.reset 0 = false :=
  ⟨⟨by decide, by decide⟩, by decide⟩

/-- A crew's share of 1 KiB at the start of core 0's Loft. -/
def sr1 : State := { sl with nodes := [(0, { place := [{ q := 0, slots := [0], base := 0, size := 1024 }] })] }
/-- Every register of the statement is met; the bounds of each range of values. -/
theorem wit_SystemRegisters :
    Ready sl g ∧ sl.me.status.getLsbD 0 = true
      ∧ (∀ ix ∈ [0x000, 0x001, 0x002, 0x003, 0x004, 0x005, 0x008, 0x009, 0x00A, 0x00B, 0x010, 0x011, 0x012, 0x013, 0x020, 0x026, 0x040, 0x046, 0x060,
          0x080, 0x086], (srValue sl ix).isSome = true)
      ∧ (srThread 0 0x008 sl.me).isSome = true ∧ (srThread 0 0x026 sl.me).isSome = true ∧ (srDie 0 0x080 (sl.die 0)).isSome = true
      ∧ (BitVec.toNat (0xA0 : Word)) / 32 % 8 = 5 ∧ (BitVec.toNat (0xC0 : Word)) / 32 % 8 = 6 ∧ ringOk sr1 0 1024 = true ∧ ringOk sr1 64 1024 = false ∧ (srValue sr1 6).isSome = true
      ∧ (∃ i, i < 10 ∧ 1024 = 2 ^ (10 + i)) ∧ (¬ ∃ i, i < 10 ∧ 512 = 2 ^ (10 + i)) ∧ (¬ ∃ k : Fin 4, (sl.th (0 * 4 + k.val)).wire.isSome = true) := by
  refine ⟨⟨by decide, by decide⟩, ?_⟩
  decide

/-- A parked job under token 9 that a write of sr.FQPOP-like registers resumes. -/
theorem wit_SystemRegisters_resume :
    let j : Job := { aJob with park := some { va := 0, cause := 8, info := 0, write := false, token := some 9 } }
    let s := sl.modClus 0 (fun c => { c with jobs := [j] })
    jobAt s 0 j.unit j.seq = some j ∧ j.result = none ∧ parkedAs 9 j.park = true ∧ (s.clus 0).jobs = [j] := by decide

/-- A tensor entry (matrix layout, scales of mode `m` at 0x30300) at index 1 of the table; its page is in the core's TLB. -/
def entRec (lay sm : Nat) : List (Nat × Nat) :=
  [(8, 0x4000), (4, 3), (4, 2), (4, 1), (4, 1), (12, 1), (4, Ty.f32.code + lay * 256 + sm * 4096 + 2 ^ 17), (8, 0x30300), (4, 6), (4, 2), (8, 0)]
def td (e : List Byte) (r : List (Nat × Nat)) : State :=
  let s := locWrite sd 0 ((rec r).map some)
  let s := s.modMe (fun t => (((({ t with status := 1 }).wg 4 1).wg 5 0xFF00000000000000).wg 6 0).wg 7 5)
  let s := homeWrite s (5 * 65536 + 512) (e.map some) 0 0 0 true
  s.modCtx 0 (fun c => { c with ttbase := 0x301C0, ttcount := 6 })
/-- EntryAt, Homed and Paid as they follow one another, with a property of the entry. -/
def entryB (s : State) (idx n : Nat) (acc : Acc) (paid : Nat) (p : State → Nat → Page → List Byte → Bool) : Bool :=
  let va := entryVa s s.me.ctx idx
  decide (idx + n / 64 ≤ (s.ctx s.me.ctx).ttcount.toNat ∧ idx < 65536 ∧ va % 512 + n ≤ 512)
    && (match translate s 0 s.me.ctx s.me.sup va acc with
      | (s1, .ok (pa, pg)) =>
        ends (charge (List.replicate paid (stackOf pa))) s1 (fun _ u => ends (releaseSteps .device) u (fun _ s2 =>
          s2.cur == s.cur && decide (s2.me.sb = [] ∧ (s2.core 0).reads = [] ∧ (s2.core 0).sent = [])
          && (match homeRead (toHome s2 0 pa n) pa n pg.ctx pg.key pg.cls with
            | (s3, some e) => p s3 pa pg e
            | _ => false)))
      | _ => false)
theorem wit_TensorTable_swap :
    let s := td (rec (entRec 0 0)) []
    Ready s g ∧ 0x4000 < 2 ^ 55 ∧ entryB s 1 64 .write 2 (fun _ _ _ e => decide (e = rec (entRec 0 0)) && entValid e && decide (entLayout e ≤ 1)
        && entTy e == Ty.f32.code && 0x4000 % 4 == 0 && field e 0x34 4 == 2) = true :=
  ⟨⟨by decide, by decide⟩, by decide, by decide⟩
/-- A pair whose descriptor names no base, and a list of 64 zero bytes. -/
theorem wit_TensorTable_swapPair :
    let s := td (rec (entRec 2 0 ++ entRec 3 0)) []
    recOk s 64 64 (List.replicate 64 0) = true ∧ entryB s 1 128 .write 3 (fun _ _ _ e => entValid e && pairOk e
      && basesOk (List.replicate 8 0) (field e 0x21 1 % 16)) = true := by decide
theorem wit_TensorTable_desc :
    (entryB (td (rec (entRec 0 0)) (entRec 1 0)) 1 64 .read 0 (fun s3 _ _ e => s3.cur == 0 && (s3.core 0).reads == [] && decide (entLayout e ≤ 1))
      && recOk (td (rec (entRec 0 0)) (entRec 1 0)) 64 64 (rec (entRec 1 0)) && decide (entLayout (rec (entRec 1 0)) ≤ 1)
      && entryB (td (rec (entRec 2 0 ++ entRec 3 0)) (entRec 2 0 ++ entRec 3 0)) 1 128 .write 4 (fun _ _ _ e => entLayout e == 2)
      && recOk (td [] (entRec 2 0 ++ entRec 3 0)) 128 64 (rec (entRec 2 0 ++ entRec 3 0))
      && entLayout (rec (entRec 2 0 ++ entRec 3 0)) == 2 && entLayout ((rec (entRec 2 0 ++ entRec 3 0)).drop 64) == 3) = true := by decide
theorem wit_TensorTable_scale :
    (let s := td (rec (entRec 0 1)) []
     entryB s 1 64 .write 0 (fun s2 pa _ e => entValid e && entSmode e == 1 && decide (1 < scales e) && field e 0x28 8 == 0x30300
       && (match translate s2 0 s.me.ctx s.me.sup 0x30301 .write with
         | (s3, .ok (spa, _)) => ends (charge [stackOf spa, stackOf pa]) s3 (fun _ u => ends (releaseSteps .device) u (fun _ s4 => s4.cur == 0))
         | _ => false))) = true := by decide

/-- A card of a wrapped key for slot 1023 under register 15, and one for slot 1024. -/
def keyCard (k : Nat) : List (Nat × Nat) := [(2, k), (1, 15), (5, 0), (72, 3), (48, 0)]
theorem wit_SystemActs :
    Ready (withRec (keyCard 1023)) g ∧ Quiet sl ∧ NoPeers sl .device ∧ (withRec (keyCard 1023)).me.status.getLsbD 0 = true ∧ ((withRec (keyCard 1023)).me.rh 0).pending = false
      ∧ sl.me.prog = 0
      ∧ (∀ k ∈ [1, 1023, 1024, 0], let d := rec (keyCard k)
          recOk (withRec (keyCard k)) 128 64 d = true ∧ ((d.drop 3).take 5).all (· == 0) = true ∧ ((d.drop 0x50).take 48).all (· == 0) = true
            ∧ field d 2 1 = 15 ∧ field d 0 2 = k)
      ∧ ({ zj with aux0 := 1023 } : OpJ).aux0.toNat < 1024 ∧ ({ zj with aux0 := 1023 } : OpJ).aux0.toNat ≠ 0 ∧ (255 : Word).toNat < 256 ∧ 256 ≤ (256 : Word).toNat :=
  ⟨⟨by decide, by decide⟩, quiet_of (by decide), fun _ => by decide, by decide⟩
/-- Windows: the largest and one beyond it, another context's window met by a user, a stack whose other windows leave no room. -/
theorem wit_SystemActs_windows :
    let s := State.reset.modStack 1 (fun k => { k with pins := [(2, { st := 1, fade := 255, ctx := 3, start := 0, ngran := 1000 })] })
    let w := fun (st k start : Nat) => st * 2 ^ 24 + k * 2 ^ 20 + start
    ¬ (1536 = 0 ∨ 1536 < 1536 ∨ 2 ^ 20 < 2 ^ 20 - 1536 + 1536) ∧ 1536 < 1537 ∧ 2 ^ 20 < 2 ^ 20 - 1536 + 1537
      ∧ w 1 2 0 / 2 ^ 24 % 8 = 1 ∧ w 1 2 0 / 2 ^ 20 % 16 = 2 ∧ s.me.status.getLsbD 0 = false ∧ (pinAt s 1 2).st ≠ 0 ∧ (pinAt s 1 2).ctx ≠ s.me.ctx
      ∧ (pinAt s 1 3).st = 0 ∧ ((s.stack 1).pins.filter (fun e => e.1 != 3 && e.2.st == 1)).map (·.2.ngran) = [1000] ∧ 1536 < 1000 + 537
      ∧ 1000 + 536 ≤ 1536 := by decide
theorem wit_SystemActs_capr : (0xFFF8 : Nat) % 8 = 0 ∧ 0xFFF8 < 0x10000 ∧ (0x10000 : Nat) % 8 = 0 ∧ (0x10001 : Nat) % 8 ≠ 0
    ∧ (sm (fun t => t.wg 5 0xFFF8)).me.rg 5 + (0 : BitVec 32).signExtend 64 = 0xFFF8 := by decide

/-- The management complex at a stage and a step of its loader. -/
def mg (stage step : Nat) : State := { State.reset with mgmt := { stage := stage, slot := 1, step := step, fsv := 1, loaderSv := 3, keks := [(1, some 5)] } }
/-- A boot image of 8 bytes with security version 3. The part's fused key is its own (Config.fusedKey), so whether a signature verifies under
it is a hypothesis. -/
def img : List Byte := natToBytes 4 0x424C445A ++ natToBytes 4 1 ++ natToBytes 4 3 ++ natToBytes 4 8 ++ natToBytes 8 7
theorem wit_BootAndAttestation_image
    (h : slhVerify slh256s Config.fusedKey (img.take (16 + field img 12 4)) ((img.drop (16 + field img 12 4)).take 29792) = true) :
    ImageOk img 16747408 1 ∧ ImageOk img 67108864 3 ∧ field img 12 4 ≤ 24 ∧ 7 < field img 12 4 ∧ ¬ 4 ≤ field img 8 4 ∧ imageCode (img, 8) 4 2 := by
  refine ⟨⟨by decide, by decide, h, by decide⟩, ⟨by decide, by decide, h, by decide⟩, by decide, by decide, by decide, ?_⟩
  have a : field img 0 4 = 0x424C445A := by decide
  have b : ¬ most 8 < field img 12 4 := by decide
  simp only [imageCode, a, b, h]
  decide
/-- Images that fail: of no magic number, and too long for their range. -/
theorem wit_BootAndAttestation_bad : imageCode ([], 0) 0 5 ∧ imageCode (img, 4) 0 6 ∧ ¬ ImageOk [] 16747408 0 := by
  refine ⟨by simp only [imageCode]; rw [if_pos (by decide)]; trivial, ?_, fun h => absurd h.1 (by decide)⟩
  have a : field img 0 4 = 0x424C445A := by decide
  have b : most 4 < field img 12 4 := by decide
  simp [imageCode, a, b]
theorem wit_BootAndAttestation :
    (mg 15 0).mgmt.stage = 15 ∧ (mg 1 0).mgmt.slot ≠ 0 ∧ (mg 1 0).mgmt.stage ≤ 1 ∧ (mg 1 0).mgmt.retryAt = none
      ∧ (mg 1 0).mgmt.stepAt + 60 * 2250000000 ≤ ({ mg 1 0 with clock := 60 * 2250000000 } : State).clock ∧ (mg 2 2).mgmt.stage = 2
      ∧ (mg 2 2).mgmt.step = 2 ∧ (mg 2 1).mgmt.step < 2 ∧ ¬ (mg 2 3).mgmt.step < 3 ∧ (mg 4 3).mgmt.stage = 4 ∧ (mg 4 3).mgmt.fsv ≤ 3
      ∧ 3 ≤ min 64 (mg 4 3).mgmt.loaderSv ∧ min 64 (mg 4 3).mgmt.loaderSv < 4 ∧ (mg 4 3).mgmt.signing.any (·.1) = false ∧ (1 : Word).getLsbD 0 = true
      ∧ twf {} (mg 2 3).ctxs = true := by decide
/-- Slots in every state; a key operation of each kind; a wrapped key that unwraps. -/
theorem wit_KeysAndSensors (w : BitVec 576) (d : BitVec 512) (hw : kwUnwrap 5 w = some d) (hd : d.extractLsb' 0 256 ≠ d.extractLsb' 256 256) :
    let s := { mg 4 3 with mgmt := { (mg 4 3).mgmt with slots := [(1, { st := .loaded }), (2, { st := .killing, step := 1 }), (3, { st := .killing, step := 4, waits := [(aRef, 0)] })],
                                                         keyOps := [{ load := true, slot := 1, kek := 1, wrapped := w, ref := some aRef }] } }
    (∃ kek, tget none s.mgmt.keks 1 = some kek ∧ kwUnwrap kek w = some d ∧ d.extractLsb' 0 256 ≠ d.extractLsb' 256 256)
      ∧ (slotOf' s 1).st = .loaded ∧ (slotOf' s 1023).st = .empty ∧ (slotOf' s 2).st = .killing ∧ (slotOf' s 2).step = 1 ∧ 4 ≤ (slotOf' s 3).step
      ∧ s.mgmt.stage = 4 ∧ s.mgmt.keyOps.length = 1 ∧ (¬ ∃ d, ∃ kek, tget none s.mgmt.keks 2 = some kek ∧ kwUnwrap kek w = some d)
      ∧ (s.modMe (fun t => t.wh 3 (.job aRef))).me.rh 3 = .job aRef ∧ (mg 4 3).mgmt.keyOps = [] := by
  refine ⟨⟨5, rfl, hw, hd⟩, rfl, rfl, rfl, rfl, Nat.le_refl 4, rfl, rfl, ?_, rfl, rfl⟩
  rintro ⟨_, _, h, _⟩
  simp [tget, mg] at h
/-- The second step of a destruction, with nothing under the key on its way. -/
theorem wit_KeysAndSensors_step : let s := { mg 4 3 with mgmt := { (mg 4 3).mgmt with slots := [(2, { st := .killing, step := 2 })] } }
    (slotOf' s 2).step = 2 ∧ keyAwaited (settleKey s 2) 2 = false ∧ ((1568 : Nat) = (List.replicate 1568 (0 : Byte)).length) := by
  refine ⟨by decide, by decide, by simp⟩
/-- A sensor that is due and one that is not; the hour's first ten seconds. -/
theorem wit_KeysAndSensors_times : (tget ({} : Sensor) (mg 4 3).mgmt.sensors 0).at_ = none ∧ twf {} (mg 4 3).mgmt.sensors = true
    ∧ ¬ (0 + 2 ^ 20 ≤ (mg 4 3).clock) ∧ (mg 4 3).clock % (3600 * 2250000000) < 10 * 2250000000 ∧ (mg 4 3).mgmt.wearHour = none
    ∧ (840#16).toInt = 840 ∧ (919#16).toInt < 920 ∧ (920#16).toInt = 920 ∧ (12 : Nat) ≤ 12 ∧ (12 : Nat) < 13
    ∧ (BitVec.ofInt 16 (-1)).toInt < 840 := by decide

/-- A context with tables at 0x10000, 0x20000 and 0x40000 that map virtual address 0x30000 to 0x50000; the host's window 2 shows it. -/
def hw : State :=
  let s := { State.reset with mgmt := { State.reset.mgmt with slots := [(0, { st := .loaded })], stage := 4 } }
  let put := fun (s : State) (pa x : Nat) => homeWrite s pa ((natToBytes 8 x).map some) 0 0 0 true
  let s := put (put (put s 0x10000 (0x20000 + 1)) 0x20000 (0x40000 + 1)) 0x40018 (0x50000 + 1 + 2 ^ 47)
  let s := s.modCtx 0 (fun c => { c with ctl := 0x400003F01, ptroot := 0x10000 })
  { s with host := { winCtl := 0x8000000000000000 } }
theorem wit_HostAccesses_memory :
    (decide (hw.host.queue = [] ∧ 0x30000 + 8 ≤ 2 ^ hw.host.barLog) && windowAt hw 0x30000 == 0x30000
      && (match hostTranslate hw (windowAt hw 0x30000) false with
        | (s1, some (pa, pg)) => pa == 0x50000 && (match homeRead s1 pa 8 pg.ctx pg.key pg.cls with | (_, some _) => true | _ => false)
        | _ => false)
      && (match hostTranslate hw (windowAt hw 0x40000) false with | (_, none) => true | _ => false)
      && (match hostTranslate hw (windowAt hw 0x30000) true with
        | (s1, some (pa, pg)) => (hostCharge s1 pg.ctx (stackOf pa) 1).2
            && !(hostCharge { s1 with windowAt := some 0 } pg.ctx (stackOf pa) 1).2
        | _ => false)) = true := by decide
theorem wit_HostAccesses_registers :
    (1 ∈ [1, 2, 4, 8] ∧ 0x101 % 1 = 0) ∧ (8 ∈ [1, 2, 4, 8] ∧ 0x1FFFF8 % 8 = 0) ∧ ¬ (16 ∈ [1, 2, 4, 8] ∧ 0x100 % 16 = 0) ∧ ¬ (8 ∈ [1, 2, 4, 8] ∧ 0x104 % 8 = 0)
      ∧ (0xFF003 < 0x100000 ∧ 0xFF003 % 0x1000 < 0x100 ∧ 0xFF003 % 0x1000 + 0xFD ≤ 0x100) ∧ ¬ (0xF9 % 0x1000 + 8 ≤ 0x100)
      ∧ (∀ off ∈ [0x100, 0xFF108, 0x101000, 0x1FF030, 0x200000, 0x200008, 0x300000], (hostValue hw 0 off).isSome = true)
      ∧ (∀ off ∈ [0x100, 0x200, 0x440, 0x3000], (hostValue hw 4 off).isSome = true) ∧ (hw.ctx 0).ctl.getLsbD 0 = true ∧ (hw.ctx 255).ctl.getLsbD 0 = false
      ∧ nodeKept hs 5 = true ∧ ctxOf 5 = 0 ∧ (hs.node 5).st = .waiting ∧ (0 : Word).getLsbD 0 = false := by decide
/-- Intake of a whole record and its seal, of an incomplete one, and outside stage 4; the bounds of the window's size. -/
theorem wit_HostAccesses_intake :
    let sealed := natToBytes 8 (0x5EA1 * 2 ^ 48)
    let s := { hw with host := { hw.host with windows := [(0, { area := mwrite 0 [] 0 ((rec launchRec).take 0xF8), marks := 0x7FFFFFFF })] } }
    let bs := mread 0 (mwrite 0 (tget {} s.host.windows 0).area 0xF8 sealed) 0 256
    let marks := (tget {} s.host.windows 0).marks ||| granules 0xF8 8
    0xF8 - 8 + sealed.length ≤ 0xF8 ∧ sealed.length = 8 ∧ s.mgmt.stage = 4 ∧ poolCode s 0 bs (marks &&& 0x7FFFFFFF == 0x7FFFFFFF) true = 0
      ∧ poolCode s 0 bs ((granules 0xF8 8) &&& 0x7FFFFFFF == 0x7FFFFFFF) true = 1 ∧ State.reset.mgmt.stage ≠ 4
      ∧ 30 ≤ 39 ∧ 29 < 30 ∧ 39 < 40 := by decide
/-- A stack whose window is due and one whose is not; grants below and at their bound, asked for and not. -/
theorem wit_HostAccesses_budgets :
    let s := { hw with windowAt := some 0, clock := 200000 }
    let a := s.modStack 1 (fun k => { k with window := 2, remain := [(0, 300)] })
    let b := a.modCore 3 (fun c => { c with grants := [(1, 127)], asked := [(0, 1)] })
    windowDue s 1 = true ∧ windowDue a 1 = false ∧ twf {} s.ctxs = true ∧ budgetsRun s = true ∧ tget 0 (b.core 3).grants 1 < 128
      ∧ (0, 1) ∈ (b.core 3).asked ∧ (0, 1) ∉ (a.core 3).asked ∧ (0, 1) ∉ a.host.asked
      ∧ (0, 1) ∈ ({ a with host := { a.host with asked := [(0, 1)] } } : State).host.asked := by decide

/-- Port 2 in a state, with what is queued on it; the module has an id and a route. -/
def np (x : Port) : State := { hw with ports := [(2, x)], mgmt := { hw.mgmt with devId := some 5, routes := [(0, 0x24000000000)] } }
def aFlit : Flit := { plainFlit 1 with seq := 0, dst := 5 }
theorem wit_LinkLayer_training :
    (np { st := 2, en := true }).mgmt.devId ≠ none ∧ ((np { st := 2, en := true }).port 2).st = 2 ∧ ((np { st := 1, en := true }).port 2).st = 1
      ∧ (np { st := 3 }).ports = [(2, { st := 3 })] ∧ ((np {}).port 2).st = 0 ∧ State.reset.mgmt.devId = none
      ∧ (0xFF#8 = 0xFF) ∧ (0x1F#8 ≠ 0xFF ∧ 0x1F#8 &&& 0xF = 0xF) ∧ (0xF7#8 &&& 0xF ≠ 0xF ∧ 0xF7#8 &&& 0xF0 = 0xF0) ∧ (0x77#8 &&& 0xF ≠ 0xF ∧ 0x77#8 &&& 0xF0 ≠ 0xF0) := by decide
theorem wit_LinkLayer_sending :
    let up := fun (x : Port) => ((np { x with st := 2 }).port 2)
    let c3 : Port := { tx := [(3, [aFlit])], credits := [(3, 1)] }
    (up { needReplay := true }).needReplay = true ∧ (up { resend := [aFlit] }).resend = aFlit :: [] ∧ (up {}).resend = [] ∧ (up {}).replay.length < 1024
      ∧ 1024 ≤ (List.replicate 1024 aFlit).length ∧ tget [] (up { tx := [(0, [aFlit])], credits := [(0, 1)] }).tx 0 ≠ []
      ∧ 0 < tget 0 (up { tx := [(0, [aFlit])], credits := [(0, 1)] }).credits 0 ∧ hw.mgmt.weights = [4, 3, 1]
      ∧ tget [] (up c3).tx 3 ≠ [] ∧ 0 < tget 0 (up c3).credits 3 ∧ [1, 1, 1, 1, 2, 2, 2, 3].getD ((0 + 7) % 8) 1 = 3
      ∧ (∀ k < 7, tget [] (up c3).tx ([1, 1, 1, 1, 2, 2, 2, 3].getD ((0 + k) % 8) 1) = []) := by decide
theorem wit_LinkLayer_receiving :
    let s := np { st := 3 }
    InOrder s 2 aFlit ∧ ({ aFlit with seq := 1 } : Flit).seq ≠ (s.port 2).rxLast + 1 ∧ aFlit.dst = s.devId ∧ ({ aFlit with dst := 6 } : Flit).dst ≠ s.devId
      ∧ aFlit.op = 0 ∧ 10 < ({ aFlit with op := 11 } : Flit).op.toNat ∧ 1 ≤ ({ aFlit with op := 10 } : Flit).op.toNat
      ∧ ({ aFlit with kind := 2 } : Flit).kind = 2 :=
  ⟨⟨by decide, by decide, by decide⟩, by decide⟩
/-- A CRC that is not the flit's. -/
theorem wit_LinkLayer_crc (f : Flit) : ∃ c, c ≠ flitCrc f := ⟨~~~ flitCrc f, by
  generalize flitCrc f = x
  intro h
  have h0 := congrArg (fun v : BitVec 64 => v.getLsbD 0) h
  simp at h0⟩

/-- A put of 8 bytes to device memory, a get of them, an atomic; the page is found by the walk. -/
def pf (op : BitVec 6) (aux : BitVec 64) : Flit := { aFlit with op := op, aux := aux, addr := 0x30000, src := 7, last := true }
def pn : State := np { st := 3 }
def pr : State := received pn 2 (pf 1 0)
theorem wit_PeerOperations_go : InOrder pn 2 (pf 1 0) ∧ (pf 1 0).dst = pn.devId ∧ (pn.ctx 0).ctl.getLsbD 0 = true ∧ (State.reset.ctx 0).ctl.getLsbD 0 = false :=
  ⟨⟨Or.inr (by decide), by decide, by decide⟩, by decide, by decide, by decide⟩
theorem wit_PeerOperations_memory :
    wordPieces 0x30000 8 = [(0x30000, 8)]
      ∧ (match (jTranslate { q := 0, ctx := 0, sup := false } 0x30000 .write).run pr with | (.ok (pa, _), _) => pa == 0x50000 | _ => false) = true
      ∧ (match (jReadHome { q := 0, ctx := 0, sup := false } 0x30000 8).run pr with | (.ok b, _) => b.length == 8 | _ => false) = true
      ∧ (routeTo pr 7).isSome = true ∧ Ty.ofCode ((pf 5 0x20000000000).aux.toNat / 2 ^ 40 % 2 ^ 8) = some .i32 ∧ aopSize 0 .i32 = 4 ∧ 0x30000 % 4 = 0 := by decide +kernel
/-- A started get of a peer, a sender that has been refused, and each cause of a refusal. -/
theorem wit_PeerOperations_answers :
    let e : GpEntry := { id := 4, th := 0, ctx := 0, node := 0, put := false, tile := none, loc := 0, far := 0, dev := 7, fq := 0, len := 8, lcc := 0, linc := 1,
                         fen := false, fcc := 0, finc := 0, keep := false, kind := 1, bulk := false, launch := 0, st := .started }
    let s := (np { st := 3 }).modCore 0 (fun c => { c with gp := [e] })
    let r := received s 2 { aFlit with op := 3, aux := 4 }
    (r.core 0).gp.find? (fun x => x.id == 4) = some e ∧ e.kind = 1 ∧ e.put = false ∧ e.st = .started
      ∧ (r.core 0).gp.find? (fun x => x.id == 5) = none ∧ (s.port 2).refused = [] ∧ 9 ∉ [1, 2, 4, 5] ∧ 257 % 256 = 1 := by decide

/-- An entry of the get/put queue that moves 8 bytes at `far`. -/
def ge : GpEntry :=
  { id := 2, th := 0, ctx := 0, node := 0, put := true, tile := none, loc := 0xFF00000000000000, far := 0x30000, dev := 0, fq := 0, len := 8, lcc := 1,
    linc := 1, fen := true, fcc := 2, finc := 1, keep := false, kind := 0, bulk := false, launch := 0 }
def gs (e : GpEntry) : State := np { st := 3 } |>.modCore 0 (fun c => { c with gp := [{ e with id := 0, st := .started, launch := 0 }, e] })
theorem wit_due (s : State) (q : Nat) : Due s q 0 := Nat.zero_le _
theorem wit_TransferEntries_runs :
    ((gs ge).core 0).gp.find? (fun x => x.id == 2) = some ge ∧ ((gs ge).core 0).gp.find? (fun x => x.id == 3) = none ∧ Runs (gs ge) 0 2 ge
      ∧ Runs (gs { ge with st := .started, fault := some 5 }) 0 2 { ge with st := .started, fault := some 5 } ∧ ge.fault = none ∧ ge.park = none
      ∧ ¬ Runs (gs { ge with st := .moved }) 0 2 { ge with st := .moved } :=
  ⟨by decide, by decide, Or.inl ⟨rfl, wit_due _ _, fun x h => Or.inl (by
      have : ∀ x ∈ ((gs ge).core 0).gp.takeWhile (fun x => x.id != 2), x.st ≠ .placed := by decide
      exact this x h)⟩, Or.inr ⟨rfl, by decide⟩, rfl, rfl, fun h => by
      rcases h with ⟨h, _⟩ | ⟨h, _⟩ <;> exact absurd h (by decide)⟩
/-- A put and a get whose piece moves, and one that stops at an unmapped page. -/
theorem wit_TransferEntries_device :
    (wordPieces (ge.far + ge.prog) (ge.len - ge.prog) = [(0x30000, 8)])
      ∧ (match (jWrite { q := 0, ctx := 0, sup := false } 0x30000 (List.replicate 8 0)).run (gs ge) with | (.ok _, _) => true | _ => false) = true
      ∧ (match (jRead { q := 0, ctx := 0, sup := false } 0x30000 8).run (gs ge) with | (.ok _, _) => true | _ => false) = true
      ∧ (match (jRead { q := 0, ctx := 0, sup := false } 0x60000 8).run (gs ge) with | (.error (.park a _ _ _), _) => a == 0x60000 | _ => false) = true := by decide +kernel
theorem wit_TransferEntries_queue :
    let on := fun (n : BitVec 32) => State.reset.modDie 0 (fun d => { d with fqcfg := 0x8000000000000000, fqTail := n })
    QueueOn (on 63) 0 ∧ QueueRoom (on 63) 0 ∧ QueueOn (on 64) 0 ∧ ¬ QueueRoom (on 64) 0 ∧ ¬ QueueOn State.reset 0 := by
  unfold QueueOn QueueRoom
  decide
/-- Entries to a peer with and without a route, to another core's Loft within and beyond its scratch portion; each stage of completion. -/
theorem wit_TransferEntries_others :
    ((gs ge).core 0).cur.peers.length < 64 ∧ (routeTo (gs ge) 7).isSome = true ∧ (routeTo (gs ge) 40).isSome = false ∧ (gs ge).choices = []
      ∧ 0x7FFF8 + 8 ≤ scratch (gs ge) 3 ∧ loftAllowed (gs ge) 3 0 true 0x7FFF8 8 = true ∧ scratch (gs ge) 3 < 0x7FFFC + 8
      ∧ ({ ge with st := .moved, kind := 2 } : GpEntry).fen = true ∧ ({ ge with st := .bump, kind := 2 } : GpEntry).st = .bump
      ∧ ({ ge with launch := 0xFFFFFFFFFFFFFFFF } : GpEntry).launch ≠ 0 ∧ 63 < 64 ∧ 64 ≤ 64 ∧ 67 - 64 = 3 := by decide
theorem wit_TransferEntries_commands :
    let j : Job := { aJob with unit := 1, kind := .copy, park := some { va := 0, cause := 8, info := 0, write := false, token := some 9 } }
    let s := State.reset.modClus 33 (fun c => { c with jobs := [j] })
    33 / 32 = 1 ∧ j ∈ (s.clus 33).jobs ∧ j.park.isSome = true ∧ (s.clus 33).jobs = [j] ∧ (∀ k, k < 32 → 32 + k ≠ 33 → (s.clus (32 + k)).jobs = [])
      ∧ (∀ k, k < 32 → (State.reset.clus (32 + k)).jobs = []) ∧ j.result = none ∧ j.tileD = none := by decide

/-- A full list of peers; a moved put whose flit waits at a port, and one whose flits are gone; a recorded fault and one behind an earlier. -/
theorem wit_TransferEntries_more :
    let e : GpEntry := { ge with kind := 1, st := .moved }
    let f := (gs e).modPort 2 (fun x => { x with tx := [(2, [{ aFlit with op := 1, aux := 2 }])] })
    let full := (gs ge).modCore 0 (fun c => { c with cur := { c.cur with peers := List.range 64 } })
    let pk : Park := { va := 0, cause := 8, info := 0, write := false, ord := 5 }
    flitsOut f 0 2 = true ∧ flitsOut (gs e) 0 2 = false ∧ ((gs e).core 0).gp.find? (fun x => x.id == 2) = some e ∧ e.fault = none
      ∧ 64 ≤ (full.core 0).cur.peers.length ∧ (full.core 0).relWait = [] ∧ 70 ∉ (full.core 0).cur.peers
      ∧ ((full.modCore 0 (fun c => { c with relWait := [(7, 0, 1)] })).core 0).relWait ≠ []
      ∧ recordWaits (gs { ge with park := some { pk with ord := 3 } }) 0 5 = true ∧ recordWaits (gs ge) 0 5 = false := by decide
/-- Two beats of one packet under way to thread 0, a whole packet of one beat at its core, a ring with room for it and one without. -/
def aBeat : Beat := { src := 0x100000000, dst := 0, data := 0, nf := false, peer := false, first := true, last := false }
def aPkt : Packet := { src := 0x100000000, dst := 0, beats := [0], nf := false, peer := false, ended := true, held := true }
def ar (size tail : Word) : State :=
  ({ sl with beats := [aBeat, aBeat] }.modCore 0 (fun c => { c with asm := [aPkt, { aPkt with src := 5, held := false, ended := false }] })).modMe
    (fun t => { t with st := .running, rxsize := size, rxtail := tail })
/-- A crew that is being loaded into slot 0, whose next generation is 1; a thread that stands imaged on its core. -/
theorem wit_Arrivals_loading :
    let l := { State.reset with nodes := [(1, { st := .dispatched, crew := [0] })] }
    let i := { ar 1024 0 with nodes := [(0, { preempted := true, imaged := [0] })] }
    loading l 0x200000000 = true ∧ mailbox l 0x200000000 = none ∧ (i.node i.me.node).preempted = true ∧ 0 ∈ (i.node i.me.node).imaged := by decide

theorem wit_Arrivals_packets :
    (ar 1024 0).beats[0]? = some aBeat ∧ (ar 1024 0).beats[2]? = none ∧ (ar 1024 0).beats[1]? = some aBeat ∧ (∃ y ∈ (ar 1024 0).beats.take 1, y.src = aBeat.src)
      ∧ genLive (ar 1024 0) 0 = true ∧ (∀ k ∈ ((ar 1024 0).core 0).asm, k.src = aBeat.src → k.dead = false)
      ∧ ((ar 1024 0).core 0).asm[0]? = some aPkt ∧ aPkt.ended = true ∧ (ar 1024 0).me.st ∈ [ThState.running, .stopping, .stopped]
      ∧ (ar 1024 0).me.gen = aPkt.dst.extractLsb' 33 16 ∧ 64 * (1 + aPkt.beats.length) ≤ 1024 - 896 ∧ ¬ 64 * (1 + aPkt.beats.length) ≤ 1024 - 960
      ∧ (ar 0 0).me.rxsize.toNat % 2 ^ 20 = 0 ∧ ((ar 1024 0).core 0).asm[1]?.map (·.held) = some false ∧ ((ar 1024 0).core 0).asm[2]? = none
      ∧ genLive State.reset 0x200000000 = false := by decide
theorem wit_Arrivals_placing : PlaceNext (ar 1024 896) 0 0 aPkt ∧ InSlot (ar 1024 896) aPkt.dst 0 :=
  ⟨⟨by decide, rfl, fun x h => by simp at h⟩, by decide, by decide, by decide⟩
theorem wit_Arrivals_barriers :
    let r : BarReq := { op := 1, b := 3, count := 2 }
    let s := (sm (fun t => { t with bar := some r })).modCore 0 (fun c => { c with bars := [(3, { count := 2, arr := 1 })] })
    s.me.bar = some r ∧ r.reply = none ∧ r.op ≠ 0 ∧ (tget {} (s.core 0).bars 3).count ≠ 0 ∧ (tget {} (s.core 0).bars 3).arr + 1 = 2
      ∧ ({ r with op := 0 } : BarReq).op = 0 ∧ State.reset.me.bar = none ∧ ({ r with reply := some none } : BarReq).reply ≠ none := by decide
/-- A wire group of core 0 alone with slot 0: complete once it has arrived; with slot 1 as well it is not, and its time is up. -/
def aw (slots : Word) : State :=
  (sm (fun t => { t with wire := some { since := 0 } })).modCore 0 (fun c => { c with wiregrp := slots <<< 16, wiretmo := 1 })
theorem wit_Arrivals_wires : Complete (aw 1) 0 ∧ ¬ Complete (aw 3) 0 ∧ (aw 3).me.wire = some { since := 0 } ∧ ((aw 3).core 0).wiretmo ≠ 0
    ∧ 0 + ((aw 3).core 0).wiretmo.toNat ≤ ({ aw 3 with clock := 1 } : State).clock ∧ (aw 3).clock < 0 + ((aw 3).core 0).wiretmo.toNat := by
  refine ⟨⟨by decide, ?_⟩, ?_, by decide⟩
  · intro k hk
    obtain rfl : k = 0 := by revert hk; exact (by decide : ∀ k ∈ groupCores (aw 1) 0, k = 0) k
    refine ⟨rfl, by decide, ?_⟩
    intro j hj h1
    obtain rfl : j = 0 := by
      revert hj h1; exact (by decide : ∀ j, j < 4 → ((aw 1).core 0).wiregrp.toNat / 2 ^ 16 % 16 / 2 ^ j % 2 = 1 → j = 0) j
    exact ⟨{ since := 0 }, by decide, rfl⟩
  · intro h
    obtain ⟨w, hw, _⟩ := ((h.2 0 (by decide)).2).2 1 (by decide) (by decide)
    exact absurd hw (by rw [show ((aw 3).th (0 * 4 + 1)).wire = none from by decide]; simp)
theorem wit_Arrivals_rest :
    ((State.reset.modClus 0 (fun c => { c with sfu := [(0, 31, 5)] })).clus 0).sfu = (0, 31, 5) :: [] ∧ 31 < 32 ∧ (State.reset.clus 0).sfu = []
      ∧ (sm (fun t => { t with clkWait := some 0 })).me.clkWait = some 0 ∧ (sm (fun t => { t with clkWait := some 3 })).me.clkWait = some 3
      ∧ State.reset.me.slot = .plain ∧ (∀ k, k < 4 → (State.reset.th k).st ∉ [ThState.running, .stopping, .stopped]) ∧ State.reset.nodes = []
      ∧ (State.reset.core 0).l1 = [] ∧ ((sm (fun t => { t with st := .running })).th 0).st = .running := by decide
theorem wit_Arrivals_clock : (State.reset.dieClock 0).toNat < (3 : Word).toNat ∧ (0 : Word).toNat ≤ (State.reset.dieClock 0).toNat :=
  ⟨clk_reset _ (by decide), Nat.zero_le _⟩

/-- Nodes in each state: 1 waits for nothing, 2 for a faulted node, 4 for node 1, 5 is ready, 6 dispatched, 7 running with all threads gone, 8 done. -/
def nst : State :=
  { sm (fun t => { t with st := .running, node := 7, regroup := some 0, yieldTo := some 10 }) with
    clock := 6000, dispatch := true
    nodes := [(1, {}), (2, { lrec := { pred := [3] } }), (3, { st := .faulted }), (4, { lrec := { pred := [1] } }), (5, { st := .ready }),
      (6, { st := .dispatched, crew := [4], place := [{ q := 1, slots := [0], base := 0, size := 0 }] }), (7, { st := .running, crew := [0], gone := [0] }),
      (8, { st := .done, owed := true })] }
theorem notWaits {s : State} {id : Nat} (h1 : ∀ e ∈ s.nodes, e.2.st = .waiting → id ∉ e.2.lrec.pred) (h2 : ∀ e ∈ s.threads, e.2.waitOn ≠ some id)
    (h3 : ∀ e ∈ s.nodes, e.2.kept = []) : ∀ w, ¬ WaitsFor s id w := by
  rintro w (⟨n, h, h4, h5⟩ | ⟨e, he, -, h4, -⟩ | ⟨n, h, k, hk, -⟩)
  · exact h1 _ h h4 h5
  · exact h2 _ he h4
  · rw [h3 _ h] at hk
    simp at hk
theorem wit_NodeStates_ready :
    (Known nst 1 ∧ Known nst 2 ∧ Known nst 4 ∧ Known nst 5 ∧ ¬ Known nst 9) ∧ (nst.node 2).st = .waiting ∧ (nst.node 2).lrec.contfail = false
      ∧ (∃ p ∈ (nst.node 2).lrec.pred, PredBad nst p) ∧ (nst.node 1).st = .waiting ∧ (∀ p ∈ (nst.node 1).lrec.pred, PredDone nst p)
      ∧ (¬ ∃ p ∈ (nst.node 4).lrec.pred, PredBad nst p) ∧ (¬ ∀ p ∈ (nst.node 4).lrec.pred, PredDone nst p) ∧ ¬ Over (nst.node 5) ∧ Over (nst.node 8)
      ∧ (nst.node 8).owed = true ∧ (nst.node 8).spawned = false := by
  unfold PredBad PredDone Known Over Old
  decide
theorem wit_NodeStates_priority : (∀ w, ¬ WaitsFor nst 5 w) ∧ WaitsFor nst 1 4 ∧ ∀ w v, WaitsFor nst 1 w → ¬ WaitsFor nst w v := by
  refine ⟨notWaits (by decide) (by decide) (by decide), Or.inl ⟨nst.node 4, by decide, by decide, by decide⟩, ?_⟩
  rintro w v (⟨n, h, -, h4⟩ | ⟨e, he, -, h3, -⟩ | ⟨n, h, k, hk, -⟩)
  · have : ∀ e ∈ nst.nodes, 1 ∈ e.2.lrec.pred → e.1 = 4 := by decide
    obtain rfl := this _ h h4
    exact notWaits (by decide) (by decide) (by decide) v
  · exact absurd h3 ((by decide : ∀ e ∈ nst.threads, e.2.waitOn ≠ some 1) e he)
  · rw [(by decide : ∀ e ∈ nst.nodes, e.2.kept = []) _ h] at hk
    simp at hk
theorem wit_NodeStates_moves :
    (nst.node 5).st = .ready ∧ (nst.node 5).preempted = false ∧ (nst.node 5).chosen = none
      ∧ (nst.node 5).movedAt + (nst.die (nst.node 5).die).spilldly.toNat ≤ nst.clock ∧ (nst.node 5).k < 32
      ∧ ({ nst with clock := 4095 } : State).clock < (nst.node 5).movedAt + (nst.die (nst.node 5).die).spilldly.toNat := by decide
theorem wit_NodeStates_starts :
    (nst.node 6).st = .dispatched ∧ (nst.node 6).preempted = false ∧ (nst.node 6).crew.Nodup ∧ (∀ th ∈ (nst.node 6).crew, (nst.th th).st ≠ .stopped ∧ NoWrites nst th)
      ∧ Vacant nst 6
      ∧ (nst.node 6).crew[0]? = some 4 ∧ (nst.node 6).place.find? (fun x => x.q == 4 / 4) = some { q := 1, slots := [0], base := 0, size := 0 } := by
  refine ⟨by decide, by decide, by decide, by unfold NoWrites; decide, ?_, by decide⟩
  intro sh _ e he _ _ hp
  exact absurd hp ((by decide : ∀ e ∈ nst.nodes, e.2.preempted ≠ true) e he)
/-- Another crew's image is still to be written where node 6 is to start. -/
theorem wit_NodeStates_vacant :
    let n6 : Node := { st := .dispatched, crew := [4], place := [{ q := 1, slots := [0], base := 0, size := 64 }] }
    ¬ Vacant { nst with nodes := [(5, { st := .ready, preempted := true, spill := [1], place := n6.place }), (6, n6)] } 6 := by
  intro n6 h
  have := h { q := 1, slots := [0], base := 0, size := 64 } (by decide) (5, { st := .ready, preempted := true, spill := [1], place := n6.place }) (by decide)
    (by decide) rfl rfl (by decide) (by decide) _ (List.mem_singleton.mpr rfl) rfl (by decide) (by decide)
  exact absurd this (by decide)
theorem wit_NodeStates_ends :
    (nst.node 7).st = .running ∧ (∀ r, r < (nst.node 7).crew.length → r ∈ (nst.node 7).gone)
      ∧ ((∀ e ∈ nst.clusters, ∀ j ∈ e.2.jobs, j.node ≠ 7) ∧ (∀ e ∈ nst.cores, ∀ g ∈ e.2.gp, g.node ≠ 7)
        ∧ (∀ e ∈ nst.dies, ∀ w ∈ e.2.walks, w.node ≠ 7) ∧ (∀ k ∈ nst.mgmt.keyOps, k.ref ≠ none → k.node ≠ 7)
        ∧ ∀ e ∈ nst.mgmt.slots, ∀ w ∈ e.2.waits, w.2 ≠ 7)
      ∧ (∀ th ∈ (nst.node 7).crew, (nst.th th).node = 7 → NoWrites nst th) := by
  unfold NoWrites
  decide
theorem wit_NodeStates_timers :
    nst.me.regroup = some 0 ∧ nst.me.st = .running ∧ 0 + 512 ≤ nst.clock ∧ nst.me.slot = .plain ∧ State.reset.me.regroup = none ∧ State.reset.me.yieldTo = none
      ∧ ({ nst with clock := 511 } : State).clock < 0 + 512 ∧ 10 ≤ nst.clock ∧ nst.zdb.held = false
      ∧ (let s := { nst with clock := 1 }.modTh 2 (fun t => { t with st := .running }); s.clock < 10 ∧ (s.th (0 * 4 + 2)).st = .running
          ∧ (s.th (0 * 4 + 2)).waits = false ∧ (s.th (0 * 4 + 2)).yieldTo = none) := by decide

/-- One ready node on die 0: of one thread, and of more Loft than a core has. -/
def rdy (loft : Nat) : State := { State.reset with dispatch := true, nodes := [(5, { st := .ready, lrec := { loft := loft } })], dies := [(0, { gap := 64 })] }
theorem wit_Dispatching_alone :
    Known (rdy 0) 5 ∧ ((rdy 0).node 5).st = .ready ∧ ((rdy 0).node 5).die = 0 ∧ ((rdy 0).node 5).preempted = false ∧ ((rdy 0).node 5).chosen = none
      ∧ (rdy 0).zdb.held = false ∧ (∀ e ∈ (rdy 0).nodes, e.2.st = .ready → e.1 = 5) ∧ (rdy 0).nodes.Pairwise (fun a b => a.1 < b.1) ∧ (rdy 0).dispatch = true
      ∧ instances ((rdy 0).node 5) = [0] ∧ 64 ≤ ((rdy 0).die 0).gap.toNat ∧ ({ rdy 0 with dispatch := false } : State).dispatch = false := by
  unfold Known
  decide
theorem freeSlots (loft id q k : Nat) : ¬ SlotHeld (rdy loft) id q k := by
  rintro (⟨e, he, sh, hs, -⟩ | ⟨h, -⟩)
  case inr => exact absurd h (by simp [State.th, show (rdy loft).threads = [] from rfl, tget])
  obtain rfl : e = (5, { st := .ready, lrec := { loft := loft } }) := by simpa [rdy] using he
  simp at hs
theorem wit_Dispatching_fits : TakesAll (rdy 0) 5 ((rdy 0).node 5).lrec 0 [{ q := 0, slots := [0], base := 0, size := 0 }] := by
  refine ⟨by decide, by simp, ?_, ?_⟩
  · intro sh h
    obtain rfl : sh = { q := 0, slots := [0], base := 0, size := 0 } := by simpa using h
    refine ⟨rfl, by decide, by decide, by decide, ?_, ?_, by decide, by simp⟩
    · intro k hk
      obtain rfl : k = 0 := by simpa using hk
      exact ⟨by decide, freeSlots _ _ _ _⟩
    · intro k hk i hi
      obtain rfl : k = 0 := by simpa using hk
      omega
  · intro sh h sh' h1
    obtain rfl : sh = { q := 0, slots := [0], base := 0, size := 0 } := by simpa using h
    exact absurd h1 (by simp)
theorem wit_Dispatching_fitsNot : ∀ p, ¬ TakesAll (rdy 200) 5 ((rdy 200).node 5).lrec 0 p := by
  intro p h
  cases p with
  | nil => exact absurd h.1 (by decide)
  | cons sh l =>
    obtain ⟨h1, h2⟩ := h.2.2.1 sh (by simp)
    have h3 : sh.size = 819200 := h2.2.2.2.2.2.1
    have h4 := h2.2.2.2.2.2.2
    rw [h3, if_neg (by decide)] at h4
    have h5 := h4.1.1
    have h6 : ∀ q, q < 8 → ctxBase (rdy 200) q < 819200 := by decide
    have := h6 sh.q (by omega)
    omega
/-- Threads that stop: 0 of a failing node, 4 and 5 of a victim, 8 with an open packet. -/
def stp : State :=
  let t := fun (n r : Nat) => ({ st := .stopping, node := n, rank := r } : Thread)
  { State.reset with
    threads := [(0, t 7 0), (4, t 8 0), (5, { t 8 1 with st := .stopped }), (8, { t 9 0 with pkt := some (openPkt 1) }), (12, t 10 0), (13, t 10 1)]
    nodes := [(7, { st := .running, failing := true, crew := [0] }), (8, { st := .running, victimOf := some 3, crew := [4, 5] }), (9, { st := .running, crew := [8] }),
      (10, { st := .running, crew := [12, 13] })] }
theorem wit_Dispatching_stops :
    (stp.th 0).st = .stopping ∧ (stp.node 7).failing = true ∧ (stp.th 0).pkt = none ∧ (stp.th 4).st = .stopping ∧ (stp.node 8).failing = false
      ∧ (NoWrites stp 4 ∧ (stp.th 4).wire = none ∧ (stp.th 4).pkt = none ∧ (stp.th 4).sub = false ∧ (stp.th 4).bar = none ∧ (stp.th 4).prog = 0
          ∧ (stp.th 4).pend = [] ∧ (stp.core (4 / 4)).reads = [])
      ∧ (stp.node 8).st = .running ∧ (stp.node 8).victimOf ≠ none ∧ 4 ∈ (stp.node 8).crew
      ∧ (¬ ∃ k ∈ (stp.node 8).crew, k ≠ 4 ∧ ((stp.th k).node = 8 ∧ (stp.th k).st ∈ [ThState.running, .stopping, .stopped]) ∧ (stp.th k).st ≠ .stopped)
      ∧ (∃ k ∈ (stp.node 10).crew, k ≠ 12 ∧ ((stp.th k).node = 10 ∧ (stp.th k).st ∈ [ThState.running, .stopping, .stopped]) ∧ (stp.th k).st ≠ .stopped)
      ∧ (stp.th 8).pkt ≠ none ∧ (stp.node 9).failing = false ∧ (stp.th 16).st ≠ .stopping := by
  unfold NoWrites
  decide
/-- Where a thread's next instruction stands, and the one behind it, are known without a change: they stand in its fetch buffer. -/
theorem wit_Dispatching_next : let s := (stp.withFetchWord 64 addW).modMe (fun t => { t with st := .stopping, fbuf := [(0, leBytes 32 addW)] })
    nextInstr s 0 0 false 0 = (s, 0) ∧ returnAddr s 0 0 false 0 = (s, 8) := by decide
/-- The image of a spill, as a function. -/
def imageTo (q ctx a : Nat) (bs : List Byte) : List (Nat × Nat) → State → Option State
  | [], s => some s
  | (v, m) :: l, s => match (jTranslate { q := q, ctx := ctx, sup := true } v .write).run s with
    | (.ok p, u) => imageTo q ctx a bs l (writeHome u q (piece p.1 ((bs.drop (v - a)).take m) { p.2 with key := 0 } false false))
    | _ => none
theorem imageOut_of {q ctx a : Nat} {bs : List Byte} : ∀ {l : List (Nat × Nat)} {s t : State}, imageTo q ctx a bs l s = some t → ImageOut q ctx a bs l s t
  | [], s, t, h => by simp only [imageTo, Option.some.injEq] at h; exact h.symm
  | (v, m) :: l, s, t, h => by
    simp only [imageTo] at h
    split at h
    · rename_i p u e
      exact ⟨u, p.1, p.2, e, imageOut_of h⟩
    · cases h
/-- A stopped node whose Loft is to be spilled. -/
def spl : State :=
  let n : Node := { st := .ready, preempted := true, spill := [0], place := [{ q := 0, slots := [0], base := 0, size := 64 }] }
  { hw with dispatch := true, nodes := [(5, n), (6, { n with st := .dispatched, spill := [], place := [], crew := [4] })], threads := [(4, { node := 6 })] }.modCtx 0 (fun c => { c with spillbase := 0x30000 })
theorem wit_Dispatching_spills :
    (spl.node 5).place.find? (fun x => x.q == 0) = some { q := 0, slots := [0], base := 0, size := 64 } ∧ (spl.node 5).st = .ready ∧ (spl.node 5).preempted = true
      ∧ 0 ∈ (spl.node 5).spill ∧ 0 ∉ (spl.node 5).imaged ∧ (spl.core 0).tiles = [] ∧ (∀ e ∈ spl.nodes, e.1 ≠ 5 → e.1 / 2 ^ 40 % 256 = 0 → 0 ∉ e.2.imaged)
      ∧ (∀ e ∈ spl.cores, ∀ g ∈ e.2.gp, gpTargets e.1 g 0 0 64 = false) ∧ (∀ e ∈ spl.clusters, ∀ j ∈ e.2.jobs, j.result = none → jobTargets j 0 0 64 = false)
      ∧ (imageTo 0 0 0x30000 (locRead spl 0 64) (outPieces 0x30000 64) spl).isSome = true := by decide +kernel
theorem wit_Dispatching_goesOn :
    ((spl.node 6).st = .dispatched ∧ (spl.node 6).preempted = true ∧ (spl.node 6).imaged = [] ∧ (spl.node 6).kept = [] ∧ (spl.node 6).crew.Nodup
      ∧ spl.dispatch = true ∧ (∀ k ∈ (spl.node 6).crew, (spl.th k).node = 6) ∧ (spl.node 6).crew[0]? = some 4 ∧ 0 ∉ (spl.node 6).gone
      ∧ ∀ i, i < 4 → saved spl 4 (0xAC0 + 72 * i) 1 % 2 = 0) ∧ Vacant spl 6 ∧ ∀ k ∈ (spl.node 6).crew, NoWrites spl k := by
  refine ⟨by decide +kernel, ?_, by unfold NoWrites; decide⟩
  intro sh h
  exact absurd h (by rw [show (spl.node 6).place = [] from by decide]; simp)

/-- A stack whose set of address 0 holds a frame, with a lane, a pinned window and a write of core 0 under way. -/
def aWay : Way := { pf := 0, data := 0, dirty := false, key := 0, cls := 0, poison := false, age := 3 }
def aWrite : ChuteW := { seq := 1, st := 0, pa := 0, bytes := [], ctx := 0, key := 0, cls := 0, round := 0, charged := true, limited := true }
def hom (l : List Way) : State :=
  let lane : LaneW := { pf := 1, data := 0, key := 0, cls := 0, poison := false, charged := true }
  let s := State.reset.modStack 0 (fun k => { k with
    msc := [(0, l)], lane := [lane, { lane with charged := false }], pins := [(2, { st := 1, fade := 1, start := 0, ngran := 1 })], arr := [(0, 2)]
    nmu := [{ aWrite with op := some (.amo 0 .i32 3) }] })
  ({ s with mgmt := { s.mgmt with slots := [(0, { st := .loaded })] } }.modCore 0 (fun c => { c with
    chute := [{ aWrite with st := 1 }, aWrite, { aWrite with st := 2, pa := 64, key := 5 }, { aWrite with st := 3, pa := 128, op := some (.amo 0 .i32 3) }]
    rounds := [{ sent := [(0, 2)] }] })).modDie 0 (fun d => { d with fwd := [{ pa := 0, sent := 2, done := 2 }, { pa := 1, sent := 2, done := 1 }] })
theorem wit_HomesAndChute_cache :
    HitAt (hom [aWay]) 0 0 aWay ∧ aWay.poison = false ∧ aWay.key = 0 ∧ ((hom [aWay]).stack (stackOf 0)).lookups < 2 ^ 20 ∧ Covered (hom []) (stackOf 0) (offOf 0) 2
      ∧ (∀ p, p < 2 → ¬ Covered (hom []) (stackOf 0) (offOf 0) p) ∧ Misses (hom []) 0 ∧ (waysOf (hom []) 0).length < 16
      ∧ ¬ Misses (hom [aWay]) (0 / 512 * 512) ∧ 2 ^ 20 ≤ ((hom []).modStack 0 (fun k => { k with lookups := 2 ^ 20 }) |>.stack 0).lookups := by
  refine ⟨⟨by decide, by decide, fun j v h => by omega⟩, rfl, rfl, by decide, by unfold Covered; decide, by unfold Covered; decide, by unfold Misses; decide, by decide,
    by unfold Misses; decide, by decide⟩
/-- A frame of another slot, and a POISON frame. -/
theorem wit_HomesAndChute_frames :
    0 % 512 = 0 ∧ Misses (hom []) 0 ∧ (¬ ∃ v ∈ ((hom []).stack (stackOf 0)).lane, dramKey (v.pf * 512) = dramKey (0 / 512 * 512)) ∧ 18 ≤ 18
      ∧ (dramFrame (hom []) 0).2.2 = false ∧ (dramFrame (hom []) 0).1 = 0 ∧ (dramFrame (hom []) 0).1 ≠ 7 ∧ 18 < 19
      ∧ (dramFrame ((hom []).modStack 0 (fun k => { k with frames := [(0, { poison := true })] })) 0).2.2 = true
      ∧ (∃ v ∈ ((hom []).stack (stackOf 512)).lane, dramKey (v.pf * 512) = dramKey (512 / 512 * 512)) := by
  unfold Misses
  decide
/-- Nothing awaits frame 40. -/
theorem wit_HomesAndChute_unawaited : Unawaited State.reset 40 := by
  refine ⟨?_, ?_, ?_, ?_, by decide⟩
  · exact fun e he => absurd he (by rw [show State.reset.cores = [] from rfl]; simp)
  · exact fun e he => absurd he (by rw [show State.reset.threads = [] from rfl]; simp)
  · exact fun e he => absurd he (by rw [show State.reset.hbms = [] from rfl]; simp)
  · intro d i _ _ f hf
    rw [State.die, show State.reset.dies = [] from rfl] at hf
    simp [tget] at hf
theorem wit_HomesAndChute_lane :
    ((hom []).stack 0).lane[1]? = some { pf := 1, data := 0, key := 0, cls := 0, poison := false, charged := false }
      ∧ (∃ v ∈ ((hom []).stack 0).lane, v.charged = false) ∧ (∀ v, ((hom []).stack 0).lane[0]? = some v → v.charged = true) ∧ (State.reset.stack 0).lane = [] := by decide
/-- NextWrite, decided, where nothing is chosen. -/
def nextB (s : State) (q st i : Nat) (w : ChuteW) : Bool :=
  decide ((s.core q).chute[i]? = some w ∧ w.st = st ∧ s.choices = [] ∧ (∀ v ∈ (s.core q).chute, v.st = w.st → v.seq < w.seq → v.back = true ∨ w.back = true)
    ∧ (∀ e ∈ s.cores, e.1 / 256 = q / 256 → ∀ v ∈ e.2.chute, v.seq < w.seq → ∀ p ∈ v.words, p ∉ w.words)
    ∧ ∀ v ∈ (s.core q).chute.take i, v.st ≠ st)
theorem nextWrite_of {s : State} {q st i : Nat} {w : ChuteW} (h : nextB s q st i w = true) : NextWrite s q st i w := by
  simp only [nextB, decide_eq_true_eq] at h
  refine ⟨h.1, h.2.1, ⟨h.2.2.2.1, h.2.2.2.2.1⟩, fun j v hj hv _ => ?_⟩
  by_cases e : j = i
  · exact .inl e
  by_cases g : i < j
  · exact .inr ⟨h.2.2.1, g⟩
  · exact absurd hv (h.2.2.2.2.2 v (List.mem_of_getElem? (i := j) (by rw [List.getElem?_take]; simp [show j < i by omega, hj])))
theorem wit_HomesAndChute_chute :
    NextWrite (hom []) 0 0 1 aWrite ∧ NextWrite (hom []) 0 2 2 { aWrite with st := 2, pa := 64, key := 5 } ∧ ¬ Alive (hom []) 5 3 ∧ Alive (hom []) 0 3
      ∧ NextWrite (hom []) 0 3 3 { aWrite with st := 3, pa := 128, op := some (.amo 0 .i32 3) } ∧ aWrite.op = none ∧ aWrite.ret = none
      ∧ (∀ c ∈ ((hom []).core 0).chute, c.st ≠ 7) :=
  ⟨nextWrite_of (by decide), nextWrite_of (by decide), by unfold Alive; decide, by unfold Alive; decide, nextWrite_of (by decide), rfl, rfl, by decide⟩
theorem wit_HomesAndChute_rounds :
    ((hom []).core 0).rounds = { sent := [(0, 2)] } :: [] ∧ tget 0 ((hom []).stack 0).arr (0 * 4 + 0) = tget 0 [(0, 2)] 0 ∧ 0 ∉ ([] : List Nat)
      ∧ tget 0 ((hom []).stack 1).arr (0 * 4 + 0) = tget 0 [(0, 2)] 1 ∧ 8 ≤ (List.range 8).length ∧ ([] : List Nat).length < 8 ∧ (State.reset.core 0).rounds = []
      ∧ ((hom []).die 0).fwd[0]? = some { pa := 0, sent := 2, done := 2 } ∧ (∀ f, ((hom []).die 0).fwd[1]? = some f → f.done < f.sent)
      ∧ ((hom []).stack 0).nmu = { aWrite with op := some (.amo 0 .i32 3) } :: [] ∧ (State.reset.stack 0).nmu = [] := by decide

/-- Store-buffer entries and issued reads of thread 0, and sheaves, fills, recalls and walks of die 0. -/
def aWord : SheafWord := { data := 0, mask := 0, dirty := false, owned := true, core := 1 }
def aSheaf : Sheaf := { frame := 0, s := 0, words := [aWord], key := 0, cls := 0, ms := false, phw := 0, stamp := 0, slot := 0, age := 0 }
def aPart : RdPart := { loc := false, pa := 0x50000, size := 8, dst := 0 }
def aRead : ReadReq :=
  { th := 0, seq := 8, vec := false, rd := 4, sgn := true, parts := [aPart], rq := .own, ctx := 0, key := 0, cls := 0, ms := false, fnc := true, span := 1
    lo := 0, hi := 0, gl := none }
def vRead : ReadReq := { aRead with vec := true, seq := 10, parts := [{ aPart with pa := 0x50040 }] }
def aWalk : Walk := { seq := 4, th := 0, ctx := 0, inv := true, lo := 0, hi := 31, sets := [(0, 0, 0)], pages := [(0, 31, 0)] }
/-- Entry i of the store buffer: a write to Local Memory, a later one to its word, device writes (a loaded slot, an empty one, a word of core 1),
a fence, an atomic behind it. -/
def sbs : List SbEntry :=
  let e : SbEntry := { seq := 1, loc := true, bytes := List.replicate 32 (some 1) }
  [e, { e with seq := 2 }, { e with seq := 3, loc := false, pa := 0x50000, span := 1 }, { e with seq := 4, loc := false, pa := 0x50020, key := 5 }
  , { e with seq := 5, loc := false }, { seq := 6, fence := true }, { e with seq := 7, pa := 64, op := some (.amo 0 .i32 7) }]
def aL1 : L1Word := { own := true, data := 1, mask := 1, key := 0, cls := 0, ms := false }
def die (l : List Sheaf) : State :=
  let nd : Node := { st := .running, crew := [0, 4], lrec := { levels := [⟨1, false, 0, 1⟩, ⟨2, false, 0, 0⟩] } }
  let s := { hw with nodes := [(20, nd), (21, { nd with gone := [1] })], phases := [(phaseKey 20 0 0, { arrived := [0] }), (phaseKey 21 0 0, { arrived := [0] })] }
  ((s.modTh 0 (fun t => { t with sb := sbs, seqNo := 10 })).modCore 0 (fun c =>
    { c with reads := [aRead, { aRead with seq := 9 }, vRead] })).modCore 1 (fun c => { c with l1 := [(0, aL1)] }) |>.modDie 0 (fun d =>
    { d with sets := [(0, l)], recalls := [{ pa := 0, core := 1 }], walks := [aWalk, { aWalk with seq := 5, sets := [] }]
             fills := [{ pa := 0x50000, key := 0, cls := 0, ms := false, ctx := 0, age := 0 }, { pa := 0, key := 0, cls := 0, ms := false, ctx := 0, age := 0 }] })
/-- The same with writes on their way: one to each of two words, and a second one to the first. -/
def die2 : State := (die [aSheaf]).modCore 0 (fun c => { c with sent := [(0, sbs.getD 0 {}), (0, sbs.getD 1 {}), (0, sbs.getD 3 {})] })
/-- A release at the head of the store buffer, its release steps done; nothing on its way. -/
def die3 : State := (die [aSheaf]).modTh 0 (fun t => { t with sb := [{ seq := 1, loc := true, bytes := [], ord := .release, scope := .core }], relStage := 4 })
/-- Another core owns the word of request n. -/
def awayB (s : State) (n : Nat) : Bool :=
  match requestWord s 0 n with
  | some (false, p) => (match held s 0 p with | some y => y.2.owned && y.2.core != 0 | none => false)
  | _ => false
theorem away_of {s : State} {n : Nat} (h : awayB s n = true) :
    ∃ p, requestWord s 0 n = some (false, p) ∧ ∃ y, held s (0 / 256) p = some y ∧ y.2.owned = true ∧ y.2.core ≠ 0 % 256 := by
  unfold awayB at h
  split at h
  · next p hp =>
    split at h
    · next y hy =>
      simp only [Bool.and_eq_true, bne_iff_ne, ne_eq] at h
      exact ⟨p, hp, y, hy, h.1, h.2⟩
    · cases h
  · cases h
theorem not_away_of {s : State} {n : Nat} (h : awayB s n = false) :
    ¬ ∃ p, requestWord s 0 n = some (false, p) ∧ ∃ y, held s (0 / 256) p = some y ∧ y.2.owned = true ∧ y.2.core ≠ 0 % 256 := by
  rintro ⟨p, hp, y, hy, ho, hc⟩
  simp [awayB, hp, hy, ho] at h
  exact hc h
theorem wit_DieCache_away :
    (∃ p, requestWord (die [aSheaf]) 0 4 = some (false, p) ∧ ∃ y, held (die [aSheaf]) (0 / 256) p = some y ∧ y.2.owned = true ∧ y.2.core ≠ 0 % 256)
      ∧ ({ die [aSheaf] with choices := [1] } : State).choices = 1 :: [] ∧ awayB { die [aSheaf] with choices := [1] } 4 = true :=
  ⟨away_of (by decide +kernel), rfl, by decide +kernel⟩
theorem wit_DieCache_stores :
    let s := die [aSheaf]
    let e := fun i => s.me.sb.getD i {}
    let free := fun i => (e i).fence = false ∧ (∀ y ∈ s.me.sb.take i, y.fence = false ∧ (y.word = (e i).word → (e i).seq ≤ y.seq))
      ∧ (e i).release = false ∧ ∀ r ∈ (s.core 0).reads, r.th = 0 → r.word = (e i).word → (e i).seq ≤ r.seq
    s.me.sb = sbs ∧ s.choices = [] ∧ (s.core 0).sent = [] ∧ free 0 ∧ free 2 ∧ free 3 ∧ (∀ i ∈ [0, 1, 2, 3, 6], awayB s i = false)
      ∧ (∃ y ∈ s.me.sb.take 1, y.word = (e 1).word ∧ y.seq < (e 1).seq ∧ y.fence = false)
      ∧ (e 6).op ≠ none ∧ (∃ y ∈ s.me.sb.take 6, y.fence = true) := by decide +kernel
theorem wit_DieCache_release :
    let e : SbEntry := { seq := 1, loc := true, bytes := [], ord := .release, scope := .core }
    die3.me.sb[0]? = some e ∧ e.release = true ∧ die3.me.relStage = 4 ∧ (∀ x ∈ (die3.core 0).sent, x.1 ≠ 0) ∧ e.fence = false ∧ awayB die3 0 = false
      ∧ ∀ r ∈ (die3.core 0).reads, r.word ≠ e.word := by decide +kernel
theorem wit_DieCache_sent :
    let s := die2
    let c := s.core 0
    let y := fun i => c.sent.getD i (0, {})
    s.me.sb.length = 7 ∧ (∀ i ∈ [7, 8, 9], awayB s i = false) ∧ (∃ x ∈ c.sent.take 1, x.2.word = (y 1).2.word) ∧ (∀ x ∈ c.sent.take 0, x.2.word ≠ (y 0).2.word)
      ∧ (∀ x ∈ c.sent.take 2, x.2.word ≠ (y 2).2.word) ∧ c.sent.length = 3 := by decide +kernel
theorem wit_DieCache_accept :
    let e := fun i => sbs.getD i {}
    (e 0).loc = true ∧ (e 0).op = none ∧ (e 3).loc = false ∧ ¬ Alive (die []) (e 3).key 2 ∧ (e 3).ret = none ∧ (e 2).loc = false ∧ Alive (die []) (e 2).key 2
      ∧ (e 2).op = none := by
  unfold Alive
  decide
/-- Whether a queued read arrives, and whether its word can be read. -/
def arrivesB (s : State) (r : ReadReq) : Bool :=
  decide ((∀ x ∈ (s.core 0).reads, x.th = r.th → x.word = r.word → r.seq ≤ x.seq)
    ∧ (∀ x ∈ (s.th r.th).sb, x.op ≠ none → x.fence = false → x.word = r.word → r.seq ≤ x.seq) ∧ ∀ x ∈ (s.core 0).sent, x.2.word ≠ r.word)
def readsB (s : State) (i : Nat) (r : ReadReq) : Bool :=
  (wordValue (s.modCore 0 (fun c => { c with reads := c.reads.eraseIdx i })) r.th r.word r.seq (partBytes r.parts) r.req r.rq none).2.isSome
theorem wit_DieCache_reads :
    let s := die [aSheaf]
    let c := s.core 0
    s.me.sb.length = 7 ∧ c.sent.length = 0 ∧ c.reads[7 - 7 - 0]? = some aRead ∧ (∀ i ∈ [7, 8, 9], awayB s i = false) ∧ arrivesB s aRead = true
      ∧ aRead.vec = false ∧ aRead.parts = [aPart] ∧ 1 ≤ aPart.size ∧ aPart.pa % 32 + aPart.size ≤ 32 ∧ readsB s 0 aRead = true
      ∧ c.reads[8 - 7 - 0]? = some { aRead with seq := 9 } ∧ (∃ x ∈ c.reads, x.th = 0 ∧ x.word = aRead.word ∧ x.seq < 9)
      ∧ c.reads[9 - 7 - 0]? = some vRead ∧ arrivesB s vRead = true ∧ vRead.vec = true ∧ vRead.rd < 32 ∧ readsB s 2 vRead = true ∧ c.reads[10 - 7 - 0]? = none := by
  decide +kernel
theorem wit_DieCache_fills :
    let s := die [aSheaf]
    let arrived := s.modDie 0 (fun x => { x with fills := x.fills.eraseIdx 0 })
    (s.die 0).fills[0]?.map (·.pa) = some 0x50000 ∧ held s 0 (0x50000 / 32) = none ∧ (s.die 0).fills[1]?.map (·.pa) = some 0 ∧ (held s 0 0).isSome = true
      ∧ (s.die 0).fills[2]? = none ∧ (homeRead (fwdWait arrived 0 (0x50000 / 32)) 0x50000 32 0 0 0).2.isSome = true
      ∧ (homeRead (fwdWait { arrived with hbms := [(stackOf 0x50000, { frames := [(offOf 0x50000 / 512, { poison := true })] })] } 0 (0x50000 / 32)) 0x50000 32 0 0 0).2 = none
      ∧ (s.die 0).recalls[0]? = some { pa := 0, core := 1 } ∧ held s 0 0 = some (aSheaf, aWord) ∧ (s.core 1).l1.find? (fun e => e.1 == 0) = some (0, aL1)
      ∧ (s.die 0).recalls[1]? = none := by decide +kernel
theorem wit_DieCache_sheaves :
    let l := [aSheaf, { aSheaf with s := 1 }]
    (¬ ∃ a ∈ [aSheaf], ∃ b ∈ [aSheaf], Adjacent a b) ∧ (∃ a ∈ l, ∃ b ∈ l, Adjacent a b) ∧ SheavesApart l ∧ setNum 0 0 = 0 ∧ tget [] ((die l).die 0).sets 0 = l := by
  unfold Adjacent SheavesApart
  decide
theorem wit_DieCache_boundaries :
    let s := die []
    let ready : Nat → Bool := fun id => decide ((tget {} s.phases (phaseKey id 0 0)).arrived ≠ [] ∧ ∀ r ∈ members (s.node id) 0 0, r ∈ (tget {} s.phases (phaseKey id 0 0)).arrived ∨ r ∈ (s.node id).gone)
    ready 20 = false ∧ ready 21 = true ∧ members (s.node 21) 0 0 = [0, 1] ∧ 1 ∈ memberCores (s.node 21) (members (s.node 21) 0 0) ∧ 2 ∉ memberCores (s.node 21) (members (s.node 21) 0 0) := by decide
/-- Every die's stamp is far from its wrap; a core of a boundary's members whose own threads are all members, and one with another node's. -/
theorem wit_DieCache_signatures :
    let s := (die []).modTh 0 (fun t => { t with st := .running, node := 21 })
    let u := s.modTh 1 (fun t => { t with st := .running, node := 20 })
    (∀ d, (s.die d).stamp + 256 < 2 ^ 16) ∧ 0 ∈ memberCores (s.node 21) (members (s.node 21) 0 0)
      ∧ (∀ k, k < 4 → (s.th (0 * 4 + k)).st ∈ [ThState.running, .stopping, .stopped] → (s.th (0 * 4 + k)).node = 21 ∧ (s.th (0 * 4 + k)).rank ∈ members (s.node 21) 0 0)
      ∧ (∃ k, k < 4 ∧ (u.th (0 * 4 + k)).st = .running ∧ (u.th (0 * 4 + k)).node ≠ 21) := by
  refine ⟨fun d => ?_, by decide, by decide, by decide⟩
  show (tget {} [(0, _)] d : Die).stamp + 256 < 2 ^ 16
  by_cases h : d = 0
  · subst h; decide
  · simp [tget, h]
theorem wit_DieCache_walks :
    let s := die []
    TheWalk s 4 aWalk ∧ (0, 0, 0) ∈ aWalk.sets ∧ (0, 0, 1) ∉ aWalk.sets ∧ (s.modDie 0 (fun d => { d with fills := [] }) |>.die 0).fills = [] ∧ TheWalk s 5 { aWalk with seq := 5, sets := [] }
      ∧ (∀ c ∈ s.cores, ∀ y ∈ c.2.chute, ∀ p ∈ y.words, ∀ g ∈ aWalk.pages, p < g.1 / 32 ∨ g.2.1 / 32 < p)
      ∧ (let u := s.modCore 0 (fun c => { c with chute := [{ aWrite with bytes := List.replicate 32 (some 1) }] })
         ∃ c ∈ u.cores, ∃ y ∈ c.2.chute, ∃ p ∈ y.words, ∃ g ∈ aWalk.pages, g.1 / 32 ≤ p ∧ p ≤ g.2.1 / 32) := by
  unfold TheWalk
  decide
theorem wit_DieCache_noWalk : ¬ ∃ x, TheWalk State.reset 4 x := by
  rintro ⟨x, h⟩
  exact absurd (show (none : Option Walk) = some x from h) (by simp)
theorem wit_DieCache_covers : SheavesApart [aSheaf] ∧ WalkCovers (die [aSheaf]) aWalk 0 0 0 := by
  unfold SheavesApart WalkCovers
  decide

/-- Jobs of cluster 0 in each queue state, and a claim and a release. -/
def mkJob (kind : JobKind) (unit seq : Nat) (st : JobState) (card : List Byte) : Job :=
  { seq := seq, unit := unit, kind := kind, th := 0, ctx := 0, node := 0, status := 1, card := card, st := st }
def eng (l : List Job) : State := hw.modClus 0 (fun c => { c with jobs := l })
theorem wit_EngineQueues_accept :
    let j := mkJob .curve 0 3 .submitted (rec curveCard)
    let s := eng [j, { j with th := 4, seq := 4 }]
    let turn := fun (x : Job) => (x.th / 4 % 8 + 8 - tget 0 (s.clus 0).arb 0 % 8) % 8
    ((s.clus 0).jobs.filter (fun x => x.unit == 0 && x.st != .submitted)).length < 32 ∧ j.unit = 0 ∧ j.st = .submitted
      ∧ (s.clus 0).jobs.find? (fun y => y.unit == 0 && y.st == .submitted && y.th / 4 % 8 == j.th / 4 % 8) = some j
      ∧ (∀ y ∈ (s.clus 0).jobs, y.unit = 0 ∧ y.st = .submitted → turn j ≤ turn y) ∧ (∀ y ∈ (State.reset.clus 0).jobs, ¬ (y.unit = 0 ∧ y.st = .submitted))
      ∧ 32 ≤ (((eng (List.replicate 32 { j with st := .accepted })).clus 0).jobs.filter (fun x => x.unit == 0 && x.st != .submitted)).length := by decide
/-- The submitting thread's store buffer empties at once, and one whose release awaits a peer does not. -/
theorem wit_EngineQueues_drained :
    let s := eng [mkJob .curve 0 3 .submitted (rec curveCard)]
    let w := s.modTh 0 (fun t => { t with sb := [{ seq := 1, fence := true, scope := .system }], relStage := 3, sysWait := [(5, 2, 0)] })
    ((drainAll s 0).th 0).sb = [] ∧ sackOf (drainAll s 0) 0 = 0 ∧ ((drainAll w 0).th 0).sb ≠ [] := by decide +kernel
def aClaim : Claim := { th := 0, rd := 4, acc := false, rel := false, mask := 1 }
def aRel : Claim := { aClaim with th := 4, rel := true }
def clm : State := (eng []).modClus 0 (fun c => { c with claims := [aClaim, aRel] })
def held2 : State :=
  (eng [{ mkJob .zero 0 3 .accepted [] with arg := 1 }]).modClus 0 (fun c => { c with claims := [{ aClaim with th := 4 }, { aRel with acc := true }], slotOwn := [(0, 9)] })
theorem wit_EngineQueues_claims :
    (clm.clus 0).claims = [] ++ aClaim :: [aRel] ∧ aClaim.rel = false ∧ Open clm 0 aClaim ∧ (clm.clus 0).claims = [aClaim] ++ aRel :: [] ∧ aRel.rel = true
      ∧ Idle clm 0 aRel ∧ (∀ z ∈ [aClaim], z.rel = false) ∧ ¬ Open held2 0 { aClaim with th := 4 } ∧ ¬ Idle held2 0 { aRel with acc := true }
      ∧ (held2.clus 0).claims = [{ aClaim with th := 4 }, { aRel with acc := true }] := by
  refine ⟨rfl, rfl, ?_, rfl, rfl, ?_, by decide, ?_, ?_, rfl⟩
  · unfold Open; decide
  · unfold Idle; decide
  · unfold Open; decide
  · intro h
    exact absurd (h (((held2.clus 0).jobs.getD 0 (mkJob .zero 0 3 .accepted []))) (by decide) (by decide) 0 (by decide) (by decide)) (by decide)
theorem wit_EngineQueues_edges :
    let j := mkJob .curve 0 3 .accepted (rec curveCard)
    let m := mkJob .mx 0 4 .accepted (rec mxCard)
    let s := eng [j, m]
    (s.clus 0).jobs.filter (fun y => y.unit == 0 && y.st != .submitted) = [j] ++ m :: [] ∧ m.seq = 4 ∧ (∀ y ∈ [j], y.seq ≠ 4) ∧ (readMxCard m.card).isSome = true
      ∧ jobAt s 0 0 3 = some j ∧ edgesMet s 0 0 3 = true ∧ (readCurve j.card).isSome = true ∧ jobAt s 0 0 5 = none ∧ j.result = none := by decide +kernel
theorem wit_EngineQueues_clears :
    let z := { mkJob .zero 0 3 .accepted [] with arg := 1 }
    let s := eng [z, { z with seq := 4 }]
    jobAt s 0 0 3 = some z ∧ z.kind = .zero ∧ z.st = .accepted ∧ edgesMet s 0 0 3 = true ∧ edgesMet s 0 0 4 = false := by decide +kernel
theorem wit_EngineQueues_ends :
    let j := { mkJob .copy 1 3 .running [] with tileD := some 2 }
    let e := { j with st := .ended, result := some {}, seq := 4 }
    let on := fun (n : BitVec 32) => (eng [j, e]).modDie 0 (fun d => { d with fqcfg := 0x8000000000000000, fqTail := n })
    recordWaits (on 0) 0 0 = false ∧ recordWaits (eng [{ j with park := some { cause := 1, info := 0, ord := 0, write := false, va := 0 } }]) 0 1 = true ∧ jobAt (on 0) 0 1 3 = some j ∧ j.result = none ∧ 1 < 3 ∧ QueueOn (on 0) 0 ∧ QueueRoom (on 0) 0 ∧ ¬ QueueRoom (on 64) 0 ∧ ¬ QueueOn (eng [j]) 0
      ∧ jobAt (on 0) 0 1 4 = some e ∧ e.result = some {} ∧ e.written.length ≤ 4096 ∧ 4096 < ({ e with written := List.replicate 4097 0 } : Job).written.length := by
  unfold QueueOn QueueRoom
  decide +kernel

/-- The work of an agent runs to its end with an answer and a state that satisfy `p`. -/
def endsJ {α : Type} (m : J α) (s : State) (p : α → State → Bool) : Bool :=
  match m.run s with | (.ok a, t) => p a t | (.error _, _) => false
def servesB (e : List Byte) (ty : Ty) (m : Nat) : Bool :=
  let w := field e 0x24 4
  w.testBit 17 && w / 2 ^ 8 % 4 ≤ 1 && w % 64 == ty.code && w / 2 ^ 12 % 4 == m
theorem serves_iff (e : List Byte) (ty : Ty) (m : Nat) : servesB e ty m = true ↔ Serves e ty m := by
  simp [servesB, Serves, and_assoc]
/-- A tensor table at 0x30000 with these bytes, and one job. -/
def tab (j : Job) (e : List Byte) : State :=
  (homeWrite (eng [j]) 0x50000 (e.map some) 0 0 0 true).modCtx 0 (fun c => { c with ttbase := 0x30000, ttcount := 2 })
def entry (ty : Ty) (sm ver : Nat) : List Byte := rec [(8, 0), (4, 128), (24, 0), (4, ty.code + 2 ^ 12 * sm + 2 ^ 17), (8, 0x30400), (4, ver), (12, 0)]
/-- KIND 1 with SA 0 and SB 1; DEND set. -/
def mxs : List Byte := rec [(8, Ty.e4m3.code * 256 + Ty.e4m3.code * 2 ^ 16 + 1), (16, 0), (16, 1), (8, 0), (2, 0), (2, 1), (76, 0)]
def mxd : List Byte := rec [(8, Ty.e4m3.code * 256 + Ty.e4m3.code * 2 ^ 16 + 16), (16, 0), (16, 1), (88, 0)]
/-- How far preparation gets with table entries `e1` and `e2`: both read, which serve, which versions agree. -/
def prepares (j : Job) (e1 e2 : List Byte) (p : Bool × Bool × Bool × Bool) : Bool :=
  match readMxCard j.card with
  | none => false
  | some c => c.kind == 1 && c.sa == 0 && c.sb == 1 && endsJ (jRead j.agent 0x30000 64) (again (tab j (e1 ++ e2)) 0 0 3) (fun a u =>
      endsJ (jRead j.agent 0x30040 64) (noted u 0 0 3 1 (fun j => { j with entA := a })) (fun b _ =>
        decide (p = (servesB a c.sh.ta 2, servesB b c.sh.tb 3, field a 0x30 4 == c.saver, field b 0x30 4 == c.sbver))))
theorem wit_MatrixJobs_entries :
    let j := mkJob .mx 0 3 .accepted mxs
    (prepares j (entry .e4m3 2 0) (entry .e4m3 3 0) (true, true, true, true) && prepares j (entry .e4m3 0 0) (entry .e4m3 3 0) (false, true, true, true)
      && prepares j (entry .e4m3 2 0) (entry .i8 3 0) (true, false, true, true) && prepares j (entry .e4m3 2 1) (entry .e4m3 3 0) (true, true, false, true)
      && prepares j (entry .e4m3 2 0) (entry .e4m3 3 1) (true, true, true, false)) = true := by decide +kernel
theorem wit_MatrixJobs_tables :
    let j := mkJob .mx 0 3 .accepted mxs
    jobAt (tab j []) 0 0 3 = some j ∧ ((tab j []).ctx 0).ttbase.toNat + 0 * 64 = 0x30000 ∧ ¬ ((tab j []).ctx 0).ttcount.toNat ≤ 1 ∧ ((eng [j]).ctx 0).ttcount.toNat ≤ 0
      ∧ j.th / 32 = 0 ∧ j.park = none ∧ j.prog = 0 ∧ endsJ (jRead j.agent 0x60000 64) (again (tab j []) 0 0 3) (fun _ _ => true) = false ∧ (tab j []).choices = [] := by decide +kernel
/-- Curve 0 unloaded and loaded, for a job that uses its branch. -/
theorem wit_MatrixJobs_curves :
    let j := mkJob .mx 0 3 .prepared mxd
    let s := eng [j]
    let t := s.modClus 0 (fun c => { c with curves := [(0, { loaded := true, nseg := 1 })] })
    (match readMxCard j.card with
      | none => false
      | some c => c.dend && c.kind == 0 && c.used == [0] && c.curve 0 == 0 && !(tget {} (s.clus 0).curves (c.curve 0)).loaded && (tget {} (t.clus 0).curves (c.curve 0)).loaded
          && !c.tap) = true
      ∧ edgesMet t 0 0 3 = true ∧ ((t.clus 0).jobs.filter (fun y => y.unit == 0)).takeWhile (fun y => y.seq != 3) = [] ∧ j.result = none := by decide +kernel
theorem wit_MatrixJobs_taps :
    (match readMxCard (rec [(8, Ty.e4m3.code * 256 + Ty.e4m3.code * 2 ^ 16 + 16 + 64), (16, 0), (16, 1), (88, 0)]) with
      | none => false | some c => c.tap && decide (0x40 + c.tapBytes ≤ 2 ^ 19)) = true := by decide +kernel

theorem wit_EngineArithmetic : (readMxCard mxd).isSome = true := by decide +kernel

def run2 (kind : JobKind) (unit : Nat) (card : List Byte) : Job := mkJob kind unit 3 .accepted card
theorem wit_DataJobs_works :
    Works (eng [run2 .drain 0 (rec drainCard)]) 0 0 3 (run2 .drain 0 (rec drainCard)) ∧ Works (eng [run2 .copy 1 (rec (copyCard 0 0 0x30000 0x30040))]) 0 1 3 (run2 .copy 1 (rec (copyCard 0 0 0x30000 0x30040)))
      ∧ Works (eng [run2 .opt 2 (rec optCard)]) 0 2 3 (run2 .opt 2 (rec optCard)) := by
  unfold Works
  refine ⟨⟨?_, ?_, ?_, ?_, ?_, ?_, Or.inr ?_⟩, ⟨?_, ?_, ?_, ?_, ?_, ?_, Or.inr ?_⟩, ⟨?_, ?_, ?_, ?_, ?_, ?_, Or.inr ?_⟩⟩ <;> decide +kernel
theorem wit_DataJobs_cards :
    ((match readDrain (rec drainCard) with | some d => d.rm != 5 | none => false)
      && (match readDrain (rec [(8, 0x1000), (4, 512), (4, 256 * Ty.bf16.code + 2 ^ 16 * 5), (48, 0)]) with | some d => d.rm == 5 | none => false)
      && (match readCopy (rec (copyCard 0 0 0x30000 0x30040)) with | some c => c.rm != 5 | none => false)
      && (match readCopy (rec [(8, 0), (8, 64), (4, 1), (4, 8), (4, 64), (4, 64), (4, Ty.f32.code + Ty.bf16.code * 256 + 2 ^ 16 * 5), (28, 0)]) with
          | some c => c.rm == 5 | none => false)
      && (readOpt (rec optCard)).isSome) = true := by decide +kernel
theorem wit_DataJobs_idle :
    (run2 .copy 1 []).kind ≠ .drain ∧ ({ run2 .drain 0 [] with st := .ended } : Job).st ≠ .running ∧ ({ run2 .drain 0 [] with st := .ended } : Job).st ≠ .accepted
      ∧ jobAt State.reset 0 0 3 = none := by decide
/-- The places, reads and writes of an optimiser event, as functions. -/
def placesTo (ag : Agent) : List (Nat × Nat × Bool) → State → Option (List (List (Nat × Page × Nat)) × State)
  | [], s => some ([], s)
  | x :: l, s => match (optPlace ag x.1 x.2.1 x.2.2).run s with
    | (.ok p, u) => (match placesTo ag l u with | some r => some (p :: r.1, r.2) | none => none)
    | _ => none
theorem places_of {ag : Agent} : ∀ {l : List (Nat × Nat × Bool)} {s : State} {r : List (List (Nat × Page × Nat)) × State}, placesTo ag l s = some r → Places ag l s r.1 r.2
  | [], s, r, h => by simp only [placesTo, Option.some.injEq] at h; subst h; exact ⟨rfl, rfl⟩
  | x :: l, s, r, h => by
    simp only [placesTo] at h
    split at h
    · rename_i p u e
      split at h
      · rename_i r' e2
        simp only [Option.some.injEq] at h
        subst h
        exact ⟨p, u, r'.1, e, places_of e2, rfl⟩
      · cases h
    · cases h
def readsTo (ag : Agent) : List (List (Nat × Page × Nat)) → State → Option (List (List Byte) × State)
  | [], s => some ([], s)
  | x :: l, s => match (optRead ag x).run s with
    | (.ok p, u) => (match readsTo ag l u with | some r => some (p :: r.1, r.2) | none => none)
    | _ => none
theorem reads_of {ag : Agent} : ∀ {l : List (List (Nat × Page × Nat))} {s : State} {r : List (List Byte) × State}, readsTo ag l s = some r → ReadsAll ag l s r.1 r.2
  | [], s, r, h => by simp only [readsTo, Option.some.injEq] at h; subst h; exact ⟨rfl, rfl⟩
  | x :: l, s, r, h => by
    simp only [readsTo] at h
    split at h
    · rename_i p u e
      split at h
      · rename_i r' e2
        simp only [Option.some.injEq] at h
        subst h
        exact ⟨p, u, r'.1, e, reads_of e2, rfl⟩
      · cases h
    · cases h
def writesTo (ag : Agent) : List (List (Nat × Page × Nat) × List Byte) → State → Option State
  | [], s => some s
  | x :: l, s => match (optWrite ag x.1 x.2).run s with | (.ok _, u) => writesTo ag l u | _ => none
theorem writes_of {ag : Agent} : ∀ {l : List (List (Nat × Page × Nat) × List Byte)} {s t : State}, writesTo ag l s = some t → Writes ag l s t
  | [], s, t, h => by simp only [writesTo, Option.some.injEq] at h; exact h.symm
  | x :: l, s, t, h => by
    simp only [writesTo] at h
    split at h
    · rename_i u e
      exact ⟨u, e, writes_of h⟩
    · cases h
/-- One event of one element under KIND 0 without and with a cleared gradient and a shadow weight. -/
def optRuns (o : OptCard) : Bool :=
  let j := run2 .opt 2 []
  let arrays := [(o.w, 4, true), (o.g, 4, o.clrg), (o.m1, 4, true)] ++ (if o.shadow then [(o.sh, 2, true)] else [])
  match placesTo j.agent arrays (eng [j]) with
  | none => false
  | some (ps, s1) =>
    let p := fun k => ps.getD k []
    let sh := if o.shadow then p (ps.length - 1) else []
    endsJ (optCharge j.agent (p 0 ++ p 2 ++ sh ++ (if o.clrg then p 1 else []))) s1 (fun _ s2 =>
      match readsTo j.agent (if o.shadow then ps.dropLast else ps) s2 with
      | none => false
      | some (bs, s3) =>
        let f := fun k => field (bs.getD k []) 0 4
        let x := stepOf o (f 0) (f 1) (f 2) 0
        (writesTo j.agent ([(p 0, packed 4 [x.1]), (p 2, packed 4 [x.2.1])]
          ++ (if o.shadow then [(sh, packed 2 [((fmtOf .bf16 false).round 0 0 false (f32v x.1)).1])] else []) ++ (if o.clrg then [(p 1, packed 4 [0])] else [])) s3).isSome)
def anOpt : OptCard :=
  { nel := 1, kind := 0, shadow := false, clrg := false, w := 0x30000, g := 0x30040, m1 := 0x30080, m2 := 0, s1 := 0, s2 := 0, sh := 0x300C0, lr := 0x3F000000
    wd := 0, b1 := 0x3F000000, ob1 := 0, b2 := 0, ob2 := 0, eps := 0, c1 := 0, c2 := 0 }
theorem wit_DataJobs_elements : (optRuns anOpt && optRuns { anOpt with shadow := true, clrg := true }) = true := by decide +kernel
/-- Every block has its requantised form. -/
theorem wit_DataJobs_requantised (xs : List Nat) : ∃ scale bs, Requantised xs scale bs := by
  unfold Requantised
  by_cases h : ∃ x ∈ xs, (f32v x).isFin = false
  · exact ⟨_, _, by rw [if_pos h]; exact ⟨rfl, rfl⟩⟩
  · obtain ⟨a, ha, hb⟩ : ∃ a, (∀ x ∈ xs, x % 2 ^ 31 ≤ a) ∧ (a = 0 ∨ a ∈ xs.map (· % 2 ^ 31)) := by
      clear h
      induction xs with
      | nil => exact ⟨0, by simp, Or.inl rfl⟩
      | cons x l ih =>
        obtain ⟨a, h1, h2⟩ := ih
        have m : ∀ b, a ≤ b → x % 2 ^ 31 ≤ b → ∀ y ∈ x :: l, y % 2 ^ 31 ≤ b := by
          intro b hb hx y hy
          rcases List.mem_cons.1 hy with rfl | hy
          · exact hx
          · exact Nat.le_trans (h1 y hy) hb
        by_cases hx : x % 2 ^ 31 ≤ a
        · exact ⟨a, m a (Nat.le_refl _) hx, h2.imp id (List.mem_cons_of_mem _)⟩
        · exact ⟨x % 2 ^ 31, m _ (by omega) (Nat.le_refl _), Or.inr (List.mem_cons_self ..)⟩
    exact ⟨_, _, by rw [if_neg h]; exact ⟨a, ha, hb, rfl, rfl⟩⟩
/-- A block under KIND 2: its places, the charge, its reads, and writes of any bytes. -/
theorem wit_DataJobs_blocks :
    let j := run2 .opt 2 []
    (match placesTo j.agent [(0x30000, 512, true), (0x30200, 512, false), (0x30400, 128, true), (0x30480, 128, true), (0x30500, 4, true), (0x30520, 4, true)] (eng [j]) with
      | none => false
      | some (ps, s1) =>
        let p := fun k => ps.getD k []
        endsJ (optCharge j.agent (p 0 ++ p 2 ++ p 3 ++ p 4 ++ p 5)) s1 (fun _ s2 =>
          match readsTo j.agent ps s2 with
          | none => false
          | some (bs, s3) => bs.map List.length == [512, 512, 128, 128, 4, 4]
              && (writesTo j.agent [(p 0, packed 4 (List.replicate 128 1)), (p 2, packed 1 (List.replicate 128 1)), (p 4, natToBytes 4 1), (p 3, packed 1 (List.replicate 128 1)), (p 5, natToBytes 4 1)] s3).isSome)) = true := by
  decide +kernel

/-- A virtual tensor of 4 rows of 2, a plain tensor, and a chain card. -/
def vtPair : List Byte :=
  rec [(2, 2), (2, 2), (12, 0), (1, 1), (1, 2), (6, 0), (1, 1), (1, 1), (1, 1), (6, 0), (1, 2), (2, 0), (4, 2 ^ 9 + 2 ^ 17), (8, 0), (8, 0x30400), (8, 0x30440),
    (32, 0), (4, 0), (4, 3 * 2 ^ 8 + 2 ^ 17), (24, 0)]
def plainEnt : List Byte := rec [(8, 0x30600), (4, 2), (4, 4), (4, 1), (4, 1), (4, 2), (8, 0), (4, Ty.f32.code + 2 ^ 17), (24, 0)]
def chnCard (lr gbl offs : Nat) : List Byte :=
  rec [(4, 2), (2, 0), (1, Ty.f32.code), (1, 0), (8, 0x30200), (8, 0x30800), (4, 64), (4, lr), (8, 0), (8, offs), (8, gbl), (72, 0)]
def chn (kind : JobKind) (card : List Byte) : Job := { mkJob kind 2 3 .accepted card with entB := rec [(8, 0x30A00), (8, 0x30A40), (48, 0)] }
theorem wit_ChainJobs_fresh :
    (∀ c ∈ [(JobKind.chld, chnCard 0 0 0), (.gpool, chnCard 0 0 0x30300), (.chst true, chnCard 0x3F000000 0 0), (.chst false, chnCard 0 0xFF00000000001000 0)],
      (readChain c.1 c.2).isSome = true) ∧ (chn .chld []).entA = [] ∧ ((tab (chn .chld []) vtPair).ctx 0).ttcount.toNat = 2 := by decide +kernel
theorem wit_ChainJobs_works : Works (tab (chn .chld (chnCard 0 0 0)) vtPair) 0 2 3 (chn .chld (chnCard 0 0 0)) :=
  ⟨rfl, by decide +kernel, rfl, rfl, rfl, rfl, Or.inr ⟨rfl, by decide +kernel⟩⟩
/-- What the start of a job reads: a pair that is one, a plain tensor, an invalid entry. -/
theorem wit_ChainJobs_entries :
    let j := chn .chld (chnCard 0 0 0)
    let second := fun (e : List Byte) => (field e 0x24 4).testBit 17 && field e 0x24 4 / 2 ^ 8 % 4 == 2 && (decide (0 + 1 < 2) && decide (0x30000 % 512 + 128 ≤ 512))
    let at_ := fun (e : List Byte) (p : List Byte → Bool) => endsJ (jReadEntry j.agent 0x30000 second) (working (tab j e) 0 2 3) (fun e _ => p e)
    let two := fun (e : List Byte) (p : List Byte → Bool) => at_ e (fun e => e.length == 128 && p e)
    let valid := fun (e : List Byte) => (field e 0x24 4).testBit 17
    let layout := fun (e : List Byte) => field e 0x24 4 / 2 ^ 8 % 4
    let coded := fun (e : List Byte) => (Ty.ofCode (field e 0x24 4 % 64)).isSome
    (at_ vtPair (fun e => valid e && layout e == 2) && at_ (rec [(64, 0)]) (fun e => !valid e)
      && at_ plainEnt (fun e => valid e && layout e == 0 && field e 0x24 4 / 2 ^ 12 % 4 == 0 && field e 0x24 4 % 64 == Ty.f32.code && field e 0x10 4 == 1 && field e 0x14 4 == 1
          && field e 8 4 == 2)
      && two vtPair (fun e => valid (e.drop 64) && layout (e.drop 64) == 3 && coded e && coded (e.drop 64)
          && (match readVTensor e with | some v => v.dim == 2 && v.rows == 4 && !v.bf && v.d == 2 | none => false))
      && two (vtPair.take 64 ++ plainEnt) (fun e => layout (e.drop 64) != 3)
      && two (vtPair.take 0x24 ++ rec [(4, 2 ^ 9 + 2 ^ 17 + 63)] ++ vtPair.drop 0x28) (fun e => valid e && layout e == 2 && !coded e)
      && two (rec [(2, 1)] ++ vtPair.drop 2) (fun e => (readVTensor e).isNone)) = true := by decide +kernel
/-- The slices of a row, as a function. -/
def slicesTo (ag : Agent) (v : VTensor) (i : Nat) : List Nat → State → Option (List (List Nat) × State)
  | [], s => some ([], s)
  | k :: l, s =>
    let n := v.rank (k - 1) * v.out k * v.rank k
    let fs := if v.bf then 2 else 4
    match (jReadHome ag ((v.fb.getD (k - 1) 0) + v.digit i k * n * fs) (n * fs)).run s with
    | (.ok bs, u) => (match slicesTo ag v i l u with
      | some r => some ((List.range n).map (fun x => if v.bf then field bs (2 * x) 2 * 2 ^ 16 else field bs (4 * x) 4) :: r.1, r.2)
      | none => none)
    | _ => none
theorem slices_of {ag : Agent} {v : VTensor} {i : Nat} : ∀ {l : List Nat} {s : State} {r : List (List Nat) × State}, slicesTo ag v i l s = some r → Slices ag v i l s r.1 r.2
  | [], s, r, h => by simp only [slicesTo, Option.some.injEq] at h; subst h; exact ⟨rfl, rfl⟩
  | k :: l, s, r, h => by
    simp only [slicesTo] at h
    split at h
    · rename_i bs u e
      split at h
      · rename_i r' e2
        simp only [Option.some.injEq] at h
        subst h
        exact ⟨bs, u, r'.1, e, slices_of e2, rfl⟩
      · cases h
    · cases h
theorem wit_ChainJobs_rows :
    let j := chn .chld (chnCard 0 0 0)
    let s := tab j vtPair
    (match readVTensor vtPair, readChain .chld j.card with
      | some v, some c => decide (3 < v.rows) && (slicesTo j.agent v 3 [1, 2] s).isSome && decide (v.rows ≤ 4) && c.count == 2
          && endsJ (jRead j.agent (c.list + 8 * 0) 8) s (fun ib u => endsJ (tableRow { j with entA := vtPair } vtPair (bytesToNat ib) 0) u (fun y _ => y == [0, 0]))
          && endsJ (jRead j.agent (field plainEnt 0 8 + 3 * field plainEnt 0x18 4 * 4) (field plainEnt 8 4 * 4)) s (fun _ _ => true)
          && endsJ (jRead j.agent (c.data + 0 * c.pitch) (v.dim * 4)) s (fun _ _ => true)
      | _, _ => false) = true := by decide +kernel
/-- A bag of one position, and one that goes backwards; a position of its list outside the Loft. -/
theorem wit_ChainJobs_bags :
    let j := { chn .gpool (chnCard 0 0 0x30300) with entA := vtPair }
    let bag := fun (a b : Nat) (p : Nat → Nat → State → Bool) =>
      endsJ (jRead j.agent 0x30300 4) (homeWrite (tab j vtPair) 0x50300 ((rec [(4, a), (4, b)]).map some) 0 0 0 true) (fun ib u =>
        endsJ (jRead j.agent 0x30304 4) u (fun db u1 => p (bytesToNat ib) (bytesToNat db) u1))
    (bag 0 1 (fun a b u => a == 0 && b == 1 && endsJ (listCheck j (0x30200 + 8 * 0) 8 0) u (fun _ _ => true) && endsJ (jRead j.agent 0x30200 8) u (fun ib t =>
        endsJ (tableRow j j.entA (bytesToNat ib) 0) t (fun x _ => x == [0, 0])))
      && bag 2 1 (fun a b _ => decide (b < a))
      && (match localCheck (tab j vtPair) 0 0 true 0xFF00000000080000 8 with | .error _ => true | .ok _ => false)) = true := by decide +kernel
theorem wit_ChainJobs_adds :
    let ag := (chn .chld []).agent
    endsJ (jTranslate ag 0x30A00 .write) (tab (chn .chld []) vtPair) (fun p u => p.1 == 0x50A00 && endsJ (jCharge ag [stackOf p.1]) u (fun _ _ => true)) = true := by decide +kernel
theorem wit_ChainJobs_counted :
    let j := { chn (.chst true) (chnCard 0x3F000000 0 0) with st := .running, factor := 2, adds := [(2, 0, 0)], entA := vtPair }
    let s := tab j vtPair
    (∀ y ∈ (s.clus 0).jobs, y.unit = 2 → y.seq = 3 → y = j) ∧ jobAt s 0 2 3 = some j ∧ (∃ a ∈ j.adds, a.1 = j.factor) ∧ j.entA ≠ [] ∧ 1 < j.factor
      ∧ (let c := { j with adds := [(1, 0, 0)], factor := 1, prog := 1 }; (∃ a ∈ c.adds, a.1 = c.factor) ∧ 2 ≤ c.prog + 1)
      ∧ (let c := { j with adds := [], factor := 1, prog := 0 }; (∀ a ∈ c.adds, a.1 ≠ c.factor) ∧ c.prog + 1 < 2) := by decide +kernel
theorem wit_EngineArithmetic_rows : (match readVTensor vtPair with | some v => decide (1 ≤ v.d ∧ 0 < v.rank 0 ∧ 1 < v.out 2 ∧ 0 < v.rank 1) | none => false) = true := by decide +kernel

/-- A session with node 1: its thread 0 of core 0 stands at a breakpoint; a wire group in which it waits alone and not yet in full. -/
def dbg (z : Zdb → Zdb) (w : Option WireReq) : State :=
  let t : Thread := { st := .running, node := 1, pc := 0x1000, wire := w }
  { hw with threads := [(0, t)], nodes := [(1, { st := .running }), (2, { st := .ready })], cores := [(0, { wiregrp := 3 <<< 16 })], powered := true
            zdb := z { nodes := [1], breaks := [{ addr := 0x1000, core := none }, { addr := 0x2000, core := some 3 }] } }
theorem onlyZero (z : Zdb → Zdb) (w : Option WireReq) (i : Nat) (h : OfSession (dbg z w) i) : i = 0 := by
  rcases Nat.eq_zero_or_pos i with h0 | h0
  · exact h0
  · have : (dbg z w).th i = {} := by
      show tget ({} : Thread) [(0, _)] i = {}
      simp [tget]
      omega
    rw [OfSession, this] at h
    exact absurd h.1 (by decide)
theorem wit_Debugger_hold : AtBreak (dbg id none) 0 ∧ ¬ AtBreak (dbg (fun z => { z with passed := some 0 }) none) 0 ∧ ¬ AtBreak (dbg (fun z => { z with held := true }) none) 0
    ∧ ∀ i, ¬ (OfSession (dbg id none) i ∧ ∃ w, ((dbg id none).th i).wire = some w ∧ w.result = none) := by
  refine ⟨by unfold AtBreak; decide, fun h => h.2.1 rfl, fun h => absurd h.1 (by decide), ?_⟩
  rintro i ⟨h, w, hw, -⟩
  obtain rfl := onlyZero _ _ i h
  exact absurd (show (none : Option WireReq) = some w from hw) (by simp)
theorem wit_Debugger_waits :
    let s := dbg id (some { since := 0 })
    AtBreak s 0 ∧ OfSession s 0 ∧ (∃ w, (s.th 0).wire = some w ∧ w.result = none) ∧ ¬ Complete s (wireXY (0 / 1024) ((s.core (0 / 4)).wiregrp.toNat % 16) ((s.core (0 / 4)).wiregrp.toNat / 16 % 16))
      ∧ ∀ q, (s.core q).wireNew = none ∧ (s.core q).tmoNew = none := by
  refine ⟨by unfold AtBreak; decide, by unfold OfSession; decide, ⟨{ since := 0 }, rfl, rfl⟩, ?_, ?_⟩
  · intro h
    obtain ⟨w, hw, -⟩ := ((h.2 0 (by decide)).2).2 1 (by decide) (by decide)
    exact absurd hw (by rw [show ((dbg id (some { since := 0 })).th (0 * 4 + 1)).wire = none from by decide]; simp)
  · intro q
    rcases Nat.eq_zero_or_pos q with rfl | hq
    · exact ⟨rfl, rfl⟩
    · have : (dbg id (some { since := 0 })).core q = {} := by
        show tget ({} : Core) [(0, _)] q = {}
        simp [tget]
        omega
      show ((dbg id (some { since := 0 })).core q).wireNew = none ∧ ((dbg id (some { since := 0 })).core q).tmoNew = none
      rw [this]
      exact ⟨rfl, rfl⟩
theorem wit_Debugger_stopped :
    let s := { dbg (fun z => { z with held := true, cur := some 0 }) none with agenda := [.thread 0] }
    s.powered = true ∧ s.agenda = .thread 0 :: [] ∧ s.zdb.held = true ∧ (s.th 0).node ∈ s.zdb.nodes ∧ (s.th 0).pkt = none ∧ ¬ (s.zdb.cur = some 0 ∧ s.zdb.steps ≠ 0)
      ∧ (let u := { s with nodes := [(1, { st := .ready })] }; (∀ e ∈ u.nodes, e.2.st = .ready → e.1 ∈ u.zdb.nodes) ∧ u.nodes.Pairwise (fun a b => a.1 < b.1)) := by decide
theorem wit_Debugger_steps :
    let s := dbg (fun z => { z with held := true, steps := 2, deadline := 5 }) none
    s.zdb.held = true ∧ s.zdb.steps ≠ 0 ∧ s.clock < s.zdb.deadline ∧ s.zdb.deadline ≤ ({ s with clock := 5 } : State).clock ∧ (dbg id none).zdb.held = false := by decide
/-- The session's records, sealed. -/
def sealsTo (c : Nat) : List (List Byte) → State → Bool
  | [], _ => true
  | r :: l, s => match execIntakeRecordWrite c 0 (r.take 0xF8) s with
    | .next u => (match execIntakeRecordWrite c 0xF8 ((r.drop 0xF8).take 8) u with
      | .next v =>
        let id := fun (s : State) => if (s.ctx c).count = 0 then 0 else c * 2 ^ 40 + (s.ctx c).count
        if id v = id s then sealsTo c l v else sealsTo c l (inZdb v (fun z => { z with nodes := z.nodes ++ [id v], out := z.out ++ [[(v.dieClock 0).toNat, id v]] }))
      | _ => false)
    | _ => false
theorem seals_of {c : Nat} : ∀ {l : List (List Byte)} {s : State}, sealsTo c l s = true → ∃ t, Seals c l s t
  | [], s, _ => ⟨s, rfl⟩
  | r :: l, s, h => by
    simp only [sealsTo] at h
    split at h
    · rename_i u e1
      split at h
      · rename_i v e2
        by_cases hc : (if (v.ctx c).count = 0 then 0 else c * 2 ^ 40 + (v.ctx c).count) = (if (s.ctx c).count = 0 then 0 else c * 2 ^ 40 + (s.ctx c).count)
        · rw [if_pos hc] at h
          obtain ⟨t, ht⟩ := seals_of h
          exact ⟨t, u, v, e1, e2, by simp only; rw [if_pos hc]; exact ht⟩
        · rw [if_neg hc] at h
          obtain ⟨t, ht⟩ := seals_of h
          exact ⟨t, u, v, e1, e2, by simp only; rw [if_neg hc]; exact ht⟩
      · cases h
    · cases h
theorem wit_Debugger_records : sealsTo 0 [rec launchRec, rec launchRec] (dbg id none) = true := by decide +kernel
theorem wit_Debugger_memory :
    let s := dbg (fun z => { z with cur := some 0 }) none
    Meant s none 0 ∧ isLocal 0xFF00000000000000 = true ∧ (s.th 0).sb = []
      ∧ (match (translate s 0 (s.th 0).ctx true 0x30000 .read).2 with | .ok p => p.1 == 0x50000 | .error _ => false) = true
      ∧ (match (translate s 0 (s.th 0).ctx true 0x60000 .read).2 with | .ok _ => false | .error _ => true) = true
      ∧ (peekByte s 0 0x30000).isSome = true ∧ peekByte s 0 0x60000 = none
      ∧ (∀ w ∈ tget [] ((s.stack (stackOf 0x50000)).msc) (mscSet (offOf 0x50000)), w.pf ≠ 0x50000 / 512)
      ∧ (tget [] (s.die 0).sets (sliceOf 0x50000 * 384 + setOf 0x50000)).filter (fun x => x.frame == 0x50000 / 512) = [] := by
  refine ⟨rfl, ?_, rfl, ?_, ?_, ?_, ?_, ?_, ?_⟩ <;> decide +kernel
theorem wit_Debugger_meant : Meant (dbg id none) (some 0) 0 ∧ Meant (dbg id none) (some 1) 4 := by
  refine ⟨Or.inl ⟨0, by decide, rfl, by unfold OfSession; decide, fun i h => absurd h (by omega)⟩, Or.inr ⟨rfl, ?_⟩⟩
  intro i _ h
  have := onlyZero _ _ _ h
  omega

end Sys2Proof.Tests
end

section
/-! PROOFS. Special registers (R398 and the registers' own rules) and what the machine holds at reset. -/
namespace Sys2Proof.Proofs
open Sys2Proof.Machine Sys2Proof.Claims Sys2Proof.Laws

/-! ### Reset -/

/-- R104: with no cache portion the save area begins 16 KiB below the end of the Loft. -/
theorem ctxBase_reset (q : Nat) : ctxBase State.reset q = 0x7C000 := by
  have h : cachePart (State.reset.core q).loftCur = 0 := rfl
  unfold ctxBase scratch
  rw [h]

/-- Every table of the reset state is empty, so each register reads its type's default. -/
theorem resetState_holds : resetState :=
  ⟨rfl, fun q => ⟨rfl, rfl, rfl, rfl, rfl, rfl, ctxBase_reset q⟩, fun _ => rfl, fun _ => ⟨rfl, rfl, rfl, rfl, rfl, rfl, rfl⟩,
    fun _ => ⟨rfl, fun _ => rfl⟩, fun _ => ⟨rfl, fun _ => rfl⟩,
    fun _ => ⟨rfl, rfl, rfl, rfl, rfl, rfl, rfl, rfl, rfl, rfl, rfl, rfl, rfl, rfl, rfl⟩, fun _ => ⟨rfl, rfl⟩,
    rfl, rfl, fun _ => rfl, fun _ => rfl, fun _ => ⟨rfl, rfl, rfl⟩⟩

theorem resetMemory_holds : resetMemory := ⟨by decide, rfl, rfl⟩

/-- Settles O21: no table of the reset state lists anything. -/
theorem resetHolds : Obligations.ResetHolds := ⟨resetState_holds, resetMemory_holds⟩

/-! ### The acting thread's place -/

theorem dieOf_coreOf (th : Nat) : dieOf (coreOf th) = th / 1024 := Nat.div_div_eq_div_mul th 4 256
theorem clusOf_coreOf (th : Nat) : clusOf (coreOf th) = th / 32 := Nat.div_div_eq_div_mul th 4 8

theorem guardOk_of_ready {s : State} {g : Guard} (h : Ready s g) : s.me.guardOk g = true := by
  rw [Thread.guardOk, h.1]; cases g.pgn <;> rfl

/-! ### What a step leaves of the threads and the memories -/

/-- The threads, which of them acts, and the memories are as before. -/
structure LeavesThreads (s t : State) : Prop where
  threads : t.threads = s.threads
  cur : t.cur = s.cur
  loc : t.loc = s.loc
  dram : t.dram = s.dram

namespace LeavesThreads

theorem refl (s : State) : LeavesThreads s s := ⟨rfl, rfl, rfl, rfl⟩

theorem trans {s t u : State} (h : LeavesThreads s t) (k : LeavesThreads t u) : LeavesThreads s u :=
  ⟨k.threads.trans h.threads, k.cur.trans h.cur, k.loc.trans h.loc, k.dram.trans h.dram⟩

theorem th {s t : State} (h : LeavesThreads s t) (i : Nat) : t.th i = s.th i := by simp only [State.th, h.threads]

theorem me {s t : State} (h : LeavesThreads s t) : t.me = s.me := by simp only [State.me, h.cur, h.th]

theorem modCore (s : State) (q : Nat) (f : Core → Core) : LeavesThreads s (s.modCore q f) := ⟨rfl, rfl, rfl, rfl⟩
theorem modClus (s : State) (c : Nat) (f : Cluster → Cluster) : LeavesThreads s (s.modClus c f) := ⟨rfl, rfl, rfl, rfl⟩
theorem modDie (s : State) (d : Nat) (f : Die → Die) : LeavesThreads s (s.modDie d f) := ⟨rfl, rfl, rfl, rfl⟩

theorem foldl {α : Type} {f : State → α → State} (h : ∀ s x, LeavesThreads s (f s x)) (l : List α) (s : State) :
    LeavesThreads s (l.foldl f s) := by
  induction l generalizing s with
  | nil => exact refl s
  | cons x l ih => exact (h s x).trans (ih _)

/-- A change that leaves the threads, and then the end of an instruction. -/
theorem goesOn {s t : State} (h : LeavesThreads s t) (len : Nat) : GoesOn s (t.retireWith len id) len id := by
  refine ⟨?_, rfl, h.cur, fun i hi => ?_, (State.retireWith_loc ..).trans h.loc, (State.retireWith_dram ..).trans h.dram⟩
  · rw [State.me_retireWith, State.me_retireWith, h.me]
  · rw [State.th_retireWith_other _ _ _ (h.cur ▸ hi), h.th]

end LeavesThreads

@[simp] theorem me_modMe (s : State) (f : Thread → Thread) : (s.modMe f).me = f s.me := State.th_setTh_same s s.cur _

/-- A change of the acting thread's registers, and then the end of an instruction. -/
theorem goesOn_modMe (s : State) (len : Nat) (f : Thread → Thread) : GoesOn s ((s.modMe f).retireWith len id) len f := by
  refine ⟨?_, rfl, State.retireWith_cur (s.modMe f) len id, fun i hi => ?_, State.retireWith_loc (s.modMe f) len id,
    State.retireWith_dram (s.modMe f) len id⟩
  · rw [State.me_retireWith, State.me_retireWith, me_modMe, id]
  · rw [State.th_retireWith_other (s.modMe f) len id hi, State.modMe_eq, State.th_setTh, if_neg hi]

/-- A change of a die, and then the end of an instruction. -/
theorem goesOn_modDie (s : State) (d : Nat) (f : Die → Die) : GoesOn s ((s.modDie d f).retireWith 8 id) 8 id
    ∧ ∀ k, ((s.modDie d f).retireWith 8 id).die k = if k = d then f (s.die d) else s.die k := by
  refine ⟨(LeavesThreads.modDie s d f).goesOn 8, fun k => ?_⟩
  rw [State.die_retireWith, State.modDie_eq, State.die_setDie]

/-- A change of a core, and then the end of an instruction. -/
theorem goesOn_modCore (s : State) (q : Nat) (f : Machine.Core → Machine.Core) : GoesOn s ((s.modCore q f).retireWith 8 id) 8 id
    ∧ ∀ k, ((s.modCore q f).retireWith 8 id).core k = if k = q then f (s.core q) else s.core k := by
  refine ⟨(LeavesThreads.modCore s q f).goesOn 8, fun k => ?_⟩
  rw [State.core_retireWith, State.modCore_eq, State.core_setCore]

/-! ### Reading (R398) -/

/-- The registers that R398 lets only supervisor mode read are those from sr.TVEC to sr.FQCMD. -/
theorem srReadPriv_iff (ix : Nat) : srReadPriv ix = true ↔ 0x83 ≤ ix ∧ ix ≤ 0x86 := by simp [srReadPriv]

/-- sr.CHUTE's stall mask is a sum of bits from bit 40. -/
theorem sum_pow_add (k : Nat) (l : List Nat) : (l.map (fun n => 2 ^ n)).sum * 2 ^ k = (l.map (fun n => 2 ^ (k + n))).sum := by
  induction l with
  | nil => exact Nat.zero_mul _
  | cons n l ih => rw [List.map_cons, List.map_cons, List.sum_cons, List.sum_cons, Nat.add_mul, ih, Nat.pow_add, Nat.mul_comm (2 ^ k)]

/-- The fields of sr.THREADID (R97). -/
theorem threadAddr_fields (s : State) : threadAddr s s.cur = BitVec.ofNat 64 (s.devId.toNat + s.cur / 1024 * 2 ^ 21 + s.cur / 32 % 32 * 2 ^ 23
    + s.cur / 4 % 8 * 2 ^ 28 + s.cur % 4 * 2 ^ 31 + s.me.gen.toNat * 2 ^ 33) := by
  simp only [threadAddr, dieOf_coreOf, clusOf_coreOf, Nat.mul_comm (2 ^ _)]
  rfl

/-- The bytes of sr.LEVIDX (R95), index by index. -/
theorem idx_fields (l : List Nat) : l.foldr (fun i acc => i % 256 + 256 * acc) 0 = l.foldr (fun i acc => i % 2 ^ 8 + acc * 2 ^ 8) 0 := by
  simp only [Nat.mul_comm 256, Nat.reducePow]

/-- The crew's share on the acting thread's core, where it has one. -/
theorem myShare_eq {s : State} {x : Share} (h : (s.node s.me.node).place.find? (fun x => x.q == s.cur / 4) = some x) : myShare s = x := by
  unfold myShare coreOf; rw [h]; rfl

theorem b2n_mul (c : Bool) (n : Nat) : b2n c * n = if c then n else 0 := by
  cases c
  · exact Nat.zero_mul n
  · exact Nat.one_mul n

/-- The held bit of sr.RXSIZE (R116). -/
theorem heldTooBig_field (s : State) : s.me.rxsize.toNat % 2 ^ 20 + b2n (heldTooBig s) * 2 ^ 31 = s.me.rxsize.toNat % 2 ^ 20
    + if (s.core (s.cur / 4)).asm.any (fun p => p.held && threadOfAddr p.dst == s.cur
        && decide (s.me.rxsize.toNat % 2 ^ 20 < 64 + 64 * p.beats.length))
      then 2 ^ 31 else 0 := congrArg (s.me.rxsize.toNat % 2 ^ 20 + ·) (b2n_mul _ _)

/-- The fields of sr.CHUTE (R166). -/
theorem chuteReg_fields (c : Machine.Core) : chuteReg c = c.out % 2 ^ 19 + c.round * 2 ^ 28 + (c.rounds.length + 1) * 2 ^ 32
    + ((c.stalled.map (·.2)).eraseDups.map (fun st => 2 ^ (40 + st))).sum := by
  rw [← sum_pow_add, chuteReg, ← List.sum_eq_foldl]
  omega

/-- R398: the value of each register of the list, field by field, is what the model reads. -/
theorem readSr_of_srValue {s : State} {ix : Nat} {x : Word} (h : srValue s ix = some x) : readSr s ix = x := by
  unfold srValue at h
  split at h
  all_goals simp only [readSr, dieOf_coreOf, clusOf_coreOf]
  case h_2 => exact (threadAddr_fields s).trans (Option.some.inj h) -- sr.THREADID
  case h_5 => exact (congrArg (BitVec.ofNat 64) (idx_fields _)).trans (Option.some.inj h) -- sr.LEVIDX
  case h_6 => exact (congrArg (BitVec.ofNat 64) (by omega)).trans (Option.some.inj h) -- sr.EPRIO
  case h_7 => -- sr.LOFTPART, where the crew has a share of the core
    obtain ⟨y, hy, rfl⟩ := Option.map_eq_some_iff.1 h
    rw [myShare_eq hy, Nat.add_comm]
  case h_14 => exact (congrArg (BitVec.ofNat 64) (heldTooBig_field s)).trans (Option.some.inj h) -- sr.RXSIZE
  case h_24 => exact (congrArg (BitVec.ofNat 64) (Nat.add_comm _ _)).trans (Option.some.inj h) -- sr.LOFTSPLIT
  case h_29 => exact (congrArg (BitVec.ofNat 64) (chuteReg_fields _)).trans (Option.some.inj h) -- sr.CHUTE
  case h_37 => exact (congrArg (BitVec.ofNat 64) (Nat.add_comm _ _)).trans (Option.some.inj h) -- sr.FQPTR
  case h_39 => cases h
  all_goals exact Option.some.inj h

theorem exec_rdsr {g : Guard} {o : OpI} {s : State} {x : Word} (hr : Ready s g) (hx : srValue s (o.imm.toNat % 65536) = some x)
    (hp : 0x83 ≤ o.imm.toNat % 65536 ∧ o.imm.toNat % 65536 ≤ 0x86 → s.me.status.getLsbD 0 = true) :
    exec (.rdsr g o) s = .next (s.retireWith 8 (fun t => t.wg o.rd x)) := by
  rw [← readSr_of_srValue hx]
  refine scalarOp_ready (guardOk_of_ready hr) hr.2 ?_ (.inl rfl)
  by_cases h : srReadPriv (srIndex o) = true
  · exact .inr (hp ((srReadPriv_iff _).1 h))
  · exact .inl (if_neg h)

/-! ### Writing (R398): the privilege check, the register's own rule, the end of the instruction -/

section
variable {g : Guard} {o : OpI} {s t : State} {f : Word → M PUnit}

/-- A register that user mode may write passes the privilege check. -/
theorem userWritable {n : Nat} (hx : o.imm.toNat % 65536 = n) (hn : srWritePriv n = false) :
    srWritePriv (srIndex o) = true → s.me.sup = true := by rw [srIndex, hx, hn]; exact nofun

/-- A wrsr that the mode allows does its register's work. -/
theorem srWrite_ready (hr : Ready s g) (hp : srWritePriv (srIndex o) = true → s.me.sup = true) :
    srWrite g o s f = .next (work (do f (s.me.rg o.ra); done 8 id) s) := by
  refine scalarOp_ready (guardOk_of_ready hr) hr.2 ?_ (.inl rfl)
  by_cases h : srWritePriv (srIndex o) = true
  · exact .inr (hp h)
  · exact .inl (if_neg h)

/-- Work that runs to its end is followed by the end of the instruction. -/
theorem srWrite_done (hr : Ready s g) (hp : srWritePriv (srIndex o) = true → s.me.sup = true)
    (h : (f (s.me.rg o.ra)).run s = (.ok ⟨⟩, t)) : srWrite g o s f = .next (t.retireWith 8 id) := by
  rw [srWrite_ready hr hp, work_ok ((run_bind_ok h).trans (run_done 8 id t))]

/-- Work that traps leaves its trap. -/
theorem srWrite_trap {x : Fail} (hr : Ready s g) (hp : srWritePriv (srIndex o) = true → s.me.sup = true)
    (h : (f (s.me.rg o.ra)).run s = (.error (.trap x), t)) : srWrite g o s f = .next (trapOf t x) := by
  rw [srWrite_ready hr hp, work_trap (run_bind_stop h)]

/-- Work whose check decides between its end and its trap. -/
theorem srWrite_checked {c : Bool} {P : Prop} [Decidable P] {x : Fail} (hc : c = true ↔ P) (hr : Ready s g)
    (hp : srWritePriv (srIndex o) = true → s.me.sup = true)
    (h : (f (s.me.rg o.ra)).run s = if c then (.ok ⟨⟩, t) else (.error (.trap x), s)) :
    srWrite g o s f = .next (if P then t.retireWith 8 id else trapOf s x) := by
  by_cases hP : P
  · rw [if_pos hP]
    exact srWrite_done hr hp (h.trans (if_pos (hc.2 hP)))
  · rw [if_neg hP]
    exact srWrite_trap hr hp (h.trans (if_neg fun hc' => hP (hc.1 hc')))

variable {ok : Word → Bool} {i : Instr} {r : Res}

theorem srLegal_of_ok (h : ok (s.me.rg o.ra) = true) : srLegal g o s ok i r = r := by simp [srLegal, h]

theorem srLegal_of_not_ok (hr : Ready s g) (hp : srWritePriv (srIndex o) = true → s.me.sup = true) (h : ok (s.me.rg o.ra) = false) :
    srLegal g o s ok i r = .next (trap s 0x01 (firstWord i).toNat 8 false false) := by
  have hm : (s.me.sup || !srWritePriv (srIndex o)) = true := by
    cases hw : srWritePriv (srIndex o) <;> simp [hp, hw]
  rw [srLegal, guardOk_of_ready hr, hm, h]
  rfl

/-! ### Registers of the thread and of the die (R95, R178, R206, R215, R341) -/

/-- The masks of sr.EPC and sr.EBT clear the low two bits. -/
theorem not_three : ~~~(3#64) = 0xFFFFFFFFFFFFFFFC#64 := by decide

theorem execWrsr_thread (hr : Ready s g) (h : (srThread (s.me.rg o.ra) (o.imm.toNat % 65536) s.me).isSome = true) :
    execWrsr g o s = .next ((s.modMe (fun t => (srThread (s.me.rg o.ra) (o.imm.toNat % 65536) t).getD t)).retireWith 8 id) := by
  unfold srThread at h
  split at h
  case h_12 => cases h
  all_goals
    rename_i hx
    refine srWrite_done hr (userWritable hx rfl) ?_
    simp only [srIndex, hx, not_three]
    rfl

theorem execWrsr_die {x : Die} (hr : Ready s g) (hs : s.me.sup = true)
    (h : srDie (s.me.rg o.ra) (o.imm.toNat % 65536) (s.die (s.cur / 1024)) = some x) :
    execWrsr g o s = .next ((s.modDie (s.cur / 1024) (fun _ => x)).retireWith 8 id) := by
  unfold srDie at h
  split at h
  case h_5 => cases h
  all_goals
    rename_i hx
    refine srWrite_done hr (fun _ => hs) ?_
    simp only [srIndex, hx, ← Option.some.inj h, ← dieOf_coreOf]
    rfl

end

@[simp] theorem run_setMe (f : Thread → Thread) (s : State) : (setMe f).run s = (.ok ⟨⟩, s.modMe f) := rfl
@[simp] theorem run_setDie' (f : Die → Die) (s : State) : (setDie' f).run s = (.ok ⟨⟩, s.modDie (dieOf (coreOf s.cur)) f) := rfl
@[simp] theorem run_setCore' (f : Machine.Core → Machine.Core) (s : State) :
    (setCore' f).run s = (.ok ⟨⟩, s.modCore (coreOf s.cur) f) := rfl

/-- A check, and then the work that it guards. -/
theorem run_demand_bind (c : Bool) (cause info : Nat) (m : M PUnit) (s : State) :
    (do demand c cause info; m).run s = if c then m.run s else (.error (.trap ⟨cause, info⟩), s) := by cases c <;> rfl

/-- Keeping the low bits of a word by a mask or by a remainder. -/
theorem ofNat_mod_two_pow (v : Word) {k : Nat} (h : k ≤ 64) : BitVec.ofNat 64 (v.toNat % 2 ^ k) = v &&& BitVec.ofNat 64 (2 ^ k - 1) := by
  have hk : 2 ^ k ≤ 2 ^ 64 := Nat.pow_le_pow_right (by decide) h
  have hp : 0 < 2 ^ k := Nat.two_pow_pos k
  have hv : v.toNat % 2 ^ k < 2 ^ 64 := Nat.lt_of_lt_of_le (Nat.mod_lt _ hp) hk
  apply BitVec.eq_of_toNat_eq
  have hm : (2 ^ k - 1) % 2 ^ 64 = 2 ^ k - 1 := Nat.mod_eq_of_lt (by omega)
  rw [BitVec.toNat_and, BitVec.toNat_ofNat, BitVec.toNat_ofNat, Nat.mod_eq_of_lt hv, hm, Nat.and_two_pow_sub_one_eq_mod]

section
variable {g : Guard} {o : OpI} {s : State}

/-! ### sr.STATUS (R254) -/

theorem execStatusWrite_ok (hr : Ready s g) (hx : o.imm.toNat % 65536 = 0x000) (hv : (s.me.rg o.ra).toNat / 32 % 8 < 6) :
    execStatusWrite g o s =
      .next ((s.modMe (fun t => { t with status := (s.me.rg o.ra &&& 0x3F03FC) ||| (t.status &&& 1) })).retireWith 8 id) := by
  unfold execStatusWrite
  rw [srLegal_of_ok (decide_eq_true hv)]
  exact srWrite_done hr (userWritable hx rfl) (run_setMe ..)

theorem execStatusWrite_illegal (hr : Ready s g) (hx : o.imm.toNat % 65536 = 0x000) (hv : 6 ≤ (s.me.rg o.ra).toNat / 32 % 8) :
    execStatusWrite g o s = .next (trap s 0x01 (firstWord (.statusWrite g o)).toNat 8 false false) := by
  unfold execStatusWrite
  exact srLegal_of_not_ok hr (userWritable hx rfl) (decide_eq_false (Nat.not_lt.2 hv))

/-! ### The receive ring (R116) -/

theorem execRxRingRegWrite_base (hr : Ready s g) (hx : o.imm.toNat % 65536 = 0x010) :
    let v := s.me.rg o.ra
    execRxRingRegWrite g o s = .next
      (if v.toNat % 64 = 0 ∧ ringOk s (v.toNat % 2 ^ 19) (s.me.rxsize.toNat % 2 ^ 20) = true
        then (s.modMe (fun t => { t with rxbase := v &&& 0x7FFC0, rxhead := 0, rxtail := 0 })).retireWith 8 id
        else trap s 0x05 v.toNat 8 false false) := by
  intro v
  unfold execRxRingRegWrite
  refine srWrite_checked (c := v.toNat % 64 == 0 && ringOk s (v.toNat % 2 ^ 19) (s.me.rxsize.toNat % 2 ^ 20)) (x := ⟨cADDR, v.toNat⟩)
    (by rw [Bool.and_eq_true, beq_iff_eq]) hr (userWritable hx rfl) ?_
  rw [run_bind_ok (run_get s), srIndex, hx]
  exact run_demand_bind ..

theorem execRxRingRegWrite_size (hr : Ready s g) (hx : o.imm.toNat % 65536 = 0x011) :
    let v := s.me.rg o.ra
    execRxRingRegWrite g o s = .next
      (if (v.toNat % 2 ^ 20 = 0 ∨ ∃ i, i < 10 ∧ v.toNat % 2 ^ 20 = 2 ^ (10 + i)) ∧
          ringOk s (s.me.rxbase.toNat % 2 ^ 19) (v.toNat % 2 ^ 20) = true
        then (s.modMe (fun t => { t with rxsize := v &&& 0xFFFFF, rxhead := 0, rxtail := 0 })).retireWith 8 id
        else trap s 0x05 v.toNat 8 false false) := by
  intro v
  unfold execRxRingRegWrite
  refine srWrite_checked (c := (v.toNat % 2 ^ 20 == 0 || (List.range 10).any (fun i => v.toNat % 2 ^ 20 == 2 ^ (10 + i)))
    && ringOk s (s.me.rxbase.toNat % 2 ^ 19) (v.toNat % 2 ^ 20)) (x := ⟨cADDR, v.toNat⟩)
    (by simp only [Bool.and_eq_true, Bool.or_eq_true, beq_iff_eq, List.any_eq_true, List.mem_range]) hr (userWritable hx rfl) ?_
  have hm : v &&& 0xFFFFF = BitVec.ofNat 64 (v.toNat % 2 ^ 20) := (ofNat_mod_two_pow v (k := 20) (by decide)).symm
  rw [run_bind_ok (run_get s), srIndex, hx, hm]
  exact run_demand_bind ..

/-- The bytes in use of a ring, as a difference of its 32-bit pointers. -/
theorem ring_used (a v : Word) : (a.toNat + 2 ^ 32 - v.toNat % 2 ^ 32) % 2 ^ 32 = (a.setWidth 32 - v.setWidth 32 : BitVec 32).toNat := by
  rw [BitVec.toNat_sub, BitVec.toNat_setWidth, BitVec.toNat_setWidth]
  omega

theorem execRxheadWrite_eq (hr : Ready s g) (hx : o.imm.toNat % 65536 = 0x012) :
    let v := s.me.rg o.ra
    execRxheadWrite g o s = .next ((s.modMe (fun t => { t with
      rxhead := if (t.rxtail.setWidth 32 - v.setWidth 32 : BitVec 32).toNat > t.rxsize.toNat % 2 ^ 20 then t.rxtail
        else (v.setWidth 32 : BitVec 32).setWidth 64 })).retireWith 8 id) := by
  intro v
  have hv : (v.setWidth 32 : BitVec 32).setWidth 64 = BitVec.ofNat 64 (v.toNat % 2 ^ 32) := by
    apply BitVec.eq_of_toNat_eq; simp
  unfold execRxheadWrite
  simp only [← ring_used, hv]
  exact srWrite_done hr (userWritable hx rfl) (run_setMe ..)

/-! ### Registers of the core (R105, R121, R160) -/

theorem execLoftsplitWrite_eq (hr : Ready s g) (hs : s.me.sup = true) :
    execLoftsplitWrite g o s = .next ((s.modCore (s.cur / 4) (fun c => { c with loftReq := (s.me.rg o.ra).toNat % 4 })).retireWith 8 id) :=
  srWrite_done hr (fun _ => hs) (run_setCore' ..)

theorem execWallowWrite_ok (hr : Ready s g) (hs : s.me.sup = true) (hv : 1 ≤ (s.me.rg o.ra).toNat % 128 ∧ (s.me.rg o.ra).toNat % 128 ≤ 64) :
    execWallowWrite g o s = .next ((s.modCore (s.cur / 4) (fun c => { c with wallow := s.me.rg o.ra &&& 0x7F })).retireWith 8 id) := by
  have hm : s.me.rg o.ra &&& 0x7F = BitVec.ofNat 64 ((s.me.rg o.ra).toNat % 128) := (ofNat_mod_two_pow _ (k := 7) (by decide)).symm
  unfold execWallowWrite
  rw [srLegal_of_ok (by simpa using hv), hm]
  exact srWrite_done hr (fun _ => hs) (run_setCore' ..)

theorem execWallowWrite_illegal (hr : Ready s g) (hs : s.me.sup = true)
    (hv : ¬ (1 ≤ (s.me.rg o.ra).toNat % 128 ∧ (s.me.rg o.ra).toNat % 128 ≤ 64)) :
    execWallowWrite g o s = .next (trap s 0x01 (firstWord (.wallowWrite g o)).toNat 8 false false) := by
  unfold execWallowWrite
  exact srLegal_of_not_ok hr (fun _ => hs) (by simpa using hv)

/-! ### sr.FQCFG (R178) -/

theorem execFqcfgWrite_eq (hr : Ready s g) (hs : s.me.sup = true) :
    let v := s.me.rg o.ra
    execFqcfgWrite g o s = .next
      (if v.toNat / 2 ^ 32 % 16 ≤ 10 ∧ v.toNat / 32 % 2 ^ 19 * 32 + 2 ^ (v.toNat / 2 ^ 32 % 16 + 6) * 32 ≤ 2 ^ 24
        then (s.modDie (dieOf (coreOf s.cur)) (fun d => { d with fqcfg := v &&& 0xFFFF000F00FFFFE0 })).retireWith 8 id
        else trap s 0x05 v.toNat 8 false false) := by
  intro v
  unfold execFqcfgWrite
  refine srWrite_checked (c := decide (bits v.toNat 35 32 ≤ 10) && decide (bits v.toNat 23 5 * 32 + 2 ^ (bits v.toNat 35 32 + 6) * 32 ≤ 2 ^ 24))
    (x := ⟨cADDR, v.toNat⟩) (by simp only [Bool.and_eq_true, decide_eq_true_eq]; exact Iff.rfl) hr (fun _ => hs) ?_
  exact run_demand_bind ..

/-! ### sr.WIREGRP and sr.WIRETMO (R121) -/

/-- What a write of a wire register leaves pending at its core. -/
def wirePending (ix : Nat) (v : Word) (c : Machine.Core) : Machine.Core :=
  if ix = 0x043 then { c with wireNew := some (v &&& 0xFFFFF) } else { c with tmoNew := some (v &&& 0xFFFFFFFF) }

theorem execWireRegWrite_eq (hr : Ready s g) (hx : o.imm.toNat % 65536 = 0x043 ∨ o.imm.toNat % 65536 = 0x044) :
    execWireRegWrite g o s = .next ((wireSettle (s.modCore (s.cur / 4) (wirePending (o.imm.toNat % 65536) (s.me.rg o.ra)))
      (s.cur / 4)).retireWith 8 id) := by
  unfold execWireRegWrite
  rcases hx with hx | hx
  all_goals
    refine srWrite_done hr (userWritable hx rfl) ?_
    simp only [srIndex, hx]
    rfl

@[simp] theorem wiregrp_wirePending (ix : Nat) (v : Word) (c : Machine.Core) : (wirePending ix v c).wiregrp = c.wiregrp := by
  unfold wirePending; split <;> rfl
@[simp] theorem wiretmo_wirePending (ix : Nat) (v : Word) (c : Machine.Core) : (wirePending ix v c).wiretmo = c.wiretmo := by
  unfold wirePending; split <;> rfl
theorem wireNew_wirePending (v : Word) (c : Machine.Core) : (wirePending 0x043 v c).wireNew = some (v &&& 0xFFFFF) := rfl
theorem tmoNew_wirePending (v : Word) (c : Machine.Core) : (wirePending 0x044 v c).tmoNew = some (v &&& 0xFFFFFFFF) := rfl

/-- While a slot of the core waits in wirebar, nothing takes effect. -/
theorem wireSettle_of_waits {q : Nat} (h : ∃ k : Fin 4, (s.th (q * 4 + k.val)).wire.isSome = true) : wireSettle s q = s := by
  obtain ⟨k, hk⟩ := h
  unfold wireSettle
  rw [if_pos (List.any_eq_true.2 ⟨k.val, List.mem_range.2 k.isLt, hk⟩)]

theorem wireSettle_of_none {q : Nat} (h : ¬ ∃ k : Fin 4, (s.th (q * 4 + k.val)).wire.isSome = true) :
    wireSettle s q = s.modCore q (fun c => { c with
      wiregrp := c.wireNew.getD c.wiregrp
      wiretmo := c.tmoNew.getD c.wiretmo
      wireNew := none
      tmoNew := none }) := by
  unfold wireSettle
  refine if_neg fun ha => ?_
  obtain ⟨k, hk, hw⟩ := List.any_eq_true.1 ha
  exact h ⟨⟨k, List.mem_range.1 hk⟩, hw⟩

theorem wireSettle_leaves (s : State) (q : Nat) : LeavesThreads s (wireSettle s q) := by
  unfold wireSettle
  split
  · exact .refl s
  · exact .modCore ..

theorem core_wireSettle_other (s : State) {q k : Nat} (h : k ≠ q) : (wireSettle s q).core k = s.core k := by
  unfold wireSettle
  split
  · rfl
  · rw [State.modCore_eq, State.core_setCore, if_neg h]

/-! ### sr.VICGROUP (R106): the pool copies go first -/

theorem setPhw_leaves (s : State) (d p tag : Nat) : LeavesThreads s (setPhw s d p tag) := .modDie ..
theorem modHeld_leaves (s : State) (d p : Nat) (f : SheafWord → SheafWord) : LeavesThreads s (modHeld s d p f) := .modDie ..
@[simp] theorem core_setPhw (s : State) (d p tag k : Nat) : (setPhw s d p tag).core k = s.core k := rfl
@[simp] theorem core_modHeld (s : State) (d p k : Nat) (f : SheafWord → SheafWord) : (modHeld s d p f).core k = s.core k := rfl

theorem tdel_tins {α : Type} (n : Nat) (x : α) (t : Table α) : tdel n (tins n x t) = tdel n t := by
  induction t with
  | nil => simp [tins, tdel]
  | cons e t ih =>
    obtain ⟨k, v⟩ := e
    unfold tins
    split
    · simp [tdel]
    · split
      next hk => simp [tdel, hk]
      next hk =>
        unfold tdel at ih ⊢
        rw [List.filter_cons, List.filter_cons, ih]

theorem mem_tdel {α : Type} {n : Nat} {e : Nat × α} {t : Table α} : e ∈ tdel n t ↔ e ∈ t ∧ e.1 ≠ n := by simp [tdel]

theorem l1Back_leaves (s : State) (q p : Nat) : LeavesThreads s (l1Back s q p) := by
  unfold l1Back
  split
  · split
    · exact ((setPhw_leaves ..).trans (modHeld_leaves ..)).trans (.modCore ..)
    · exact .refl s
  · exact .refl s

/-- Writing a copy back changes nothing of the cores' caches but that copy's entry. -/
theorem tdel_l1Back (s : State) (q p : Nat) : tdel p ((l1Back s q p).core q).l1 = tdel p (s.core q).l1 := by
  unfold l1Back
  split
  · split
    · rw [State.modCore_eq, State.core_setCore_same]
      exact tdel_tins ..
    · rfl
  · rfl

theorem core_l1Back_other (s : State) {q k : Nat} (p : Nat) (h : k ≠ q) : (l1Back s q p).core k = s.core k := by
  unfold l1Back
  split
  · split
    · rw [State.modCore_eq, State.core_setCore, if_neg h, core_modHeld, core_setPhw]
    · rfl
  · rfl

theorem l1Drop_leaves (s : State) (q p : Nat) : LeavesThreads s (l1Drop s q p) := by
  unfold l1Drop
  split
  · have h := (l1Back_leaves s q p).trans (.modCore _ q (fun c => { c with l1 := tdel p c.l1 }))
    dsimp only
    split
    · exact h.trans (modHeld_leaves ..)
    · exact h
  · exact .refl s

/-- A drop takes the copies of one word from one core's cache, and nothing else from any. -/
theorem l1_l1Drop (s : State) (q p k : Nat) :
    ((l1Drop s q p).core k).l1 = if k = q then tdel p (s.core q).l1 else (s.core k).l1 := by
  unfold l1Drop
  split
  next l hl =>
    have hc : (((l1Back s q p).modCore q (fun c => { c with l1 := tdel p c.l1 })).core k).l1
        = if k = q then tdel p (s.core q).l1 else (s.core k).l1 := by
      rw [State.modCore_eq, State.core_setCore]
      split
      · exact tdel_l1Back ..
      next hk => rw [core_l1Back_other s p hk]
    dsimp only
    split
    · rw [core_modHeld, hc]
    · exact hc
  next hn =>
    split
    next hk =>
      have hf : (s.core q).l1.find? (fun e => e.1 == p) = none := Option.map_eq_none_iff.1 hn
      rw [hk, tdel, List.filter_eq_self.2]
      simpa using hf
    · rfl

/-- A core's pool copies go (R106). -/
def dropPool (s : State) (q : Nat) : State := ((s.core q).l1.filter (fun e => e.2.pool)).foldl (fun s e => l1Drop s q e.1) s

theorem dropPool_leaves (s : State) (q : Nat) : LeavesThreads s (dropPool s q) := .foldl (fun _ _ => l1Drop_leaves ..) _ _

theorem mem_l1_foldl_l1Drop {q k : Nat} {e : Nat × L1Word} (es : List (Nat × L1Word)) (s : State) :
    e ∈ ((es.foldl (fun s e => l1Drop s q e.1) s).core k).l1 ↔ e ∈ (s.core k).l1 ∧ (k = q → ∀ x ∈ es, e.1 ≠ x.1) := by
  induction es generalizing s with
  | nil => simp
  | cons x es ih =>
    rw [List.foldl_cons, ih, l1_l1Drop]
    split
    next hk => simp [hk, mem_tdel, and_assoc]
    next hk => simp [hk]

/-- What is left of the caches was there, and is no pool copy of the core. -/
theorem mem_l1_of_dropPool {s : State} {q k : Nat} {e : Nat × L1Word} (h : e ∈ ((dropPool s q).core k).l1) :
    e ∈ (s.core k).l1 ∧ (k = q → e.2.pool = false) := by
  obtain ⟨he, hk⟩ := (mem_l1_foldl_l1Drop _ s).1 h
  exact ⟨he, fun hq => Bool.eq_false_iff.2 fun hp => hk hq e (List.mem_filter.2 ⟨hq ▸ he, hp⟩) rfl⟩

theorem mem_l1_of_foldl_dropPool {k : Nat} {e : Nat × L1Word} (qs : List Nat) {s : State}
    (h : e ∈ ((qs.foldl dropPool s).core k).l1) : e ∈ (s.core k).l1 ∧ (k ∈ qs → e.2.pool = false) := by
  induction qs generalizing s with
  | nil => exact ⟨h, nofun⟩
  | cons q qs ih =>
    obtain ⟨he, hqs⟩ := ih h
    obtain ⟨hs, hq⟩ := mem_l1_of_dropPool he
    exact ⟨hs, fun hk => (List.mem_cons.1 hk).elim hq hqs⟩

/-- The cores of a cluster (R96). -/
def clusterCores (cl : Nat) : List Nat := (List.range 8).map (fun c => cl * 8 + c)

theorem mem_clusterCores {cl k : Nat} (h : k / 8 = cl) : k ∈ clusterCores cl :=
  List.mem_map.2 ⟨k % 8, List.mem_range.2 (Nat.mod_lt _ (by decide)), by omega⟩

theorem execVicgroupWrite_eq (hr : Ready s g) (hs : s.me.sup = true) :
    execVicgroupWrite g o s = .next ((((clusterCores (clusOf (coreOf s.cur))).foldl dropPool s).modClus (clusOf (coreOf s.cur))
      (fun c => { c with vicgroup := s.me.rg o.ra &&& 0xFF })).retireWith 8 id) := by
  unfold execVicgroupWrite clusterCores
  rw [List.foldl_map]
  exact srWrite_done hr (fun _ => hs) (run_modify ..)

/-! ### sr.FQCMD (R178) -/

/-- The jobs of a die that are parked under a TOKEN. -/
def parkedJobs (s : State) (d tok : Nat) : List (Nat × Job) :=
  ((List.range 32).map (fun k => ((s.clus (d * 32 + k)).jobs.filter (fun j => parkedAs tok j.park)).map (fun j => (d * 32 + k, j)))).flatten

theorem mem_parkedJobs {d tok : Nat} {e : Nat × Job} :
    e ∈ parkedJobs s d tok ↔ e.1 / 32 = d ∧ e.2 ∈ (s.clus e.1).jobs ∧ parkedAs tok e.2.park = true := by
  obtain ⟨c, j⟩ := e
  simp only [parkedJobs, List.mem_flatten, List.mem_map, List.mem_range]
  constructor
  · rintro ⟨_, ⟨k, hk, rfl⟩, hj⟩
    obtain ⟨_, hm, he⟩ := List.mem_map.1 hj
    cases he
    exact ⟨by omega, (List.mem_filter.1 hm).1, (List.mem_filter.1 hm).2⟩
  · rintro ⟨hc, hj⟩
    have hd : d * 32 + c % 32 = c := by omega
    exact ⟨_, ⟨c % 32, by omega, rfl⟩, List.mem_map.2 ⟨j, List.mem_filter.2 (by rwa [hd]), by rw [hd]⟩⟩

theorem modJob_leaves (s : State) (cl u n : Nat) (f : Job → Job) : LeavesThreads s (modJob s cl u n f) := .modClus ..

theorem fillDone_leaves (s : State) (q n : Nat) (b : Bool) : LeavesThreads s (fillDone s q n b) := by
  unfold fillDone modTile
  exact .modCore ..

theorem endJob_leaves (s : State) (cl u n : Nat) (r : Settled) : LeavesThreads s (endJob s cl u n r) := by
  unfold endJob
  split
  · exact .refl s
  · split
    · exact .refl s
    · dsimp only
      split
      · exact ((modJob_leaves ..).trans (.modCore ..)).trans (fillDone_leaves ..)
      · exact (modJob_leaves ..).trans (.modCore ..)

theorem fqResolve_leaves (s : State) (d tok : Nat) (abort : Bool) : LeavesThreads s (fqResolve s d tok abort) := by
  unfold fqResolve
  dsimp only
  split
  · split
    · exact endJob_leaves ..
    · exact modJob_leaves ..
  · exact ⟨rfl, rfl, rfl, rfl⟩

/-- The first job parked under the TOKEN is aborted or replayed. -/
theorem fqResolve_of_parked {d tok c : Nat} {abort : Bool} {e : Job} {l : List (Nat × Job)} (h : parkedJobs s d tok = (c, e) :: l) :
    fqResolve s d tok abort = if abort then endJob s c e.unit e.seq { state := 2, cause := (e.park.map (·.cause)).getD 0 }
      else modJob s c e.unit e.seq (fun j => { j with park := none }) := by
  unfold parkedJobs at h
  unfold fqResolve
  rw [h]

theorem jobAt_retireWith (s : State) (len : Nat) (f : Thread → Thread) (cl u n : Nat) :
    jobAt (s.retireWith len f) cl u n = jobAt s cl u n := rfl

/-- A change that keeps a job's unit and number is found under them. -/
theorem jobAt_modJob {cl u n : Nat} {f : Job → Job} (hf : ∀ j, (f j).unit = j.unit ∧ (f j).seq = j.seq) :
    jobAt (modJob s cl u n f) cl u n = (jobAt s cl u n).map f := by
  unfold jobAt modJob
  rw [State.modClus_eq, State.clus_setClus_same, List.find?_map]
  have hp : ((fun j : Job => j.unit == u && j.seq == n) ∘ fun j => if j.unit == u && j.seq == n then f j else j)
      = fun j => j.unit == u && j.seq == n := by
    funext j
    simp only [Function.comp_apply]
    split
    · rw [(hf j).1, (hf j).2]
    · rfl
  rw [hp]
  cases h : (s.clus cl).jobs.find? (fun j => j.unit == u && j.seq == n) with
  | none => rfl
  | some j => simp only [Option.map_some, List.find?_some h, if_true]

theorem jobAt_endJob {cl u n : Nat} {j : Job} {r : Settled} (hj : jobAt s cl u n = some j) (hn : j.result = none) :
    jobAt (endJob s cl u n r) cl u n = some { j.commit with st := .ended, park := none, result := some r } := by
  have hm := jobAt_modJob (s := s) (cl := cl) (u := u) (n := n)
    (f := fun j => { j.commit with st := .ended, park := none, result := some r }) (fun _ => ⟨rfl, rfl⟩)
  rw [hj] at hm
  unfold endJob
  rw [hj]
  simp only [hn, Option.isSome_none, Bool.false_eq_true, if_false]
  split <;> exact hm

/-- A TOKEN that names one parked job resolves it: the job is parked no longer. -/
theorem park_fqResolve {d tok cl : Nat} {abort : Bool} {j : Job} (hd : cl / 32 = d) (hj : jobAt s cl j.unit j.seq = some j)
    (hn : j.result = none) (hp : parkedAs tok j.park = true)
    (hu : ∀ c e, c / 32 = d → e ∈ (s.clus c).jobs → parkedAs tok e.park = true → c = cl ∧ e.unit = j.unit ∧ e.seq = j.seq) :
    ∃ k, jobAt (fqResolve s d tok abort) cl j.unit j.seq = some k ∧ k.park = none := by
  have hm : (cl, j) ∈ parkedJobs s d tok := mem_parkedJobs.2 ⟨hd, List.mem_of_find?_eq_some hj, hp⟩
  obtain ⟨⟨c, e⟩, l, hl⟩ := List.exists_cons_of_ne_nil (List.ne_nil_of_mem hm)
  have he : (c, e) ∈ parkedJobs s d tok := hl ▸ List.mem_cons_self
  obtain ⟨hc, hmem, hpe⟩ := mem_parkedJobs.1 he
  obtain ⟨rfl, heu, hes⟩ := hu c e hc hmem hpe
  rw [fqResolve_of_parked hl, heu, hes]
  cases abort
  · exact ⟨_, by rw [if_neg Bool.false_ne_true, jobAt_modJob (f := fun j => { j with park := none }) (fun _ => ⟨rfl, rfl⟩), hj]; rfl, rfl⟩
  · exact ⟨_, by rw [if_pos rfl, jobAt_endJob hj hn], rfl⟩

theorem execWrsr_fqcmd (hr : Ready s g) (hs : s.me.sup = true) (hx : o.imm.toNat % 65536 = 0x086) :
    execWrsr g o s = .next ((fqResolve s (s.cur / 1024) ((s.me.rg o.ra).toNat % 2 ^ 32) ((s.me.rg o.ra).getLsbD 63)).retireWith 8 id) := by
  refine srWrite_done hr (fun _ => hs) ?_
  simp only [srIndex, hx, ← dieOf_coreOf]
  rfl

/-! ### The statement, register by register -/

/-- An instruction whose check decides between its end and a trap. -/
theorem gives_or_traps {i : Instr} {P : Prop} [Decidable P] {t u : State} {p : State → Prop} (h : exec i s = .next (if P then t else u))
    (hp : p t) : if P then Gives i s p else exec i s = .next u := by
  split
  next hP => exact ⟨t, by rw [h, if_pos hP], hp⟩
  next hP => rw [h, if_neg hP]

theorem wrsr_fqcmd_gives (hr : Ready s g) (hx : o.imm.toNat % 65536 = 0x086) (hs : s.me.status.getLsbD 0 = true) :
    let v := s.me.rg o.ra
    let d := s.cur / 1024
    Gives (.wrsr g o) s (fun t => t.me.pc = follows s.me 8 ∧ t.blocked = false ∧ (∀ r, t.me.rg r = s.me.rg r)
      ∧ ∀ cl j, cl / 32 = d → jobAt s cl j.unit j.seq = some j → j.result = none → (∀ p, j.park = some p → p.token = some (v.toNat % 2 ^ 32) →
        (∀ c e, c / 32 = d → e ∈ (s.clus c).jobs → parkedAs (v.toNat % 2 ^ 32) e.park = true → c = cl ∧ e.unit = j.unit ∧ e.seq = j.seq) →
        ∃ k, jobAt t cl j.unit j.seq = some k ∧ k.park = none)) := by
  intro v d
  have hm : ((fqResolve s d (v.toNat % 2 ^ 32) (v.getLsbD 63)).retireWith 8 id).me = s.me.next 8 := by
    rw [State.me_retireWith, (fqResolve_leaves ..).me, id]
  refine ⟨_, execWrsr_fqcmd hr hs hx, ?_, rfl, fun r => ?_, fun cl j hd hj hn p hp ht hu => ?_⟩
  · rw [hm]; rfl
  · rw [hm, Thread.rg_next]
  · rw [jobAt_retireWith]
    exact park_fqResolve hd hj hn (by rw [hp]; exact beq_iff_eq.2 ht) hu

theorem loftsplitWrite_gives (hr : Ready s g) (hs : s.me.status.getLsbD 0 = true) :
    let q := s.cur / 4
    Gives (.loftsplitWrite g o) s (fun t => GoesOn s t 8 id ∧ (t.core q).loftReq = (s.me.rg o.ra).toNat % 4
      ∧ (t.core q).loftCur = (s.core q).loftCur ∧ ∀ k, k ≠ q → t.core k = s.core k) := by
  obtain ⟨hg, hc⟩ := goesOn_modCore s (s.cur / 4) (fun c => { c with loftReq := (s.me.rg o.ra).toNat % 4 })
  exact ⟨_, execLoftsplitWrite_eq hr hs, hg, by rw [hc, if_pos rfl], by rw [hc, if_pos rfl], fun k hk => by rw [hc, if_neg hk]⟩

theorem wireRegWrite_gives (hr : Ready s g) (hx : o.imm.toNat % 65536 = 0x043 ∨ o.imm.toNat % 65536 = 0x044) :
    let ix := o.imm.toNat % 65536
    let v := s.me.rg o.ra
    let q := s.cur / 4
    Gives (.wireRegWrite g o) s (fun t => GoesOn s t 8 id ∧ (∀ k, k ≠ q → t.core k = s.core k) ∧
      if ∃ k : Fin 4, (s.th (q * 4 + k.val)).wire.isSome = true
      then (t.core q).wiregrp = (s.core q).wiregrp ∧ (t.core q).wiretmo = (s.core q).wiretmo
        ∧ (ix = 0x043 → (t.core q).wireNew = some (v &&& 0xFFFFF)) ∧ (ix = 0x044 → (t.core q).tmoNew = some (v &&& 0xFFFFFFFF))
      else (ix = 0x043 → (t.core q).wiregrp = v &&& 0xFFFFF) ∧ (ix = 0x044 → (t.core q).wiretmo = v &&& 0xFFFFFFFF)) := by
  intro ix v q
  refine ⟨_, execWireRegWrite_eq hr hx, ((LeavesThreads.modCore ..).trans (wireSettle_leaves ..)).goesOn 8, fun k hk => ?_, ?_⟩
  · rw [State.core_retireWith, core_wireSettle_other _ hk, State.modCore_eq, State.core_setCore, if_neg hk]
  · have hw : (s.modCore q (wirePending ix v)).core q = wirePending ix v (s.core q) := State.core_setCore_same ..
    rw [State.core_retireWith]
    split
    next h =>
      rw [wireSettle_of_waits (s := s.modCore q (wirePending ix v)) h, hw]
      exact ⟨wiregrp_wirePending .., wiretmo_wirePending .., fun hi => hi ▸ wireNew_wirePending .., fun hi => hi ▸ tmoNew_wirePending ..⟩
    next h =>
      rw [wireSettle_of_none (s := s.modCore q (wirePending ix v)) h, State.modCore_eq, State.core_setCore_same, hw]
      exact ⟨fun hi => by rw [hi, wireNew_wirePending]; rfl, fun hi => by rw [hi, tmoNew_wirePending]; rfl⟩

theorem vicgroupWrite_gives (hr : Ready s g) (hs : s.me.status.getLsbD 0 = true) :
    Gives (.vicgroupWrite g o) s (fun t => GoesOn s t 8 id ∧ (t.clus (s.cur / 32)).vicgroup = s.me.rg o.ra &&& 0xFF
      ∧ ∀ k, k / 8 = s.cur / 32 → ∀ e ∈ (t.core k).l1, e.2.pool = false ∧ e ∈ (s.core k).l1) := by
  refine ⟨_, execVicgroupWrite_eq hr hs, ((LeavesThreads.foldl dropPool_leaves ..).trans (.modClus ..)).goesOn 8, ?_, fun k hk e he => ?_⟩
  · rw [State.clus_retireWith, clusOf_coreOf, State.modClus_eq, State.clus_setClus_same]
  · rw [State.core_retireWith, State.modClus_eq, State.core_setClus] at he
    obtain ⟨hm, hp⟩ := mem_l1_of_foldl_dropPool _ he
    exact ⟨hp (mem_clusterCores (hk.trans (clusOf_coreOf _).symm)), hm⟩

end

/-- Settles O42, register by register: reads by `readSr_of_srValue`, writes by what `srWrite` and `srLegal` answer, and what the work leaves
unchanged by `LeavesThreads`. -/
theorem systemRegisters : Obligations.SystemRegisters := by
  intro g o s hr
  refine ⟨fun x => exec_rdsr hr, fun h => ⟨_, execWrsr_thread hr h, goesOn_modMe ..⟩,
    fun x h hs => ⟨_, execWrsr_die hr hs h, goesOn_modDie ..⟩, wrsr_fqcmd_gives hr,
    fun hx => ⟨fun hv => ⟨_, execStatusWrite_ok hr hx hv, goesOn_modMe ..⟩, execStatusWrite_illegal hr hx⟩,
    fun hx => gives_or_traps (execRxRingRegWrite_base hr hx) (goesOn_modMe ..),
    fun hx => gives_or_traps (execRxRingRegWrite_size hr hx) (goesOn_modMe ..), fun hx => ⟨_, execRxheadWrite_eq hr hx, goesOn_modMe ..⟩,
    fun _ => loftsplitWrite_gives hr, wireRegWrite_gives hr, fun hx => ?_, fun _ => vicgroupWrite_gives hr,
    fun _ hs => gives_or_traps (execFqcfgWrite_eq hr hs) ?_⟩
  · split
    next hv => exact fun hs => ⟨_, execWallowWrite_ok hr hs hv, goesOn_modCore ..⟩
    next hv => exact fun hs => execWallowWrite_illegal hr hs hv
  · rw [dieOf_coreOf]
    exact goesOn_modDie ..

end Sys2Proof.Proofs
end
